-- ==== Sys2Proof/Word.lean ====
section
/-! DEFINITION. The words of the SZ-9840 (spec/00_scope.md R7) and their plainest arithmetic. -/

namespace Sys2Proof

/-- A byte is 8 bits (R7). -/
abbrev Byte := BitVec 8
/-- A word is 32 bits (R7). -/
abbrev Word := BitVec 32
/-- A dword is 64 bits (R7). -/
abbrev Dword := BitVec 64
/-- A vector register: 256 lanes of 32 bits, lane i at bits [32i+31 : 32i] (R273). -/
abbrev Vec := BitVec 8192
/-- A predicate: bit i governs lane i (R273). -/
abbrev Pred := BitVec 256
/-- A 64-byte line, byte k at bits [8k+7 : 8k] (R153). -/
abbrev LineData := BitVec 512

end Sys2Proof
end

