-- ==== Sys2Proof/Machine/Bits.lean ====
section
/-! DEFINITION. Bit fields of registers, lanes of vectors, bytes of memory words: the small helpers every
meaning uses. -/

namespace Sys2Proof.Machine

/-- Bits [lo+n-1 : lo] of a number. -/
def bits (w lo n : Nat) : Nat := w / 2 ^ lo % 2 ^ n
/-- Bit k of a number. -/
def bitAt (w k : Nat) : Bool := w / 2 ^ k % 2 == 1
/-- A number of n bits read as two's complement. -/
def sext (n w : Nat) : Int := if w % 2 ^ n < 2 ^ (n - 1) then (w % 2 ^ n : Nat) else (w % 2 ^ n : Nat) - (2 ^ n : Nat)
/-- An integer wrapped to 64 bits. -/
def dw (i : Int) : Dword := BitVec.ofInt 64 i
/-- A Nat wrapped to 64 bits. -/
def dn (n : Nat) : Dword := BitVec.ofNat 64 n
/-- 1 or 0. -/
def bit01 (b : Bool) : Nat := if b then 1 else 0

/-- Fields f 0 … f (k-1), each w bits wide, from the low end up. -/
def pack (w : Nat) (f : Nat → Nat) : Nat → Nat
  | 0 => 0
  | k + 1 => pack w f k + f k % 2 ^ w * 2 ^ (w * k)

/-- Lane i of a vector register (R273). -/
def lane (v : Vec) (i : Nat) : Word := v.extractLsb' (32 * i) 32
/-- The vector register whose lane i is f i. -/
def vecOf (f : Nat → Word) : Vec := BitVec.ofNat 8192 (pack 32 (fun i => (f i).toNat) 256)
/-- The predicate whose bit i is f i. -/
def predOf (f : Nat → Bool) : Pred := BitVec.ofNat 256 (pack 1 (fun i => bit01 (f i)) 256)
/-- Lanes under a mask: f i where bit i of m is 1, the old lane elsewhere (R83). -/
def merge (m : Pred) (old : Vec) (f : Nat → Word) : Vec :=
  vecOf fun i => if m.getLsbD i then f i else lane old i
/-- Lane i of an accumulator (R255). -/
def accLane (v : BitVec 16384) (i : Nat) : Dword := v.extractLsb' (64 * i) 64
/-- The accumulator lanes given by f. -/
def accOf (f : Nat → Dword) : BitVec 16384 := BitVec.ofNat 16384 (pack 64 (fun i => (f i).toNat) 256)

/-- Byte k of a number, little-endian (R7). -/
def byteAt (v k : Nat) : Byte := BitVec.ofNat 8 (v / 2 ^ (8 * k))
/-- The number whose little-endian bytes are the list's. -/
def ofBytes : List Byte → Nat
  | [] => 0
  | b :: bs => b.toNat + 256 * ofBytes bs
/-- The n low bytes of a number, lowest first. -/
def toBytes (v : Nat) : Nat → List Byte
  | 0 => []
  | n + 1 => BitVec.ofNat 8 v :: toBytes (v / 256) n
/-- Replaces bits [lo+n-1 : lo] of a number. -/
def putBits (w lo n x : Nat) : Nat := w - bits w lo n * 2 ^ lo + x % 2 ^ n * 2 ^ lo
/-- Number of 1 bits among the low n. -/
def popcount (w : Nat) : Nat → Nat
  | 0 => 0
  | n + 1 => popcount w n + w / 2 ^ n % 2
/-- The least number below n for which p holds; n when none does. -/
def leastBit (p : Nat → Bool) : Nat → Nat
  | 0 => 0
  | n + 1 => if leastBit p n < n then leastBit p n else if p n then n else n + 1
/-- ⌊log₂⌋ of a positive number; 0 of 0. -/
def ilog2 (n : Nat) : Nat := Nat.log2 n

end Sys2Proof.Machine
end

