-- ==== Sys2Proof/Config.lean ====
section
/-! DEFINITION. What the spec leaves open and every run shares: constants without a body, so that a
statement holds whatever they are, and the numbers of spec/00 R1-R3. -/

namespace Sys2Proof.Config

/-- A value the spec leaves open between named outcomes (R11), fresh for each value of the state's
counter `free` (DESIGN CHOICE, log 3). -/
opaque freeBit : Nat → Bool
/-- A 64-bit value the spec does not state, fresh for each value of the state's counter `free` (DESIGN CHOICE, log 3).
-/
opaque freeDword : Nat → Dword

/-- The number that stands for the kind of a cancelled access in a save image (R361 names the field, not its
codes), by the model's own order of the kinds (DESIGN CHOICE, log 73). -/
opaque saveKind : Nat → Dword
/-- The byte that stands for an accumulator's KIND in a save image: of ZERO, F and I in that order (R361)
(DESIGN CHOICE, log 73). -/
opaque accCode : Nat → Byte
/-- SHAKE256 of a byte string, as a bit string of the given number of bytes; the device secret of R393 is
not known, so no value of it is used. -/
opaque shake256 : List Byte → Nat → Nat
/-- The set of a slice's cache that a line's key selects, and the set of an L1 (R149, R191 count 16 ways in each; the
spec does not say how a set is selected) (DESIGN CHOICE, log 125). -/
opaque homeSet : Nat → Nat
opaque l1Set : Nat → Nat
/-- What a line reads as that was encrypted under the first key and is decrypted under the second, by its tweak PA[51:6]
and its plain text (R154: AES-256-XTS); the spec states no value (DESIGN CHOICE, log 123). -/
opaque wrongKey : BitVec 512 → BitVec 512 → Nat → Nat → Nat
/-- The HBM stack that holds a physical line (R400, R401 count by stack; the spec does not place lines)
(DESIGN CHOICE, log 68). -/
opaque stackOf : Nat → Nat
/-- The counts that the device's sensors have added since they were last looked at, by key, fresh for each value of the
state's counter `free`: which banks, macros, bins and how many the spec does not say (R401) (DESIGN CHOICE, log 68). -/
opaque sensedRises : Nat → List (Nat × Nat)
/-- The device secret fused at manufacture (R393). -/
opaque rootSecret : List Byte
/-- The device's certificate chain (R394 answers with it and does not give it). -/
opaque certChain : List Byte
/-- The XMSS signature with an index over a message (R394, R395). -/
opaque xmssSign : Nat → List Byte → List Byte
/-- Whether an XMSS signature over a message verifies under a tenant's public key (R396). -/
opaque xmssVerify : BitVec 512 → List Byte → List Byte → Bool
/-- AES-256-GCM of a plaintext under a key and a nonce (R397). -/
opaque aesGcm : Nat → Nat → List Byte → List Byte
/-- The measurement block of an index, of the boot ROM and firmware (R394). -/
opaque firmwareDigest : Nat → BitVec 512
/-- The native text that the runtime's translator makes of a portable image (R388): an open choice of the runtime's
software, called with the partition's core map, its clusters and slices; none when it fails (DESIGN CHOICE, log 96).
-/
opaque translate : List Byte → List Nat → List Nat → Option (List Byte)

/-- Far cores are the global numbers 0 to 511, home cores 512 to 767 (R19). -/
def isHome (core : Nat) : Bool := 512 ≤ core
/-- Contexts of a core (R45). -/
def contexts (core : Nat) : Nat := if isHome core then 4 else 8
/-- TCM bytes of a core (R2, R96). -/
def tcmSize (core : Nat) : Nat := if isHome core then 0x20000 else 0x80000
/-- Die of a core (R19). -/
def dieOf (core : Nat) : Nat := if isHome core then (core - 512) / 64 else core / 128
/-- Cluster 16d + c of a far core (R19, R120). -/
def clusterOf (core : Nat) : Nat := core / 8
/-- Scratchpad bytes (R151). -/
def spmSize : Nat := 0x600000
/-- The revision the device reports (spec/19, At entry; R337) (PRESUMED, log 97). -/
def revision : Nat := 0x0312
/-- The feature level the device reports (spec/19, At entry; R337) (PRESUMED, log 97). -/
def level : Nat := 4

end Sys2Proof.Config
end

