-- ==== Sys2Proof/Machine/FMap.lean ====
section
/-! DEFINITION. Finite maps as lists of key and value in rising key order: the one shape in which State
holds register files, cores, slices, lines and memory bytes. `fget`/`fset` read and write a map whose absent
keys read as a default; `bget`/`bput` are the byte memories, in which a byte equal to what an unlisted
address reads as (0) is never listed. -/

namespace Sys2Proof.Machine

/-- A finite map: rising keys. -/
abbrev FMap (α : Type) := List (Nat × α)

/-- The value at `k`; `d` where the map lists none. -/
def fget {α : Type} (d : α) : FMap α → Nat → α
  | [], _ => d
  | (j, v) :: m, k => if j = k then v else fget d m k

/-- The value listed at `k`. -/
def ffind {α : Type} : FMap α → Nat → Option α
  | [], _ => none
  | (j, v) :: m, k => if j = k then some v else ffind m k

/-- Writes the value at `k`. -/
def fset {α : Type} : FMap α → Nat → α → FMap α
  | [], k, v => [(k, v)]
  | (j, w) :: m, k, v =>
    if k < j then (k, v) :: (j, w) :: m
    else if k = j then (k, v) :: m
    else (j, w) :: fset m k v

/-- Removes the entry at `k`. -/
def fdel {α : Type} : FMap α → Nat → FMap α
  | [], _ => []
  | (j, w) :: m, k => if j = k then m else (j, w) :: fdel m k

/-- The byte at address `a`: 0 where none is listed (R390: firmware zeroes what it grants). -/
def bget (m : FMap Byte) (a : Nat) : Byte := fget 0 m a

/-- Writes the byte at address `a`, keeping the canonical form: a 0 is not listed. -/
def bput : FMap Byte → Nat → Byte → FMap Byte
  | [], a, b => if b = 0 then [] else [(a, b)]
  | (j, w) :: m, a, b =>
    if a < j then (if b = 0 then (j, w) :: m else (a, b) :: (j, w) :: m)
    else if a = j then (if b = 0 then m else (a, b) :: m)
    else (j, w) :: bput m a b

/-- The keys rise strictly and all lie at or above `lo`. -/
def frising {α : Type} : Nat → FMap α → Bool
  | _, [] => true
  | lo, (j, _) :: m => decide (lo ≤ j) && frising (j + 1) m

/-- The canonical form of a byte memory: strictly rising addresses, no byte 0 listed. -/
def Memory.wf (m : FMap Byte) : Bool := frising 0 m && m.all fun c => c.2 != 0

end Sys2Proof.Machine
end

