-- ==== Sys2Proof/Syntax.lean ====
section
/-! DEFINITION. The whole syntax: one constructor of `Instr` for each row of spec/opcode_table.json.
A bundle instruction carries the fields of its body format (spec/05 R86); an A-class one also its governing
predicate `gp` (R82). An event row carries the numbers that name where it happens. -/

namespace Sys2Proof

/-- R format (R86). -/
structure FmtR where
  func : BitVec 3
  w2   : BitVec 1
  w1   : BitVec 1
  rs2  : BitVec 6
  rs1  : BitVec 6
  rd   : BitVec 6
  deriving DecidableEq, Repr

/-- I format: `lit` is the literal of a lone bundle, 0 for the short form (R85, R86). -/
structure FmtI where
  imm : BitVec 10
  w1  : BitVec 1
  rs1 : BitVec 6
  rd  : BitVec 6
  lit : Word
  deriving DecidableEq, Repr

/-- U format. -/
structure FmtU where
  imm : BitVec 17
  rd  : BitVec 6
  lit : Word
  deriving DecidableEq, Repr

/-- J format. -/
structure FmtJ where
  off : BitVec 17
  rd  : BitVec 6
  lit : Word
  deriving DecidableEq, Repr

/-- B format. -/
structure FmtB where
  off : BitVec 9
  w2  : BitVec 1
  w1  : BitVec 1
  rs1 : BitVec 6
  rs2 : BitVec 6
  lit : Word
  deriving DecidableEq, Repr

/-- Z format. -/
structure FmtZ where
  off : BitVec 14
  ne  : BitVec 1
  vec : BitVec 1
  w1  : BitVec 1
  rs  : BitVec 6
  lit : Word
  deriving DecidableEq, Repr

/-- L format. -/
structure FmtL where
  off : BitVec 8
  sp  : BitVec 2
  w1  : BitVec 1
  rs1 : BitVec 6
  rd  : BitVec 6
  lit : Word
  deriving DecidableEq, Repr

/-- S format. -/
structure FmtS where
  off : BitVec 7
  sp  : BitVec 2
  w2  : BitVec 1
  w1  : BitVec 1
  rs1 : BitVec 6
  rs2 : BitVec 6
  lit : Word
  deriving DecidableEq, Repr

/-- LA format. -/
structure FmtLA where
  off   : BitVec 7
  scope : BitVec 3
  w1    : BitVec 1
  rs1   : BitVec 6
  rd    : BitVec 6
  lit   : Word
  deriving DecidableEq, Repr

/-- SR format. -/
structure FmtSR where
  off   : BitVec 6
  scope : BitVec 3
  w2    : BitVec 1
  w1    : BitVec 1
  rs1   : BitVec 6
  rs2   : BitVec 6
  lit   : Word
  deriving DecidableEq, Repr

/-- AM format. -/
structure FmtAM where
  scope : BitVec 3
  w2    : BitVec 1
  w1    : BitVec 1
  rs2   : BitVec 6
  rs1   : BitVec 6
  rd    : BitVec 6
  lit   : Word
  deriving DecidableEq, Repr

/-- F format: `zero` is the field R86 marks zero. -/
structure FmtF where
  zero  : BitVec 15
  pt    : BitVec 1
  scope : BitVec 3
  mask  : BitVec 4
  deriving DecidableEq, Repr

/-- CR format. -/
structure FmtCR where
  zero : BitVec 3
  sc   : BitVec 1
  w    : BitVec 1
  crn  : BitVec 12
  x    : BitVec 6
  deriving DecidableEq, Repr

/-- C format. -/
structure FmtC where
  h    : BitVec 3
  sp   : BitVec 2
  rlen : BitVec 6
  rsrc : BitVec 6
  rdst : BitVec 6
  lit  : Word
  deriving DecidableEq, Repr

/-- T format. -/
structure FmtT where
  zero : BitVec 1
  body : BitVec 10
  rb   : BitVec 6
  rl   : BitVec 6
  deriving DecidableEq, Repr

/-- H format: the body number is in the literal. -/
structure FmtH where
  zero : BitVec 5
  rt   : BitVec 6
  rb   : BitVec 6
  rl   : BitVec 6
  lit  : Word
  deriving DecidableEq, Repr

/-- TL format: the pc, in bundles, is in the literal. -/
structure FmtTL where
  zero  : BitVec 9
  group : BitVec 8
  rap   : BitVec 6
  lit   : Word
  deriving DecidableEq, Repr

/-- G format. -/
structure FmtG where
  func  : BitVec 3
  zeroA : BitVec 6
  group : BitVec 8
  zeroB : BitVec 6
  deriving DecidableEq, Repr

/-- Q format. -/
structure FmtQ where
  func : BitVec 3
  zero : BitVec 8
  sem  : BitVec 6
  rd   : BitVec 6
  deriving DecidableEq, Repr

/-- SB format. -/
structure FmtSB where
  zero : BitVec 8
  eng  : BitVec 3
  rs1  : BitVec 6
  vd   : BitVec 6
  deriving DecidableEq, Repr

/-- The eight dwords of a launch record as the host writes them (R57). -/
structure LaunchRecord where
  start : Dword
  ap    : Dword
  cls   : Dword
  bodyt : Dword
  res4  : Dword
  res5  : Dword
  res6  : Dword
  go    : Dword
  deriving DecidableEq, Repr

/-- The load record as the host writes it (R380). -/
structure LoadRecord where
  obj   : Dword
  dbase : Dword
  go    : Dword
  deriving DecidableEq, Repr

/-- What the create command names (R390), what firmware writes into PTROOT and WALKCFG, and the
64 bytes drawn from the entropy source (R393). -/
structure PartitionSpec where
  part     : Nat
  clusters : List Nat
  slices   : List Nat
  /-- granted frames: runs of (first 4 KiB frame number, count) -/
  frames   : List (Nat × Nat)
  ceiling  : BitVec 40
  ptroot   : Dword
  walkcfg  : Dword
  entropy  : BitVec 512
  deriving DecidableEq, Repr

/-- VENDOR_DEFINED_REQUEST in a tenant's session: the key the tenant installs, or a debug
policy (R396). -/
inductive VendorRequest where
  | installKey (key : BitVec 512)
  | policy (bytes : List Byte)
  deriving DecidableEq, Repr

/-- A TDISP request of the tenant (R390). -/
inductive TdispRequest where
  | lock
  | start
  | stop
  deriving DecidableEq, Repr

/-- A request of a peer package over a Fyalmya Link (R198); `pa` is the physical address in this
package's memory of the line it owns. -/
inductive PeerRequest where
  | miss (pa : Nat)
  | writeback (pa : Nat) (data : LineData) (mask : BitVec 64)
  | atomic (pa : Nat) (op : Nat) (b c : Dword)
  | fullWrite (pa : Nat) (data : Dword)
  | fullRead (pa : Nat)
  | fullClear (pa : Nat)
  deriving DecidableEq, Repr

/-- The instructions and events of the SZ-9840, in the order of the opcode table. -/
inductive Instr where
  /-- ADD (R100). Writes rs1 plus rs2, modulo 2^64, to rd. -/
  | add (gp : BitVec 2) (f : FmtR)
  /-- SUB (R100). Writes rs1 minus rs2 to rd. -/
  | sub (gp : BitVec 2) (f : FmtR)
  /-- AND (R100). Writes the bitwise AND of rs1 and rs2 to rd. -/
  | and (gp : BitVec 2) (f : FmtR)
  /-- OR (R100). Writes the bitwise OR of rs1 and rs2 to rd. -/
  | or (gp : BitVec 2) (f : FmtR)
  /-- XOR (R100). Writes the bitwise XOR of rs1 and rs2 to rd. -/
  | xor (gp : BitVec 2) (f : FmtR)
  /-- SLL (R100). Shifts rs1 left by rs2[5:0]. -/
  | sll (gp : BitVec 2) (f : FmtR)
  /-- SRL (R100). Shifts rs1 right by rs2[5:0], filling with zeros. -/
  | srl (gp : BitVec 2) (f : FmtR)
  /-- SRA (R100). Shifts rs1 right by rs2[5:0], filling with the sign bit. -/
  | sra (gp : BitVec 2) (f : FmtR)
  /-- SLT (R100). Writes 1 to rd if rs1 is less than rs2 as signed values, and 0 otherwise. -/
  | slt (gp : BitVec 2) (f : FmtR)
  /-- SLTU (R100). Writes 1 to rd if rs1 is less than rs2 as unsigned values, and 0 otherwise. -/
  | sltu (gp : BitVec 2) (f : FmtR)
  /-- MIN (R100). Writes the signed minimum of rs1 and rs2 to rd. -/
  | min (gp : BitVec 2) (f : FmtR)
  /-- MAX (R100). Writes the signed maximum of rs1 and rs2 to rd. -/
  | max (gp : BitVec 2) (f : FmtR)
  /-- MINU (R100). Writes the unsigned minimum of rs1 and rs2 to rd. -/
  | minu (gp : BitVec 2) (f : FmtR)
  /-- MAXU (R100). Writes the unsigned maximum of rs1 and rs2 to rd. -/
  | maxu (gp : BitVec 2) (f : FmtR)
  /-- MUL (R100). Writes the low 64 bits of the product of rs1 and rs2 to rd. -/
  | mul (gp : BitVec 2) (f : FmtR)
  /-- MULH (R100). Writes the high 64 bits of the signed product to rd. -/
  | mulh (gp : BitVec 2) (f : FmtR)
  /-- MULHU (R100). Writes the high 64 bits of the unsigned product to rd. -/
  | mulhu (gp : BitVec 2) (f : FmtR)
  /-- DIV (R101). Writes the signed quotient to rd, rounded toward zero, with fixed results for the boundary cases. -/
  | div (gp : BitVec 2) (f : FmtR)
  /-- DIVU (R101). Writes the unsigned quotient to rd. -/
  | divu (gp : BitVec 2) (f : FmtR)
  /-- REM (R101). Writes the signed remainder to rd. -/
  | rem (gp : BitVec 2) (f : FmtR)
  /-- REMU (R101). Writes the unsigned remainder to rd. -/
  | remu (gp : BitVec 2) (f : FmtR)
  /-- ADDSH (R102). Writes rs1 plus rs2 shifted left by the func shift to rd. -/
  | addsh (gp : BitVec 2) (f : FmtR)
  /-- CLZ (R103). Writes the count of leading zero bits of rs1 to rd. -/
  | clz (gp : BitVec 2) (f : FmtR)
  /-- CTZ (R103). Writes the count of trailing zero bits of rs1 to rd. -/
  | ctz (gp : BitVec 2) (f : FmtR)
  /-- POPC (R103). Writes the count of 1 bits of rs1 to rd. -/
  | popc (gp : BitVec 2) (f : FmtR)
  /-- BEXT (R103). Extracts the bits of rs1 selected by mask rs2 and packs them into the low end. -/
  | bext (gp : BitVec 2) (f : FmtR)
  /-- BDEP (R103). Deposits the low bits of rs1 at the 1 bits of mask rs2. -/
  | bdep (gp : BitVec 2) (f : FmtR)
  /-- SEL (R102). Writes rs1 to rd if bit 0 of predicate pn is 1, and rs2 otherwise. -/
  | sel (gp : BitVec 2) (f : FmtR)
  /-- ADDI (R104). Writes rs1 plus a sign-extended immediate to rd. -/
  | addi (gp : BitVec 2) (f : FmtI)
  /-- ANDI (R104). Writes rs1 AND an immediate to rd. -/
  | andi (gp : BitVec 2) (f : FmtI)
  /-- ORI (R104). Writes rs1 OR an immediate to rd. -/
  | ori (gp : BitVec 2) (f : FmtI)
  /-- XORI (R104). Writes rs1 XOR an immediate to rd. -/
  | xori (gp : BitVec 2) (f : FmtI)
  /-- SLLI (R104). Shifts rs1 left by an immediate count from 0 to 63. -/
  | slli (gp : BitVec 2) (f : FmtI)
  /-- SRLI (R104). Shifts rs1 logically right by an immediate count. -/
  | srli (gp : BitVec 2) (f : FmtI)
  /-- SRAI (R104). Shifts rs1 arithmetically right by an immediate count. -/
  | srai (gp : BitVec 2) (f : FmtI)
  /-- SLTI (R104). Writes 1 to rd if rs1 is less than the immediate as signed values. -/
  | slti (gp : BitVec 2) (f : FmtI)
  /-- SLTIU (R104). Writes 1 to rd if rs1 is less than the sign-extended immediate as unsigned values. -/
  | sltiu (gp : BitVec 2) (f : FmtI)
  /-- LI (R105). Sets rd to a sign-extended immediate. -/
  | li (gp : BitVec 2) (f : FmtU)
  /-- LIH (R105). Sets rd[63:32] to a 32-bit value and keeps rd[31:0]. -/
  | lih (gp : BitVec 2) (f : FmtU)
  /-- FADD (R109). Adds two floating operands with one rounding and ORs the flags into FRM. -/
  | fadd (gp : BitVec 2) (f : FmtR)
  /-- FSUB (R109). Subtracts two floating operands with one rounding. -/
  | fsub (gp : BitVec 2) (f : FmtR)
  /-- FMUL (R109). Multiplies two floating operands with one rounding. -/
  | fmul (gp : BitVec 2) (f : FmtR)
  /-- FDIV (R109). Divides two floating operands with one rounding, using the divide-and-root unit. -/
  | fdiv (gp : BitVec 2) (f : FmtR)
  /-- FSQRT (R109). Writes the square root of a floating operand with one rounding. -/
  | fsqrt (gp : BitVec 2) (f : FmtR)
  /-- FMA (R109). Computes rs1 times rs2 plus the old rd with one rounding. -/
  | fma (gp : BitVec 2) (f : FmtR)
  /-- FMIN (R110). Returns the minimumNumber of two floating operands. -/
  | fmin (gp : BitVec 2) (f : FmtR)
  /-- FMAX (R110). Returns the maximumNumber of two floating operands. -/
  | fmax (gp : BitVec 2) (f : FmtR)
  /-- FCMP (R111). Writes a one-hot mask of less, equal, greater or unordered to rd. -/
  | fcmp (gp : BitVec 2) (f : FmtR)
  /-- FCLASS (R112). Writes a one-hot 10-bit class mask of the operand to rd. -/
  | fclass (gp : BitVec 2) (f : FmtR)
  /-- FCVT (R113). Converts between floating widths and signed integers under a rounding mode. -/
  | fcvt (gp : BitVec 2) (f : FmtR)
  /-- BR (R116). Branches unconditionally by a bundle offset. -/
  | br (f : FmtJ)
  /-- BRL (R116). Writes the return offset to rd and branches by a bundle offset. -/
  | brl (f : FmtJ)
  /-- JR (R116). Jumps to rs1 plus eight times the immediate. -/
  | jr (f : FmtI)
  /-- JRL (R116). Jumps to rs1 plus eight times the immediate and writes the return offset to rd. -/
  | jrl (f : FmtI)
  /-- BC_EQ (R116). Branches when rs1 equals rs2. -/
  | bcEq (f : FmtB)
  /-- BC_NE (R116). Branches when rs1 differs from rs2. -/
  | bcNe (f : FmtB)
  /-- BC_LT (R116). Branches when rs1 is less than rs2 as signed values. -/
  | bcLt (f : FmtB)
  /-- BC_GE (R116). Branches when rs1 is greater than or equal to rs2 as signed values. -/
  | bcGe (f : FmtB)
  /-- BC_LTU (R116). Branches when rs1 is less than rs2 as unsigned values. -/
  | bcLtu (f : FmtB)
  /-- BC_GEU (R116). Branches when rs1 is greater than or equal to rs2 as unsigned values. -/
  | bcGeu (f : FmtB)
  /-- BCZ (R117). Branches on a register being zero or nonzero, or on a bound stream having beats left. -/
  | bcz (f : FmtZ)
  /-- LOOP (R118). Decrements rs and branches while the result is nonzero. -/
  | loop (f : FmtZ)
  /-- CRRD (R122). Copies a control register into rd, which stays empty until arrival for a late register. -/
  | crrd (f : FmtCR)
  /-- CRWR (R123). Writes a control register under that register's own checks and clamps. -/
  | crwr (f : FmtCR)
  /-- CRSETB (R124). Sets one bit of a control register as a CRWR of the modified value. -/
  | crsetb (f : FmtCR)
  /-- CRCLRB (R124). Clears one bit of a control register as a CRWR of the modified value. -/
  | crclrb (f : FmtCR)
  /-- WAITF (R126). Holds the bundle until a register is full, or traps EMPTY with w = 0. -/
  | waitf (f : FmtR)
  /-- SYNCI (R127). Discards the core's fetched bundles and its body cache. -/
  | synci (f : FmtR)
  /-- LDB (R202). Loads a sign-extended byte. -/
  | ldb (f : FmtL)
  /-- LDBU (R202). Loads a zero-extended byte. -/
  | ldbu (f : FmtL)
  /-- LDH (R202). Loads a sign-extended half. -/
  | ldh (f : FmtL)
  /-- LDHU (R202). Loads a zero-extended half. -/
  | ldhu (f : FmtL)
  /-- LDW (R202). Loads a sign-extended word. -/
  | ldw (f : FmtL)
  /-- LDWU (R202). Loads a zero-extended word. -/
  | ldwu (f : FmtL)
  /-- LDD (R202). Loads a dword, marking rd empty until it arrives. -/
  | ldd (f : FmtL)
  /-- STB (R202). Stores the low byte of rs2. -/
  | stb (f : FmtS)
  /-- STH (R202). Stores the low half of rs2. -/
  | sth (f : FmtS)
  /-- STW (R202). Stores the low word of rs2. -/
  | stw (f : FmtS)
  /-- STD (R202). Stores the dword rs2 under the page type's rules. -/
  | std (f : FmtS)
  /-- LDAQ (R204). Loads a dword and then acquires at the scope, with the page type's cache action. -/
  | ldaq (f : FmtLA)
  /-- STRL (R205). Releases at the scope and then stores a dword as the release's last write. -/
  | strl (f : FmtSR)
  /-- LDV (R206). Loads 1 KiB into the 256 lanes of a vector register. -/
  | ldv (f : FmtL)
  /-- STV (R206). Stores the 256 lanes of a vector register to 1 KiB. -/
  | stv (f : FmtS)
  /-- LDVX (R207). Gathers 32-bit elements at indexed addresses into a vector register. -/
  | ldvx (f : FmtR)
  /-- STVX (R207). Scatters the lanes of a vector register to indexed addresses. -/
  | stvx (f : FmtR)
  /-- PREF (R208). Requests the lines of a range into the L1 or the slices, without faulting or waiting. -/
  | pref (f : FmtR)
  /-- INVR (R208). Writes back and drops every L1 line of a range. -/
  | invr (f : FmtR)
  /-- WBR (R208). Writes back the dirty RC and PV bytes of a range and keeps the lines clean. -/
  | wbr (f : FmtR)
  /-- AMOADD (R209). Atomically adds rs2 to a dword and returns the old value. -/
  | amoadd (f : FmtAM)
  /-- AMOAND (R209). Atomically ANDs rs2 into a dword. -/
  | amoand (f : FmtAM)
  /-- AMOOR (R209). Atomically ORs rs2 into a dword. -/
  | amoor (f : FmtAM)
  /-- AMOXOR (R209). Atomically XORs rs2 into a dword. -/
  | amoxor (f : FmtAM)
  /-- AMOMIN (R209). Atomically stores the signed minimum. -/
  | amomin (f : FmtAM)
  /-- AMOMAX (R209). Atomically stores the signed maximum. -/
  | amomax (f : FmtAM)
  /-- AMOMINU (R209). Atomically stores the unsigned minimum. -/
  | amominu (f : FmtAM)
  /-- AMOMAXU (R209). Atomically stores the unsigned maximum. -/
  | amomaxu (f : FmtAM)
  /-- AMOSWP (R209). Atomically swaps rs2 into a dword. -/
  | amoswp (f : FmtAM)
  /-- AMOCAS (R209). Atomically stores rs2 if the dword equals the old rd. -/
  | amocas (f : FmtAM)
  /-- AMOFADD (R209). Atomically adds rs2 to a dword as FP64 with RNE. -/
  | amofadd (f : FmtAM)
  /-- AMOADDT (R144). Atomically adds to a counter and places its template task when the counter reaches zero from nonzero. -/
  | amoaddt (f : FmtAM)
  /-- FENCE (R212). Orders earlier accesses of the named kinds before later ones at a scope, with RC cache actions and the page-table option. -/
  | fence (f : FmtF)
  /-- SIGCLR (R213). Clears the accumulated signature of a line, or the overflow signature. -/
  | sigclr (f : FmtR)
  /-- REGSET (R214). Writes one region-table entry after writing back and dropping the range's L1 lines. -/
  | regset (f : FmtR)
  /-- REGCLR (R214). Clears one region-table entry. -/
  | regclr (f : FmtR)
  /-- RETYPE (R170). Changes a page's type at every home under live traffic and clears TR. -/
  | retype (f : FmtR)
  /-- WSCLR (R216). Empties the WS words of a range and drops their cached copies. -/
  | wsclr (f : FmtR)
  /-- PUBL (R217). Drains host-write buffers at sys scope, then writes the cairn. -/
  | publ (f : FmtR)
  /-- SBIND (R218). Binds a stream engine to a vector register from an eight-register specification. -/
  | sbind (f : FmtSB)
  /-- SUNBIND (R219). Ends a stream binding, draining or discarding its beats. -/
  | sunbind (f : FmtSB)
  /-- CPY (R222). Queues a copy on the cluster engine, with an optional arrival handler. -/
  | cpy (f : FmtC)
  /-- CPY2 (R220). Queues a two-dimensional strided copy. -/
  | cpy2 (f : FmtC)
  /-- CPYM (R194). Queues a copy read once and written to every TCM or scratchpad its mask names. -/
  | cpym (f : FmtC)
  /-- CPYW (R223). Copies and holds the next bundle until completion, taking any fault as a trap. -/
  | cpyw (f : FmtC)
  /-- CPYQ (R224). Writes rd when every uncounted copy of the context has completed, with their count. -/
  | cpyq (f : FmtC)
  /-- SPAWN (R131). Builds a task record for the anchor's home queue in the send buffer. -/
  | spawn (f : FmtT)
  /-- SPAWNH (R130). Builds a task record for a named core or home queue, with its body in the literal. -/
  | spawnh (f : FmtH)
  /-- TAKE (R132). Reserves a context and removes the oldest eligible near task from the queues this home core serves. -/
  | take (f : FmtR)
  /-- STEAL (R132). Reserves a context and steals an eligible far task from the queue at HomeOf(xs). -/
  | steal (f : FmtR)
  /-- STEAL_ANY (R37). Steals from an advertising home chosen from the steal bitmaps. -/
  | stealAny (f : FmtR)
  /-- TEND (R39). Waits for the context's accesses, releases, sends the buffered records, retires the task and goes dormant. -/
  | tend (f : FmtR)
  /-- TABORT (R43). Discards the buffered sends, releases and retires the task. -/
  | tabort (f : FmtR)
  /-- QDEPTH (R133). Reads the depth of the home queue at HomeOf(xs). -/
  | qdepth (f : FmtR)
  /-- QDEPTH_IN (R133). Reads the number of records waiting in the core's inbound queue. -/
  | qdepthIn (f : FmtR)
  /-- SEND (R130). Builds a message record for one core's inbound queue. -/
  | send (f : FmtR)
  /-- SENDG (R131). Builds a message record for the inbound queue of every member of a group. -/
  | sendg (f : FmtR)
  /-- GJOIN (R135). Joins a group, taking a slot and setting the core's bit. -/
  | gjoin (f : FmtG)
  /-- GLEAVE (R135). Leaves a group, waiting for the phase if the core has arrived. -/
  | gleave (f : FmtG)
  /-- GTAG (R56). Tags the context with a group for priority inheritance. -/
  | gtag (f : FmtG)
  /-- GBAR (R135). Arrives at a group barrier and waits for the phase to complete. -/
  | gbar (f : FmtG)
  /-- GARRIVE (R135). Releases and records the core's arrival in the current phase. -/
  | garrive (f : FmtG)
  /-- GWAIT (R135). Waits for the phase of the context's outstanding arrival and then acquires. -/
  | gwait (f : FmtG)
  /-- TREEL (R136). Releases and sends a start message down the spanning tree of a group. -/
  | treel (f : FmtTL)
  /-- LAUNCH_TREE_MESSAGE (R60). A launch-tree message reaches a member, which forwards it and starts a context at pc. -/
  | launchTreeMessage (n : Nat)
  /-- WFA (R137). Waits until the context's TREEL starts have happened and returns their count. -/
  | wfa (f : FmtR)
  /-- SEMP (R138). Waits for a positive semaphore count, decrements it and acquires. -/
  | semp (f : FmtQ)
  /-- SEMV (R138). Releases and increments a semaphore, serving waiting SEMPs. -/
  | semv (f : FmtQ)
  /-- SEMTRY (R138). Decrements a semaphore if positive and returns the old count, without waiting. -/
  | semtry (f : FmtQ)
  /-- PRIO (R140). Writes the context's base class. -/
  | prio (f : FmtU)
  /-- ROPE (R141). Ropes the masked far cores of the cluster to the issuing core as seconds. -/
  | rope (f : FmtU)
  /-- UNROPE (R142). Ends the rope, releasing and making every second dormant. -/
  | unrope (f : FmtR)
  /-- ROPECK (R143). On a second, compares a predicate with the lead's and traps ROPE_DIV on a difference. -/
  | ropeck (f : FmtU)
  /-- BELAY (R299). Waits for the array lease and power leave for the next n matrix commands. -/
  | belay (f : FmtU)
  /-- UNBELAY (R300). Ends the context's array lease. -/
  | unbelay (f : FmtR)
  /-- MWAIT (R227). Waits until every matrix command of the context has completed, then acquires at clus. -/
  | mwait (f : FmtR)
  /-- MSTAT (R309). Returns the array status word and clears the array flags. -/
  | mstat (f : FmtR)
  /-- MGATH (R301). Queues a gather of A rows by index vector into the latch. -/
  | mgath (f : FmtR)
  /-- MLDB (R302). Queues a load of the B tile from the scratchpad. -/
  | mldb (f : FmtR)
  /-- MMUL (R304). Queues a dense multiply into an accumulator tile. -/
  | mmul (f : FmtR)
  /-- MMULS (R304). Queues a 2:4 sparse multiply using metadata at xm. -/
  | mmuls (f : FmtR)
  /-- MSCALE (R303). Queues an append of block scales to the A or B scale FIFO. -/
  | mscale (f : FmtR)
  /-- MSTORE (R305). Queues a store of a tile in FMTO to the scratchpad. -/
  | mstore (f : FmtR)
  /-- MCLR (R306). Queues the clearing of a tile to +0. -/
  | mclr (f : FmtR)
  /-- ARRAY_COMMAND_START (R266). A queued matrix command reaches the head of the array queue, locks its operands and is performed. -/
  | arrayCommandStart (cluster : Nat)
  /-- NPCFG (R311). Loads the predictor table from the scratchpad. -/
  | npcfg (f : FmtR)
  /-- NPRED (R312). Predicts the active neurons, writes the index vector and fills the bound buffer. -/
  | npred (f : FmtR)
  /-- NCHECK (R313). Chooses skipped neurons to replay until the bound falls to EPS and writes the replay vector. -/
  | ncheck (f : FmtR)
  /-- TRAP (R358). Traps SWTRAP after issue with the constant in TVAL. -/
  | trap (f : FmtU)
  /-- TRET (R359). Returns from the trap handler to TPC. -/
  | tret (f : FmtR)
  /-- UPCRET (R341). Releases, sends the buffered records and ends the upcall context. -/
  | upcret (f : FmtR)
  /-- CTXSAVE (R343). Cancels a context's parked access and saves its whole state into a 64 KiB image. -/
  | ctxsave (f : FmtR)
  /-- CTXLOAD (R344). Starts a dormant context from a save image and re-presents its cancelled access. -/
  | ctxload (f : FmtR)
  /-- XINV (R333). Removes translations of a range or the whole partition at every slice, optionally writing back data. -/
  | xinv (f : FmtR)
  /-- REPLAYALL (R342). Empties the die's fault buffer and re-presents every access parked on a translation cause. -/
  | replayall (f : FmtR)
  /-- DBRK (R358). Stops the core for debug when armed, or traps DEBUG. -/
  | dbrk (f : FmtU)
  /-- VADD (R279). Adds two vectors lane by lane as FP32 or INT32. -/
  | vadd (gp : BitVec 2) (f : FmtR)
  /-- VSUB (R279). Subtracts two vectors lane by lane. -/
  | vsub (gp : BitVec 2) (f : FmtR)
  /-- VMUL (R279). Multiplies two vectors lane by lane. -/
  | vmul (gp : BitVec 2) (f : FmtR)
  /-- VFMA (R279). Fused multiply-adds into the old destination lanes. -/
  | vfma (gp : BitVec 2) (f : FmtR)
  /-- VMAC (R293). Accumulates lane products into an FP64 or INT64 accumulator. -/
  | vmac (gp : BitVec 2) (f : FmtR)
  /-- VMIN (R279). Writes the lane minimum of two vectors. -/
  | vmin (gp : BitVec 2) (f : FmtR)
  /-- VMAX (R279). Writes the lane maximum of two vectors. -/
  | vmax (gp : BitVec 2) (f : FmtR)
  /-- VABS (R279). Writes the lane absolute value. -/
  | vabs (gp : BitVec 2) (f : FmtR)
  /-- VNEG (R279). Writes the lane negation. -/
  | vneg (gp : BitVec 2) (f : FmtR)
  /-- VAND (R280). Bitwise AND of lanes. -/
  | vand (gp : BitVec 2) (f : FmtR)
  /-- VOR (R280). Bitwise OR of lanes. -/
  | vor (gp : BitVec 2) (f : FmtR)
  /-- VXOR (R280). Bitwise XOR of lanes. -/
  | vxor (gp : BitVec 2) (f : FmtR)
  /-- VSLL (R280). Shifts lanes left by a per-lane count. -/
  | vsll (gp : BitVec 2) (f : FmtR)
  /-- VSLL_IMM (R280). Shifts lanes left by a constant count. -/
  | vsllImm (gp : BitVec 2) (f : FmtR)
  /-- VSRL (R280). Shifts lanes logically right by a per-lane count. -/
  | vsrl (gp : BitVec 2) (f : FmtR)
  /-- VSRL_IMM (R280). Shifts lanes logically right by a constant count. -/
  | vsrlImm (gp : BitVec 2) (f : FmtR)
  /-- VSRA (R280). Shifts lanes arithmetically right by a per-lane count. -/
  | vsra (gp : BitVec 2) (f : FmtR)
  /-- VSRA_IMM (R280). Shifts lanes arithmetically right by a constant count. -/
  | vsraImm (gp : BitVec 2) (f : FmtR)
  /-- VCMP (R281). Compares lanes and writes a predicate. -/
  | vcmp (gp : BitVec 2) (f : FmtR)
  /-- VSEL (R282). Selects lanes of two vectors by a predicate. -/
  | vsel (gp : BitVec 2) (f : FmtR)
  /-- VBCAST (R283). Broadcasts the low word of an x register to every lane. -/
  | vbcast (gp : BitVec 2) (f : FmtR)
  /-- VEXT (R283). Extracts one lane into an x register. -/
  | vext (gp : BitVec 2) (f : FmtR)
  /-- VRED (R284). Reduces 256 lanes by sum, minimum or maximum over a fixed tree into an x register. -/
  | vred (gp : BitVec 2) (f : FmtR)
  /-- VPERM (R283). Permutes lanes by an index vector. -/
  | vperm (gp : BitVec 2) (f : FmtR)
  /-- VCVT (R286). Converts each lane to a destination kind under a rounding mode. -/
  | vcvt (gp : BitVec 2) (f : FmtR)
  /-- VEXP2 (R287). Writes 2 to the power of each lane. -/
  | vexp2 (gp : BitVec 2) (f : FmtR)
  /-- VRCP (R287). Writes the reciprocal of each lane. -/
  | vrcp (gp : BitVec 2) (f : FmtR)
  /-- VRSQ (R287). Writes the reciprocal square root of each lane. -/
  | vrsq (gp : BitVec 2) (f : FmtR)
  /-- VLOG2 (R287). Writes the base-2 logarithm of each lane. -/
  | vlog2 (gp : BitVec 2) (f : FmtR)
  /-- VNZC (R288). Counts the nonzero elements of a vector image of a given kind. -/
  | vnzc (gp : BitVec 2) (f : FmtR)
  /-- VBMAP (R288). Writes a predicate of the nonzero elements among the first 256. -/
  | vbmap (gp : BitVec 2) (f : FmtR)
  /-- VPACKB (R289). Packs lanes into bit-plane groups. -/
  | vpackb (gp : BitVec 2) (f : FmtR)
  /-- VUNPKB (R289). Unpacks bit-plane groups or CB4 blocks into lanes. -/
  | vunpkb (gp : BitVec 2) (f : FmtR)
  /-- VUNPKB_ZX8 (R289). Decodes eight ZX8 blocks with a code-table image into FP32 lanes. -/
  | vunpkbZx8 (gp : BitVec 2) (f : FmtR)
  /-- VIDX (R290). Writes an MGATH index vector image from the set bits of a predicate. -/
  | vidx (gp : BitVec 2) (f : FmtR)
  /-- VIDX_I32 (R290). Writes the set-bit indices of a predicate as INT32 lanes with inactive padding. -/
  | vidxI32 (gp : BitVec 2) (f : FmtR)
  /-- VNAR (R294). Narrows an accumulator into a vector register with one rounding. -/
  | vnar (gp : BitVec 2) (f : FmtR)
  /-- ACLR (R291). Sets an accumulator's KIND to ZERO. -/
  | aclr (gp : BitVec 2) (f : FmtR)
  /-- AMOV_TO_ACC (R292). Moves vector lanes into an accumulator, widening or pairing them. -/
  | amovToAcc (gp : BitVec 2) (f : FmtR)
  /-- AMOV_FROM_ACC (R292). Moves one half of each accumulator lane into a vector register. -/
  | amovFromAcc (gp : BitVec 2) (f : FmtR)
  /-- PAND (R295). ANDs two predicates. -/
  | pand (gp : BitVec 2) (f : FmtR)
  /-- POR (R295). ORs two predicates. -/
  | por (gp : BitVec 2) (f : FmtR)
  /-- PXOR (R295). XORs two predicates. -/
  | pxor (gp : BitVec 2) (f : FmtR)
  /-- PNOT (R295). Inverts a predicate. -/
  | pnot (gp : BitVec 2) (f : FmtR)
  /-- PCNT (R295). Counts the set bits of a predicate into an x register. -/
  | pcnt (gp : BitVec 2) (f : FmtR)
  /-- PFIRST (R295). Writes the index of the lowest set predicate bit. -/
  | pfirst (gp : BitVec 2) (f : FmtR)
  /-- PSET (R295). Sets the predicate bits below a count. -/
  | pset (gp : BitVec 2) (f : FmtR)
  /-- VALUE_ARRIVAL (R88). A pending value arrives at a register and marks it full. -/
  | valueArrival (core ctx n : Nat)
  /-- REFUSAL (R201). A refusal found at a home, engine or array reaches the core and is taken as a trap in place of the next bundle. -/
  | refusal (core ctx : Nat)
  /-- BUDGET (R65). A context's cycle count reaches TBUDGET.LIMIT and it traps BUDGET, cancelling or deferring its wait. -/
  | budget (core ctx : Nat)
  /-- ENQUEUE (R25). A task or message record reaches its home or inbound queue and is enqueued with its sequence number. -/
  | enqueue (n : Nat)
  /-- RETIREMENT (R34). A retirement message reaches the home queue controller and the task leaves the running set. -/
  | retirement (n : Nat)
  /-- INBOUND_DELIVERY (R46). The inbound queue delivers its first unheld record to a dormant unreserved context. -/
  | inboundDelivery (core : Nat)
  /-- UPCALL_START (R339). The core starts UCTX on the oldest queued upcall. -/
  | upcallStart (core : Nat)
  /-- PAGE_WALK (R328). A translation miss at the home slice walks the partition's tables and enters the leaf or faults. -/
  | pageWalk (slice n : Nat)
  /-- MONITOR_REWALK (R330). Without a free monitor, parked accesses are re-walked every 4,096 cycles. -/
  | monitorRewalk (slice : Nat)
  /-- TRANSIENT_TIMEOUT (R178). A token request that has not gathered its tokens within 2,048 cycles fails and is resent or becomes persistent. -/
  | transientTimeout (n : Nat)
  /-- PERSISTENT_ACTIVATE (R179). The arbiter activates the next persistent request for a line after the previous one deactivates. -/
  | persistentActivate (part line : Nat)
  /-- COPY_COMPLETE (R222). A copy's last destination byte is written, or it faults, and its completion or handler start is reported. -/
  | copyComplete (cluster n : Nat)
  /-- BELAY_GRANT (R257). The array arbiter grants the lease to a waiting BELAY, zeroing the array for a new core. -/
  | belayGrant (cluster : Nat)
  /-- POWER_LEAVE_GRANT (R399). The die governor grants power leave to the oldest waiting belay or large copy. -/
  | powerLeaveGrant (die kind : Nat)
  /-- LIMIT_CHANGE (R399). The management controller sets a governor's BLIM or CLIM. -/
  | limitChange (die kind value : Nat)
  /-- PREEMPTION_REQUEST (R64). A pre-emption request reaches a core, which stops starting contexts until lifted. -/
  | preemptionRequest (core : Nat)
  /-- PREEMPTION_LIFT (R366). The pre-emption request is lifted and cores start contexts again. -/
  | preemptionLift (core : Nat)
  /-- CONSISTENT_CUT (R363). Firmware pre-empts the partition and starts a cut for a stop or checkpoint. -/
  | consistentCut (part : Nat) (stop : Bool)
  /-- MARKER (R363). A cut marker arrives on a channel, and a unit records its state once markers arrived on all its inputs. -/
  | marker (part src dst : Nat)
  /-- CUT_RESUME (R366). Firmware restores a cut on a matching partition and replays the channel logs. -/
  | cutResume (part : Nat)
  /-- LAUNCH_RECORD (R58). The host writes GO of a launch record, and the service core accepts or refuses it and starts the stub. -/
  | launchRecord (part : Nat) (record : LaunchRecord)
  /-- LOAD_RECORD (R380). The host writes GO of a load record, and the service core loads a candidate image or refuses the record. -/
  | loadRecord (part : Nat) (record : LoadRecord)
  /-- RELEASE_RECORD (R354). The host writes a release record that makes a stopped context dormant. -/
  | releaseRecord (part : Nat) (dword : BitVec 64)
  /-- HOST_READ (R196). A host read of partition memory is performed at the home by its service core; one of the service
  window (R391) names it from 2^57 on. -/
  | hostRead (part va size : Nat)
  /-- HOST_WRITE (R196). A host write to partition memory is performed at the home by its service core, or discarded. -/
  | hostWrite (part va : Nat) (bytes : List (BitVec 8))
  /-- PARTITION_CREATE (R390). A create command over MCTP makes firmware build a partition and bring up its virtual function. -/
  | partitionCreate (spec : PartitionSpec)
  /-- PARTITION_TEARDOWN (R392). A VF function-level reset or destroy command tears the partition down and clears its state. -/
  | partitionTeardown (part : Nat)
  /-- COLD_START (R398). Power-on or a management command performs a cold start. -/
  | coldStart
  /-- WARM_START (R398). A PCIe hot reset or PF function-level reset performs a warm start, destroying every partition. -/
  | warmStart (measured : Bool)
  /-- GET_VERSION (R394). SPDM request answered by the device. -/
  | getVersion (mailbox : Nat)
  /-- GET_CAPABILITIES (R394). SPDM request answered by the device. -/
  | getCapabilities (mailbox : Nat)
  /-- NEGOTIATE_ALGORITHMS (R394). SPDM request answered by the device. -/
  | negotiateAlgorithms (mailbox : Nat)
  /-- GET_DIGESTS (R394). SPDM request answered by the device. -/
  | getDigests (mailbox : Nat)
  /-- GET_CERTIFICATE (R394). SPDM request answered by the device. -/
  | getCertificate (mailbox : Nat)
  /-- CHALLENGE (R395). SPDM challenge answered with an XMSS signature consuming the next counter index. -/
  | challenge (mailbox : Nat) (nonce : BitVec 256)
  /-- GET_MEASUREMENTS (R394). SPDM request returning measurement blocks, signed or not. -/
  | getMeasurements (mailbox index : Nat) (signed : Bool)
  /-- KEY_EXCHANGE (R394). SPDM request opening a secured session. -/
  | keyExchange (mailbox : Nat) (nonce : BitVec 256)
  /-- FINISH (R394). SPDM request completing session establishment. -/
  | finish (mailbox : Nat) (verified : Bool)
  /-- END_SESSION (R394). SPDM request ending a secured session. -/
  | endSession (mailbox : Nat)
  /-- VENDOR_DEFINED_REQUEST (R396). A debug policy in the tenant's session is checked and, if accepted, replaces the previous policy. -/
  | vendorDefinedRequest (mailbox : Nat) (request : VendorRequest)
  /-- HALT (R372). A write of DCTL.HALT stops the core for debug. -/
  | halt (core : Nat)
  /-- RESUME (R372). A write of DCTL.RESUME ends a debug stop. -/
  | resume (core : Nat)
  /-- DEBUG_REGISTER_WRITE (R368). A write to a debug-module register with no behaviour of its own. -/
  | debugRegisterWrite (core offset : Nat) (value : BitVec 64)
  /-- SAMPLE_TICK (R375). At a tick every core latches its contexts' states and the device writes a sample record. -/
  | sampleTick (part : Nat)
  /-- HBM_READ_ERROR (R400). An HBM read returns an uncorrectable error and the slice schedules one retry. -/
  | hbmReadError (line : Nat)
  /-- HBM_RETRY (R400). The retry 1,900 cycles later succeeds, or refuses the waiting accesses with UNCORR and poisons the frame. -/
  | hbmRetry (line : Nat) (succeeds : Bool)
  /-- LIFETIME_FLUSH (R401). Once an hour the management controller writes the lifetime counters to flash. -/
  | lifetimeFlush (verifies : Bool)
  /-- COUNTER_READ (R401). The physical function reads the lifetime counters over MCTP. -/
  | counterRead
  /-- OVERLAY_FETCH (R97). A context fetches at a pc at or above the XB boundary and traps OVERLAY before any instruction issues. -/
  | overlayFetch (core ctx : Nat)
  /-- UNASSIGNED_BUNDLE (R94). A context attempts to issue a 64-bit pattern that is not an instruction bundle and traps ILL with the first subcode that R90 reaches. -/
  | unassignedBundle (core ctx : Nat)
  /-- TDISP_REQUEST (R390). A TDISP request from the tenant moves a virtual function's TDI between CONFIG_UNLOCKED, CONFIG_LOCKED and RUN, which gates its MMIO and DMA. -/
  | tdispRequest (part : Nat) (request : TdispRequest)
  /-- PEER_REQUEST (R198). A miss, writeback, atomic or full-bit operation arrives over a Fyalmya Link from a peer package, and the owning home performs it on its line. -/
  | peerRequest (request : PeerRequest)
  /-- PCIE_LINK_DOWN (R379). The PCIe host link goes down or comes back up, which switches dump delivery between the service window and the I3C side-band port. -/
  | pcieLinkDown (down : Bool)
  /-- DUMP_REQUEST (R379). The tenant's debugger requests a core dump, and while DUMP is open firmware writes the core's contexts as save images, followed by its trace ring, encrypted. -/
  | dumpRequest (core : Nat)
  deriving DecidableEq, Repr

end Sys2Proof
end

