-- ==== Sys2Proof/Machine/State.lean ====
section
/-! DEFINITION. The state of the machine as plain data: everything the spec gives the package (listed with
its rules in INVENTORY.md), the state after reset, and the reasons a step can stop. Units are held in maps
keyed by the numbers of spec/00 R4 and spec/02 R19; a unit the map does not list is in its reset state. -/

namespace Sys2Proof.Machine

/-- Why the machine stops with a fault. -/
inductive Fault where
  /-- An event names a core, context, slice, cluster, die, partition or mailbox that the package does not
  have (R1-R4). Raised by the event meanings; safe: no step of the hardware is lost, since there is no such
  unit. -/
  | noSuchUnit
  deriving DecidableEq, Repr

/-- Why the machine refuses. -/
inductive Refusal where
  /-- No meaning yet for the instruction. Raised by the dispatch arms only; safe. -/
  | notModelled (mnemonic : String)
  deriving DecidableEq, Repr

/-- A task record (R17); reserved fields are zero and not held. -/
structure TaskRecord where
  body    : BitVec 10 := 0
  cls     : BitVec 2 := 0
  trapped : Bool := false
  near    : Bool := false
  far     : Bool := false
  alenm1  : BitVec 21 := 0
  thresh  : BitVec 10 := 0
  abase   : BitVec 57 := 0
  mid     : Dword := 0
  tcause  : Byte := 0
  nsend   : Byte := 0
  arg0    : Dword := 0
  arg1    : Dword := 0
  arg2    : Dword := 0
  arg3    : Dword := 0
  deriving DecidableEq, Repr

/-- The kind of an accumulator (R255). -/
inductive AccKind where
  | zero | f | i
  deriving DecidableEq, Repr

/-- An accumulator: 256 lanes of 64 bits, lane i at bits [64i+63 : 64i] (R255). -/
structure Acc where
  kind  : AccKind := .zero
  lanes : BitVec 16384 := 0
  deriving DecidableEq, Repr

/-- The registers of a context that a bundle reads as operands: x, v, p and acc files with the empty
bits of x and v (R88), and the per-context control registers that instructions sample (R107, R231, R260-R263). -/
structure Regs where
  x      : FMap Dword := []
  xe     : Dword := 0
  v      : FMap Vec := []
  ve     : Word := 0
  p      : FMap Pred := []
  acc    : FMap Acc := []
  frm    : Dword := 0
  fmta   : Dword := 0
  fmtb   : Dword := 0
  fmto   : Dword := 0
  scla   : Dword := 0
  sclb   : Dword := 0
  mround : Dword := 0
  npeps  : Dword := 0
  deriving DecidableEq, Repr

/-- Where a record goes (R25, R361). -/
inductive Dest where
  | home (slice : Nat)
  | core (core : Nat)
  | set (cores : List Nat)
  deriving DecidableEq, Repr

/-- One entry of a send buffer (R42). -/
structure SendEntry where
  record : TaskRecord
  dest   : Dest
  deriving DecidableEq, Repr

/-- The sub-states of R49. -/
inductive SubState where
  | running | full | barrier | copy | parked | stopped
  deriving DecidableEq, Repr

/-- What BUDGET does with a wait (R405): withdraws it with TPC its pc, withdraws it with TPC pc + 8, or
is deferred until it completes. -/
inductive BudgetFate where
  | withdraw | withdrawAfter | defer
  deriving DecidableEq, Repr

/-- How a wait after issue ends: the effect is performed again on the operands already read, the context is
only released, it becomes dormant (TEND and TABORT whose sends wait at a full queue, R134), or the A-class half of its
bundle is performed (a SEMV that has been served, R83, R138). -/
inductive WaitEnd where
  | again | release | dormant | half
  deriving DecidableEq, Repr

/-- A wait after issue (R128, R405): the instruction, the operands it read, its pc, how it ends, and the member set
that a SENDG fixed when it issued (R131), or the cores on which a ROPE has started its seconds (R141); `half`: the
A-class half that a SEMV's bundle performs once the SEMV is served, since the SEMV may still trap (R138). -/
structure Wait where
  instr : Instr
  ops   : Regs
  pc    : Nat
  sub   : SubState
  fate  : BudgetFate
  fin   : WaitEnd
  mem   : List Nat := []
  half  : Option Instr := none
  deriving DecidableEq, Repr

/-- A value on its way to a register (R88, VALUE_ARRIVAL); `late` arrives by the end of a cycle (R119, R309). -/
inductive Pend where
  | x (r : Nat) (v : Dword)
  | v (r : Nat) (v : Vec)
  | late (r : Nat) (v : Dword) (due : Nat)
  deriving DecidableEq, Repr

/-- A refusal on its way to the core (R201): `rpc` is the refused instruction's pc; `defers`: the instruction that met
it keeps BUDGET waiting (R405). -/
structure Refused where
  cause  : Nat
  sub    : Nat
  tval   : Dword
  rpc    : Nat
  defers : Bool := false
  deriving DecidableEq, Repr

/-- A fault that a copy or a beat holds: cause, subcode and address (R218, R223, R318). -/
structure VaFault where
  cause : Nat
  sub   : Nat
  va    : Nat
  deriving DecidableEq, Repr

/-- A bound stream engine (R218, R252-R254). `count` counts the beats popped or pushed. -/
structure Stream where
  vd     : Nat
  write  : Bool
  space  : Nat
  elem   : Nat
  base   : Dword
  stride : List Dword
  bound  : List Nat
  count  : Nat := 0
  /-- beats that the engine has read ahead, by number: lanes, lane mask, and the fault held: cause, subcode and element
  address (R218, R318) -/
  ready  : FMap (Vec × Pred × Option VaFault) := []
  /-- lanes of the beat that the latest reading bundle popped; none from a done stream (R254, R284) -/
  mask   : Pred := 0
  deriving DecidableEq, Repr

/-- A copy that CPYQ may count (R224): its identifier, the virtual bytes it writes, from the first to the end
of the last (none when they are equal), and whether it has completed. -/
structure CopyNote where
  id   : Nat
  lo   : Nat
  hi   : Nat
  done : Bool := false
  deriving DecidableEq, Repr

/-- A CPYQ that waits: its destination and the copies it counts (R224). -/
structure CpyWait where
  rd    : Nat
  notes : List CopyNote
  deriving DecidableEq, Repr

/-- How a context was started (R134, R355). -/
inductive StartKind where
  | task (homeSlice : Option Nat)
  | other
  deriving DecidableEq, Repr

/-- Membership of a rope (R61). -/
inductive Rope where
  | none
  /-- the lead, with its seconds (core, context, hop) -/
  | lead (seconds : List (Nat × Nat × Nat))
  | second (leadCore leadCtx : Nat)
  deriving DecidableEq, Repr

/-- A bundle that a lead has forwarded to a second (R62): its pc, its instructions, the lead's predicates as the
lead read them (R143), and the cycle in which it is to issue, which moves on by as long as the rope is frozen. -/
structure Fwd where
  pc     : Nat
  instrs : List Instr
  p      : FMap Pred
  due    : Nat
  deriving DecidableEq, Repr

/-- A trap to be taken (R353). `rpc` is the refused instruction's pc when the trap is a refusal; `bpc` the pc of its
bundle where `tpc` is another (R354). -/
structure TrapReq where
  cause : Nat
  sub   : Nat := 0
  val   : Dword
  tpc   : Nat
  rpc   : Option Nat := none
  bpc   : Option Nat := none
  deriving DecidableEq, Repr

/-- A context (R45). -/
structure Ctx where
  running  : Bool := false
  /-- stopped under R354 -/
  stopped  : Bool := false
  pc       : Nat := 0
  npc      : Nat := 0
  regs     : Regs := {}
  /-- registers whose empty bit waits for a value on its way (R88, R89); an empty register outside these was
  left empty by a cancelled access -/
  xp       : Dword := 0
  vp       : Word := 0
  base     : BitVec 2 := 0
  inh      : BitVec 2 := 0
  tag      : Option Nat := none
  tstat    : Dword := 0
  tpc      : Dword := 0
  tcause   : Dword := 0
  tval     : Dword := 0
  msgid    : Dword := 0
  ancb     : Dword := 0
  ancl     : Dword := 0
  sends    : List SendEntry := []
  record   : Option TaskRecord := none
  start    : StartKind := .other
  /-- the cycle from which TBUDGET counts (R65) -/
  budget0  : Nat := 0
  icount   : Nat := 0
  wfa      : Nat := 0
  /-- members that its TREELs named and that have not started (R137) -/
  treel    : Nat := 0
  streams  : FMap Stream := []
  pend     : List Pend := []
  refusals : List Refused := []
  /-- copies issued since the latest start and not yet counted by CPYQ (R224) -/
  copies   : List CopyNote := []
  /-- CPYQs that wait -/
  cpyq     : List CpyWait := []
  aflags   : BitVec 4 := 0
  wait     : Option Wait := none
  reserved : Bool := false
  rope     : Rope := .none
  upcall   : Bool := false
  bpSkip   : Bool := false
  /-- the context's outstanding arrivals, by group: the phase, and whether a GBAR that waits made it (R54) -/
  arrivals : FMap (Nat × Bool) := []
  /-- a trap that waits for the context's copies, commands and seconds (R353) -/
  trapWait : Option TrapReq := none
  /-- the body whose entry a delivery still waits for, before the first fetch (R24) -/
  starting : Option Nat := none
  /-- bundles forwarded to this second and not yet issued here (R62) -/
  fwd      : List Fwd := []
  /-- BUDGET, behind which a deferring instruction's refusal was taken, is taken in place of the next bundle (R405) -/
  owed     : Bool := false
  deriving DecidableEq, Repr

/-- A line in a far core's L1 (R153, R159, R177). -/
structure L1Line where
  ct    : BitVec 2
  data  : LineData
  pa    : Nat
  dirty : BitVec 64 := 0
  wr    : Bool := false
  tok   : Nat := 0
  owner : Bool := false
  /-- the first counter of the prefetcher that requested it: 0 stride, 4 PREF; none once an access has used it (R378) -/
  pref  : Option Nat := none
  deriving DecidableEq, Repr

/-- What a core's inbound queue holds (R25). -/
inductive InBody where
  | task (rec : TaskRecord) (requeued : Bool)
  | handler (h : Nat) (base : Dword) (bytes : Dword) (cause : Dword) (addr : Dword) (total : Dword)
  | launch (pc : Nat) (ap : Dword) (cls : BitVec 2) (issuer : Nat × Nat)
  deriving DecidableEq, Repr

/-- A record in an inbound queue with the identifier it took; `held` is the context that must become
dormant before it is delivered (R356). -/
structure InRec where
  body : InBody
  mid  : Dword
  held : Option Nat := none
  deriving DecidableEq, Repr

/-- A queued upcall (R339). -/
structure Upcall where
  va   : Dword
  info : Dword
  pc   : Nat
  cls  : BitVec 2
  deriving DecidableEq, Repr

/-- A far or home core. -/
structure Core where
  part     : Option Nat := none
  ctxs     : FMap Ctx := []
  tcm      : FMap Byte := []
  xb       : Nat := 0
  bodytab  : Dword := 0
  tbudget  : Dword := 0x1000000
  gslots   : List (Option Nat) := [none, none, none, none]
  trapvec  : Dword := 0
  upcvec   : Dword := 0
  htable   : Dword := 0
  inbound  : List InRec := []
  seq      : BitVec 22 := 0
  upcalls  : List Upcall := []
  preempt  : Bool := false
  sched    : Nat := 0
  /-- the rotation pointer of each class (R48) -/
  rotors   : List Nat := [0, 0, 0, 0]
  l1       : FMap L1Line := []
  sig      : BitVec 2048 := 0
  /-- what the core last fetched at each place since SYNCI (R98) -/
  fetched  : FMap Dword := []
  /-- body-table dwords that its body cache holds, by their virtual addresses (R21, R24) -/
  bodies   : FMap Dword := []
  takePtr  : Nat := 0
  /-- lines that a prefetch has asked for and that have not come, with its first counter; and the lines of the core's
  latest demands, at most three, the latest first (R378) -/
  inflight : FMap Nat := []
  seen     : List Nat := []
  /-- debug module (R368-R373, R378) -/
  dctl     : Dword := 0
  dstat    : Dword := 0
  bp       : List Dword := [0, 0, 0, 0]
  wpa      : List Dword := [0, 0]
  wpc      : List Dword := [3, 3]
  trctl    : Dword := 0
  halted   : Bool := false
  haltAt   : Nat := 0
  counters : List (BitVec 48) := [0, 0, 0, 0, 0, 0, 0, 0, 0, 0, 0, 0]
  deriving DecidableEq, Repr

/-- Row data and the format under which a buffer was filled; none after zeroing (R257, R304). -/
structure ArrayBuf where
  rows  : FMap Vec := []
  k     : Nat := 0
  fmt   : Option (Nat × Nat) := none
  deriving DecidableEq, Repr

/-- A queued matrix command with the operands and registers it sampled (R259, R296). -/
structure MCmd where
  core   : Nat
  ctx    : Nat
  instr  : Instr
  pc     : Nat
  a      : Nat
  b      : Nat
  regs   : Regs
  icount : Nat
  /-- the zeroing of a grant stands in the queue in lease order (R299) -/
  zeroing : Bool := false
  /-- access number at its issue: it reads after the scratchpad stores below it, and before those from it on (R267) -/
  before  : Nat := 0
  /-- rows that a begun MSTORE has still to write: offset, bytes, value (R305); none before it begins -/
  out     : Option (List (Nat × Nat × Nat)) := none
  /-- a begun fill (R266): whether it has locked its rows and scales, or as yet its index vector alone, and how many of
  the locked words the gather unit has still to read at each bank (R152) -/
  gather  : Option (Bool × List Nat) := none
  flags   : BitVec 4 := 0
  deriving DecidableEq, Repr

/-- A BELAY waiting for its grant or for power leave (R257, R399); BUDGET has withdrawn a `dead` one, whose grant
is returned at once (R405). -/
structure Belay where
  core : Nat
  ctx  : Nat
  n    : Nat
  dead : Bool := false
  deriving DecidableEq, Repr

/-- A copy in a cluster's engine (R220-R223). -/
structure Copy where
  id      : Nat
  core    : Nat
  ctx     : Nat
  part    : Nat
  pc      : Nat
  /-- 0 CPY, 1 CPY2, 2 CPYM, 3 CPYW -/
  kind    : Nat
  sp      : Nat
  h       : Nat
  dst     : Nat
  src     : Nat
  len     : Nat
  rows    : Nat := 1
  dstride : Dword := 0
  sstride : Dword := 0
  mask    : Nat := 0
  /-- pieces of destination lines written so far; the first unwritten byte follows from it (R364) -/
  done    : Nat := 0
  /-- power leave has been granted, or is not needed (R220) -/
  leave   : Bool := true
  /-- the fault that ended it: cause, subcode and address (R223, R318) -/
  fault   : Option VaFault := none
  /-- writes to TCMs or scratchpads that its latest read has still to make: core or cluster, offset, bytes, value, and
  the cycle of that read (R152, R194) -/
  words   : List (Nat × Nat × Nat × Nat) := []
  readAt  : Nat := 0
  /-- those of them that wait at their banks, with the cycles in which they reached them (R152) -/
  waits   : List ((Nat × Nat × Nat × Nat) × Nat) := []
  /-- parts of its next piece that it has read already: address, bytes, value (R192) -/
  got     : List (Nat × Nat × Nat) := []
  deriving DecidableEq, Repr

/-- The predictor's configuration: the table's header fields and its image, byte k at bits [8k+7 : 8k]
(R229, R271). -/
structure PredCfg where
  d     : Nat
  dff   : Nat
  r     : Nat
  gated : Bool
  kind  : Nat
  sp    : Nat
  sq    : Nat
  squ   : Nat
  tfmt  : Nat
  tau   : Word
  image : Nat
  deriving DecidableEq, Repr

/-- A predictor instruction that its cluster's predictor has not yet served, with the operands and NPEPS that it
sampled (R259, R271), and the access number at its issue (R164). -/
structure NReq where
  core   : Nat
  ctx    : Nat
  instr  : Instr
  pc     : Nat
  a      : Nat
  b      : Nat
  eps    : Dword
  before : Nat
  deriving DecidableEq, Repr

/-- The bound buffer: owner and skipped neurons with their bounds (R271). -/
structure PredBuf where
  core    : Nat
  ctx     : Nat
  skipped : List (Nat × Word)
  deriving DecidableEq, Repr

/-- A semaphore: count, waiting SEMPs, first in first, and the cycle in which it last served an operation (R138,
R139). -/
structure Sem where
  count : BitVec 16 := 0
  queue : List (Nat × Nat) := []
  last  : Option Nat := none
  deriving DecidableEq, Repr

/-- A region-table entry (R187). -/
structure Region where
  v     : Bool := false
  state : BitVec 2 := 0
  core  : BitVec 3 := 0
  lenm1 : BitVec 45 := 0
  base  : BitVec 45 := 0
  deriving DecidableEq, Repr

/-- A bank of a scratchpad (R152): its round-robin pointer over cores, whether the engine side won its latest grant, and
the cycle of that grant. -/
structure Bank where
  ptr  : Nat := 0
  eng  : Bool := false
  last : Option Nat := none
  deriving DecidableEq, Repr

/-- A cluster. -/
structure Cluster where
  spm      : FMap Byte := []
  banks    : FMap Bank := []
  sems     : FMap Sem := []
  regions  : FMap Region := []
  copies   : List Copy := []
  /-- handler starts that copies still under way have enqueued: copy and core (R223) -/
  starts   : List (Nat × Nat) := []
  latch    : ArrayBuf := {}
  btile    : ArrayBuf := {}
  tiles    : FMap (FMap Vec) := []
  fifoA    : List Byte := []
  fifoB    : List Byte := []
  cmds     : List MCmd := []
  holder   : Option (Nat × Nat) := none
  remain   : Nat := 0
  last     : Option Nat := none
  arb      : Nat := 0
  belays   : List Belay := []
  chosen   : Option Belay := none
  pcfg     : Option PredCfg := none
  /-- contexts with an NPRED since the last NPCFG, and those whose last NPRED an NPCFG has overtaken (R231, R271) -/
  npreds   : List (Nat × Nat) := []
  recfg    : List (Nat × Nat) := []
  pbuf     : Option PredBuf := none
  /-- predictor instructions not yet served -/
  npq      : List NReq := []
  deriving DecidableEq, Repr

/-- A translation (R322, R323): a whole page's leaf with the window address of its entry and the value the entry had,
or a fault entry, which records NOT_PRESENT: the window line it watches and its level. -/
structure Tlb where
  part  : Nat
  base  : Nat
  size  : Nat
  frame : Nat
  w     : Bool
  d     : Bool
  ct    : BitVec 2
  hw    : Bool
  dup   : Bool
  pte   : Nat
  leaf  : Nat := 0
  fault : Option (Nat × Nat) := none
  deriving DecidableEq, Repr

/-- A walk-cache entry (R316). -/
structure WalkEntry where
  part  : Nat
  level : Nat
  tag   : Nat
  table : Nat
  deriving DecidableEq, Repr

/-- The home copy of a line with its coherence state (R153, R177, R186). -/
structure HomeLine where
  ct    : BitVec 2
  data  : LineData
  dirty : Bool := false
  full  : BitVec 8 := 0
  tok   : Nat := 1024
  owner : Bool := true
  pa    : Nat := 0
  /-- the cluster whose copy engine filled it from HBM, until a core uses it (R378) -/
  eng   : Option Nat := none
  /-- the copy whose engine has claimed it (R190, R191): of an SC line it then holds every token -/
  claim : Option Nat := none
  /-- the home core whose PREF filled it, until an access of that core uses it (R378) -/
  pref  : Option Nat := none
  deriving DecidableEq, Repr

/-- A task in a home queue; `blk` is the spill block whose summary covers it (R26, R32). -/
structure QTask where
  record : TaskRecord
  order  : Nat
  blk    : Option Nat := none
  deriving DecidableEq, Repr

/-- A spill block's summary range, the tasks placed in it, and those of them still in the spill area (R32). -/
structure SpillBlock where
  id     : Nat
  lo     : Nat
  hi     : Nat
  placed : Nat
  count  : Nat
  deriving DecidableEq, Repr

/-- A task that was delivered and whose retirement the home has not recorded (R31). -/
structure Running where
  mid   : Dword
  order : Nat
  lo    : Nat
  hi    : Nat
  deriving DecidableEq, Repr

/-- An accumulated release signature of a line (R184); the line's key holds its partition. `src` keeps what each release
added, by its core and scope: 8 × core + scope (R162, R165). -/
structure SigEntry where
  line : Nat
  sig  : BitVec 2048
  src  : FMap (BitVec 2048) := []
  deriving DecidableEq, Repr

/-- Barrier state of a group (R54, R135): phase number, and the cores that have arrived in it. -/
structure Barrier where
  phase   : Nat := 0
  arrived : List Nat := []
  deriving DecidableEq, Repr

/-- What a slice keeps for one partition. -/
structure SlicePart where
  front    : List QTask := []
  spill    : List QTask := []
  back     : List QTask := []
  blocks   : List SpillBlock := []
  nextBlk  : Nat := 0
  order    : Nat := 0
  running  : List Running := []
  seq      : BitVec 22 := 0
  /-- the pointer over requesting cores of the queue's controller (R34) -/
  stealPtr : Nat := 0
  /-- the cycles in which the controller last applied a retirement and last served another operation (R34) -/
  lastRet  : Option Nat := none
  lastOp   : Option Nat := none
  /-- the bit and the depth class that the die's steal bitmap holds for the queue, and the cycle by which a change of
  them reaches it (R36) -/
  adv      : Bool × Nat := (false, 0)
  advDue   : Option Nat := none
  overflow : BitVec 2048 := 0
  barriers : FMap Barrier := []
  deriving DecidableEq, Repr

/-- A byte of a buffered host write: its address in host memory, and the partition that wrote it (R197). -/
structure HostByte where
  addr : Nat
  byte : Byte
  part : Nat
  deriving DecidableEq, Repr

/-- A home slice. Lines are keyed by partition and line number. -/
structure Slice where
  parts     : FMap SlicePart := []
  lines     : FMap HomeLine := []
  /-- accumulated signatures, the most recently released first, at most 128 (R184) -/
  sigs      : List SigEntry := []
  /-- translations and fault entries, the latest used first: 64, and 256 sets of 8 (R315, R322) -/
  tlb1      : List Tlb := []
  tlb2      : List Tlb := []
  walks     : List WalkEntry := []
  /-- watched window lines (partition, line) of the monitors at this slice (R330) -/
  monitors  : List (Nat × Nat) := []
  /-- registered ranges of copies: identifier, partition, first address, end (R190) -/
  ranges    : List (Nat × Nat × Nat × Nat) := []
  /-- host writes gathered and not sent, oldest first (R197) -/
  hostbuf   : List HostByte := []
  /-- full bits of WS lines on HW = 1 pages: key as for `lines` (R203) -/
  hwfull    : FMap (BitVec 8) := []
  deriving DecidableEq, Repr

/-- What a piece of an access does: `at` is a byte position in the access's data. -/
structure Piece where
  va    : Nat
  size  : Nat
  pos   : Nat
  write : Bool
  deriving DecidableEq, Repr

/-- The kinds of virtual access. -/
inductive AccessKind where
  | load (size : Nat) (signed : Bool) (nw : Bool) (rd : Nat)
  | ldaq (scope : Nat) (rd : Nat)
  | store
  | strl (scope : Nat)
  | ldv (nw : Bool) (rd : Nat)
  | stv
  | ldvx (rd : Nat)
  | stvx
  | amo (op scope rd : Nat) (b c : Dword)
  /-- of a body-table dword, at a virtual address -/
  | body (va : Nat)
  | wsclr
  | publ
  | streamRead (eng beat : Nat)
  | streamWrite (eng : Nat)
  | copy (id : Nat)
  | save (ctx : Nat)
  | loadCtx (rd slot : Nat) (addr : Dword)
  | hostRead
  | hostWrite
  deriving DecidableEq, Repr

/-- Where an access stands (R201, R328, R330, R178). -/
inductive Stage where
  | ready
  /-- an SC access that waits for an earlier access of its context (R167) -/
  | held
  /-- of the host: not yet taken by its service core, which takes none during a cut (R363) -/
  | untaken
  /-- translated and checked, waits for a way of its home's set or for the end of a claim on its line (R190, R191) -/
  | way
  /-- its walk waits for a way of a set at a table's home, and goes on at a level and table (R191, R316); the first write
  through an entry, which is no walk, begins anew -/
  | walkWay (slice : Nat) (goOn : Option (Nat × Nat))
  /-- waits for a walk at the slice -/
  | walk (slice : Nat)
  /-- its walk waits for an HBM retry of a table line, and goes on at a level and table, or begins anew (R316, R400) -/
  | table (line : Nat) (goOn : Option (Nat × Nat))
  /-- parked on the window line watched, with the cause of R339 (0 for a transition) and the level -/
  | parked (slice : Nat) (watch : Nat) (cause level : Nat)
  /-- waits on an empty WS word -/
  | word (slice : Nat)
  /-- held until a copy has written the line (R190) -/
  | claimed (slice : Nat)
  /-- gathers tokens: attempts failed so far, and the cycle at which it became persistent -/
  | token (attempts : Nat) (persistent : Option Nat)
  /-- translated, waits for an HBM retry of its line -/
  | hbm (line : Nat)
  /-- cancelled by a CTXSAVE under way, which a refused store of its image would undo (R343) -/
  | saving
  /-- all parts performed; what follows waits for the core (CTXSAVE, CTXLOAD) -/
  | performed
  /-- a part was refused; what follows waits for the core (CTXSAVE, CTXLOAD) -/
  | failed (cause sub va : Nat)
  deriving DecidableEq, Repr

/-- A virtual access on its way: the pieces not yet performed, the data read or to be written, which
parts were performed, and the bundle it came from. -/
structure Access where
  /-- place in the order of issue -/
  id       : Nat := 0
  kind     : AccessKind
  core     : Nat
  ctx      : Nat
  part     : Nat
  host     : Bool := false
  pc       : Nat
  word     : Nat
  pieces   : List Piece
  data     : Nat := 0
  done     : Pred := 0
  stage    : Stage := .ready
  /-- the context's next bundle waits for it -/
  blocking : Bool := false
  /-- for each part that parked, by its place in the data, the upcall cause that it parked on (R339) -/
  reported : FMap Nat := []
  /-- the place of the part that a REPLAYALL has presented again, while it is not yet translated (R342) -/
  again    : Option Nat := none
  /-- the cycle at which it was issued -/
  cycle    : Nat := 0
  /-- its present part has passed its home's region check, under the entry that stood then (R189) -/
  checked  : Bool := false
  /-- the cycles at which it sent its present attempt, or from which it waits as a persistent request (R178, R179), and
  at which it came to wait for a walk (R322) -/
  sent     : Nat := 0
  came     : Nat := 0
  /-- the signature that a release's store or atomic carries (R166, R183) -/
  sig      : BitVec 2048 := 0
  /-- a scratchpad access of its core's cluster: pieces hold offsets (R151, R164) -/
  spm      : Bool := false
  /-- by their places, its parts that have reached their banks, with the cycles in which they did (R152) -/
  there    : FMap Nat := []
  /-- the slice and leaf of a store that its home has translated and checked, and not yet performed (R202) -/
  loc      : Option (Nat × Tlb) := none
  deriving DecidableEq, Repr

/-- What a request asks of a queue's controller or of a semaphore (R34, R132, R133, R138). -/
inductive Ask where
  /-- TAKE: the reason its own queue gave, and the queues left to consult -/
  | take (own : Option Nat) (left : List Nat)
  | steal (slice : Nat)
  /-- STEAL.any: the slice chosen on the first die left, the dies left, the latest reason -/
  | stealAny (chosen : Option Nat) (dies : List Nat) (reason : Nat)
  | depth (slice : Nat)
  | semp (sem : Nat)
  | semv (sem : Nat)
  | semtry (sem : Nat)
  /-- the withdrawal of a SEMP (R405) -/
  | unsemp (sem : Nat)
  /-- a core's arrival at a group's barrier; `note`: the context keeps it as its outstanding arrival, made by a GBAR
  when `bar` (R54, R135) -/
  | arrive (group : Nat) (bar note : Bool)
  deriving DecidableEq, Repr

/-- A request in flight: its context and destination, the context it has reserved (R46), and the cycle in which it
reached the unit that it asks next, none while it is on its way (R34, R139). -/
structure QReq where
  core : Nat
  ctx  : Nat
  rd   : Nat
  res  : Option Nat := none
  ask  : Ask
  arr  : Option Nat := none
  deriving DecidableEq, Repr

/-- What a message carries (R362). -/
inductive MsgBody where
  | enqueue (slice part : Nat) (record : TaskRecord)
  | inbound (core part : Nat) (body : InBody)
  | retire (slice part : Nat) (mid : Dword)
  | launch (core part : Nat) (pc : Nat) (ap : Dword) (cls : BitVec 2) (issuer : Nat × Nat)
      (root : Nat) (members : List Nat)
  deriving DecidableEq, Repr

/-- A message in flight (R362): the unit that sent it, what it carries, the context whose end waits until it has been
enqueued (R26, R27), the cycle in which it reached its home queue's controller, none while it is on its way, and the
context whose task a retirement ends. -/
structure Msg where
  src  : Nat
  body : MsgBody
  ctx  : Option Nat := none
  arr  : Option Nat := none
  ends : Option Nat := none
  deriving DecidableEq, Repr

/-- A fault-buffer entry of a die (R340): the page's partition, base and size, and the window line whose monitor frees
it. -/
structure FaultRec where
  part  : Nat
  base  : Nat
  size  : Nat
  watch : Nat := 0
  deriving DecidableEq, Repr

/-- A request for power leave (R399): kind 0 a belay, 1 a copy. -/
structure LeaveReq where
  kind  : Nat
  core  : Nat
  ctx   : Nat
  copy  : Nat
  cycle : Nat
  deriving DecidableEq, Repr

/-- A die. -/
structure Die where
  stealPtr   : Nat := 0
  faultbuf   : FMap (List (Option FaultRec)) := []
  dropped    : FMap Bool := []
  blim       : Nat := 16
  clim       : Nat := 64
  holders    : List LeaveReq := []
  leaveQ     : List LeaveReq := []
  poolWalks  : List WalkEntry := []
  deriving DecidableEq, Repr

/-- TDISP states of R390. -/
inductive Tdi where
  | unlocked | locked | run
  deriving DecidableEq, Repr

/-- The record of a 4 KiB physical frame (R174, R400). -/
structure Frame where
  owner    : Option (Nat × Nat) := none
  sealed   : Dword := 0
  poisoned : Bool := false
  deriving DecidableEq, Repr

/-- A consistent cut in progress (R363): stop or checkpoint, the markers arrived (source, unit), the
units that have recorded, the channel logs, and the messages that reached a queue between its first marker and
its recording, which it applies when it records. -/
structure Cut where
  stop     : Bool
  markers  : List (Nat × Nat) := []
  recorded : List Nat := []
  log      : List Msg := []
  held     : List Msg := []
  deriving DecidableEq, Repr

/-- The recorded state of R364 for one partition. -/
structure CutImage where
  hkey     : Dword
  clusters : List Nat
  slices   : List Nat
  ptroot   : Dword
  walkcfg  : Dword
  bodytab  : Dword
  groups   : FMap (List Nat)
  cores    : FMap Core
  clus     : FMap Cluster
  queues   : FMap SlicePart
  sigs     : FMap (List SigEntry)
  hwfull   : FMap (FMap (BitVec 8))
  full     : FMap (BitVec 8)
  frames   : FMap Byte
  records  : FMap Frame
  /-- the latest stop report of each stopped context -/
  stops    : List (List Dword)
  log      : List Msg
  /-- the log of its link channels, and the arrivals at barriers that were under way -/
  links    : List PeerRequest
  asks     : List QReq
  /-- host requests that its service cores had taken and not yet performed (R363, R365) -/
  hosts    : List Access := []
  deriving DecidableEq, Repr

/-- A leaf of the tables: its level, the window address of its entry, and the entry. -/
structure Leaf where
  level : Nat
  va    : Nat
  entry : Nat
  deriving DecidableEq, Repr

/-- A page in transition at its homes (R170): the page, its new leaf, and the context whose RETYPE it is. -/
structure Transit where
  base : Nat
  size : Nat
  leaf : Leaf
  core : Nat
  ctx  : Nat
  deriving DecidableEq, Repr

/-- A request to a partition's service window (R195, R391): a launch, load or release record, a write of a debug module,
or a read of n bytes at an offset. -/
inductive WinReq where
  | launch (r : LaunchRecord)
  | load (r : LoadRecord)
  | release (w : Dword)
  | debug (core offset : Nat) (v : Dword)
  | read (offset size : Nat)
  deriving DecidableEq, Repr

/-- A partition (R390-R393). -/
structure Partition where
  live      : Bool := false
  clusters  : List Nat := []
  slices    : List Nat := []
  granted   : List (Nat × Nat) := []
  ceiling   : BitVec 40 := 0
  ptroot    : Dword := 0
  walkcfg   : Dword := 0
  hkey      : Dword := 0
  memKey    : BitVec 512 := 0
  bodytab   : Dword := 0
  sampcfg   : Dword := 0
  /-- sampling: reference slots (state, bundle index), records written, a tick lost, first after EN -/
  sampRef   : FMap (Nat × Nat) := []
  sampCount : Nat := 0
  sampLost  : Bool := false
  /-- CYCLE of the latest tick taken -/
  sampAt    : Option Nat := none
  groups    : FMap (List Nat) := []
  /-- service window: launch record accepted and waiting, its GO dword, load record, stop log -/
  launchQ   : Option LaunchRecord := none
  /-- the record was accepted: its BODYTAB is written and its stub waits for a context (R58) -/
  launchAcc : Bool := false
  launchGo  : Dword := 0
  loadQ     : Option LoadRecord := none
  loadGo    : Dword := 0
  loadStat  : Dword := 0
  loading   : Bool := false
  stopHead  : Nat := 0
  stopLog   : FMap (List Dword) := []
  msix      : List Nat := []
  tdi       : Tdi := .unlocked
  tenantKey : Option (BitVec 512) := none
  policy    : BitVec 5 := 0
  policyDig : BitVec 512 := 0
  policySeq : Option Nat := none
  dumpKey   : BitVec 256 := 0
  dumpCount : Nat := 0
  /-- dumps that a stop report has made due: core, and CYCLE at the stop (R379, R397) -/
  dumpDue   : List (Nat × Nat) := []
  dumps     : List (Bool × List Byte) := []
  aer       : List (Nat × Nat) := []
  answers   : List (Nat × Option (List Byte)) := []
  cut       : Option Cut := none
  image     : Option CutImage := none
  /-- pages in transition (R170), and the type that each leaf of the window last gave with TR = 0, by its window
  address: what its lines have that no cache holds (R171) -/
  transit   : List Transit := []
  /-- requests to the service window that wait behind others of its service core, with their places in the order of
  arrival (R195), and the dwords of the records written there, by dword number (R391) -/
  winQ      : List (Nat × WinReq) := []
  winRec    : FMap Dword := []
  ptypes    : FMap (BitVec 2) := []
  deriving DecidableEq, Repr

/-- The requests of R394, and its algorithms: SHAKE256 of 64 bytes, AES-256-GCM, and XMSS-SHAKE256 of tree height 20
in the extended asymmetric algorithm field. -/
inductive SpdmCode where
  | getVersion | getCapabilities | negotiateAlgorithms | getDigests | getCertificate | challenge | getMeasurements
  | keyExchange | finish | endSession | vendorDefinedRequest
  deriving DecidableEq, Repr
inductive SpdmHash where
  | shake256x64
  deriving DecidableEq, Repr
inductive SpdmAead where
  | aes256Gcm
  deriving DecidableEq, Repr
inductive SpdmSign where
  | xmssShake256h20
  deriving DecidableEq, Repr

/-- An SPDM responder's answer (R394-R396). -/
inductive SpdmAnswer where
  /-- the version, major and minor digit -/
  | version (mailbox : Nat) (version : Nat)
  /-- the requests answered, by name -/
  | capabilities (mailbox : Nat) (requests : List SpdmCode)
  | algorithms (mailbox : Nat) (hash : SpdmHash) (aead : SpdmAead) (identity : SpdmSign)
  | digests (mailbox : Nat) (digest : BitVec 512)
  | certificate (mailbox : Nat) (chain : List Byte)
  | signed (mailbox : Nat) (index : Nat) (signature : List Byte)
  | measurement (mailbox : Nat) (block : Nat) (digest : BitVec 512) (measured : Bool)
  | sessionEnd (mailbox : Nat)
  | finished (mailbox : Nat)
  | vendor (mailbox : Nat) (accepted : Bool)
  | errorUnspecified (mailbox : Nat)
  deriving DecidableEq, Repr

/-- The lifetime counters of R401. -/
structure Lifetime where
  /-- by HBM bank, at twice its number, and by SRAM tier macro, at the odd key behind twice its number -/
  corrected : FMap Nat := []
  transient : FMap Nat := []
  poisonedN : FMap Nat := []
  droops    : FMap Nat := []
  /-- by die and 2 °C bin, at the key 4 · bin + die -/
  temps     : FMap Nat := []
  leaves    : FMap Nat := []
  cold      : Nat := 0
  warm      : Nat := 0
  deriving DecidableEq, Repr

/-- The state of the package. -/
structure State where
  cycle    : Nat := 0
  /-- model's own: inputs from outside and the arbitration of events the spec leaves open, next first -/
  schedule : List Instr := []
  /-- model's own: the core and context whose bundle is being issued -/
  core     : Nat := 0
  ctx      : Nat := 0
  /-- model's own: the operands read by the bundle being issued (R83), and the p15 it leaves (R254) -/
  latch    : Option Regs := none
  tail     : Option Pred := none
  /-- model's own: counter of the free values taken -/
  free     : Nat := 0
  /-- model's own: rotation over the cores, one bundle for each step -/
  turn     : Nat := 0
  cores    : FMap Core := []
  clusters : FMap Cluster := []
  slices   : FMap Slice := []
  dies     : FMap Die := []
  parts    : FMap Partition := []
  accesses : List Access := []
  /-- model's own: the next access number -/
  accessId : Nat := 0
  copyId   : Nat := 0
  reqs     : List QReq := []
  msgs     : List Msg := []
  /-- the plain text of HBM; each range of frames is encrypted under the memory key that stands with it, the latest
  first (R154): first address, bytes, key -/
  hbm      : FMap Byte := []
  hbmKeys  : List (Nat × Nat × BitVec 512) := []
  frames   : FMap Frame := []
  /-- full bits of WS lines that have left their slice, kept with the line in HBM: by physical line (R186) -/
  wsMeta   : FMap (BitVec 8) := []
  retries  : List Nat := []
  hostMem  : FMap Byte := []
  peerMem  : FMap Byte := []
  /-- answers to peer packages, by physical address; none for a refusal (R198) -/
  peerOut  : List (Nat × Option LineData) := []
  /-- requests of peers that wait at their home: for a word, or for an HBM retry (R198, R400) -/
  peerWait : List PeerRequest := []
  /-- full bits of WS lines owned for a peer (R198) -/
  peerFull : FMap (BitVec 8) := []
  xmss     : Nat := 0
  /-- mailboxes whose key exchange awaits its FINISH, and those with an open session (R394) -/
  exchanges : List Nat := []
  sessions : List Nat := []
  spdm     : List SpdmAnswer := []
  measured : Bool := true
  linkDown : Bool := false
  lifetime : Lifetime := {}
  flash    : Lifetime := {}
  reads    : List Lifetime := []
  poisonLog : List Nat := []
  /-- physical lines whose writeback into a poisoned frame was refused UNCORR (R400) -/
  refusedWb : List Nat := []
  deriving DecidableEq, Repr

/-- The package right after a cold start (R398): CYCLE and the prefetch counters zero, no partition,
every unit in its cleared state (R392), the governors' limits at their nominal values (R399) (DESIGN CHOICE, log 1). -/
def State.reset : State := {}

end Sys2Proof.Machine
end

