-- ==== Sys2Proof/Machine/Units.lean ====
section
/-! DEFINITION. Reading and updating the units of the package in State, the identity of a core (spec/06
R120, spec/02 R28), free values, and bytes of TCM, scratchpad, HBM and host memory. -/

namespace Sys2Proof.Machine

/-- The core of a global number. -/
def coreAt (s : State) (n : Nat) : Core := fget {} s.cores n
def setCore (s : State) (n : Nat) (c : Core) : State := { s with cores := fset s.cores n c }
def modCore (s : State) (n : Nat) (f : Core → Core) : State := setCore s n (f (coreAt s n))
/-- A context of a core. -/
def ctxAt (s : State) (n k : Nat) : Ctx := fget {} (coreAt s n).ctxs k
def modCtx (s : State) (n k : Nat) (f : Ctx → Ctx) : State :=
  modCore s n fun c => { c with ctxs := fset c.ctxs k (f (fget {} c.ctxs k)) }
/-- The context that issues. -/
def cur (s : State) : Ctx := ctxAt s s.core s.ctx
def modCur (s : State) (f : Ctx → Ctx) : State := modCtx s s.core s.ctx f
def cluAt (s : State) (n : Nat) : Cluster := fget {} s.clusters n
def modClu (s : State) (n : Nat) (f : Cluster → Cluster) : State :=
  { s with clusters := fset s.clusters n (f (cluAt s n)) }
def sliceAt (s : State) (n : Nat) : Slice := fget {} s.slices n
def modSlice (s : State) (n : Nat) (f : Slice → Slice) : State :=
  { s with slices := fset s.slices n (f (sliceAt s n)) }
/-- What slice n keeps for partition p (R28). -/
def spAt (s : State) (n p : Nat) : SlicePart := fget {} (sliceAt s n).parts p
def modSP (s : State) (n p : Nat) (f : SlicePart → SlicePart) : State :=
  modSlice s n fun x => { x with parts := fset x.parts p (f (fget {} x.parts p)) }
def partAt (s : State) (n : Nat) : Partition := fget {} s.parts n
def modPart (s : State) (n : Nat) (f : Partition → Partition) : State :=
  { s with parts := fset s.parts n (f (partAt s n)) }
def dieAt (s : State) (n : Nat) : Die := fget {} s.dies n
def modDie (s : State) (n : Nat) (f : Die → Die) : State :=
  { s with dies := fset s.dies n (f (dieAt s n)) }

/-- A fresh open choice (R11). -/
def freeBit (s : State) : Bool × State := (Config.freeBit s.free, { s with free := s.free + 1 })
/-- A fresh open value. -/
def freeDword (s : State) : Dword × State := (Config.freeDword s.free, { s with free := s.free + 1 })

/-- The least element of a list. -/
def leastOf : List Nat → Option Nat
  | [] => none
  | a :: l => some (match leastOf l with | some b => min a b | none => a)

/-- The partition of a core (R390); a core outside every partition runs nothing. -/
def partOf (s : State) (core : Nat) : Nat := (coreAt s core).part.getD 0
/-- The base camp of a partition (R5): the lowest core of its lowest cluster. -/
def baseCamp (s : State) (p : Nat) : Nat := 8 * (leastOf (partAt s p).clusters).getD 0
/-- The cluster whose units a core uses: its own, or a home core's service cluster (R120). -/
def clusterFor (s : State) (core : Nat) : Nat :=
  if Config.isHome core then
    let d := (core - 512) / 64
    let q := (core - 512) % 64 / 16
    let cs := (partAt s (partOf s core)).clusters
    match leastOf (cs.filter fun c => c / 4 == 4 * d + q) with
    | some c => c
    | none =>
      match leastOf (cs.filter fun c => c / 16 == d) with
      | some c => c
      | none => (leastOf cs).getD 0
  else core / 8
/-- The cores of a partition, ascending: those of its clusters, then the home cores its mask names. -/
def coresOf (s : State) (p : Nat) : List Nat :=
  (List.range 768).filter fun n =>
    if Config.isHome n then (partAt s p).slices.contains (n - 512) else (partAt s p).clusters.contains (n / 8)
/-- Whether a core belongs to a partition. -/
def inPart (s : State) (p n : Nat) : Bool :=
  if Config.isHome n then (partAt s p).slices.contains (n - 512) && decide (n < 768)
  else (partAt s p).clusters.contains (n / 8)
/-- The delegate home core of a slice for a partition (R28). -/
def delegate (s : State) (p slice : Nat) : Nat :=
  let ms := (partAt s p).slices
  if ms.contains slice then 512 + slice else
  match leastOf (ms.filter (slice < ·)) with
  | some m => 512 + m
  | none => 512 + (leastOf ms).getD 0

/-- HomeOf: the global slice number that owns a virtual address (R320). -/
def homeOf (hkey : Dword) (va : Nat) : Nat :=
  let g := bits va 12 45
  let z := (g ^^^ hkey.toNat) * 0x9E3779B97F4A7C15 % 2 ^ 64
  let z := z ^^^ (z / 2 ^ 31)
  let z := z * 0xBF58476D1CE4E5B9 % 2 ^ 64
  z / 2 ^ 56
def homeIn (s : State) (p va : Nat) : Nat := homeOf (partAt s p).hkey va

/-- The n bytes at an address of a byte memory, little-endian (R7) (DESIGN CHOICE, log 4). -/
def readBytes (m : FMap Byte) (a : Nat) : Nat → Nat
  | 0 => 0
  | n + 1 => (bget m a).toNat + 256 * readBytes m (a + 1) n
/-- Writes the n low bytes of v at an address. -/
def writeBytes (m : FMap Byte) (a : Nat) : Nat → Nat → FMap Byte
  | 0, _ => m
  | n + 1, v => writeBytes (bput m a (BitVec.ofNat 8 v)) (a + 1) n (v / 256)

/-- Effective class of a context (R51); a second runs at the lead's (R62). -/
def ownClass (c : Ctx) : Nat := max c.base.toNat c.inh.toNat
def effClass (s : State) (n k : Nat) : Nat :=
  match (ctxAt s n k).rope with
  | .second lc lk => ownClass (ctxAt s lc lk)
  | _ => ownClass (ctxAt s n k)

/-- The identity G of R249 for a context. -/
def gOf (core ctx : Nat) : Nat := 8 * core + ctx

/-- The virtual address range test of BADVA (R201). -/
def badVa (va size : Nat) : Bool := decide (2 ^ 57 < va + size) || decide (2 ^ 57 ≤ va)

/-- Numbers under which units send messages (R362): a core its global number, then slices, engines, and
service cores. -/
def unitSlice (n : Nat) : Nat := 1000 + n
def unitEngine (n : Nat) : Nat := 2000 + n
def unitService (n : Nat) : Nat := 3000 + n
/-- The link ports, as one (DEDUCED, log 79). -/
def unitLink : Nat := 5000

end Sys2Proof.Machine
end

