-- ==== Sys2Proof/Machine/Records.lean ====
section
/-! DEFINITION. Task records as 64-byte images (spec/02 R17, R18, R22) and message identifiers (R19). -/

namespace Sys2Proof.Machine

/-- The 512 bits of a record (R17). -/
def recBits (r : TaskRecord) : Nat :=
  r.body.toNat + r.cls.toNat * 2 ^ 10 + bit01 r.trapped * 2 ^ 12 + bit01 r.near * 2 ^ 13 +
  bit01 r.far * 2 ^ 14 + r.alenm1.toNat * 2 ^ 16 + r.thresh.toNat * 2 ^ 37 + r.abase.toNat * 2 ^ 64 +
  r.mid.toNat * 2 ^ 128 + r.tcause.toNat * 2 ^ 192 + r.nsend.toNat * 2 ^ 200 + r.arg0.toNat * 2 ^ 256 +
  r.arg1.toNat * 2 ^ 320 + r.arg2.toNat * 2 ^ 384 + r.arg3.toNat * 2 ^ 448
/-- The record of 512 bits. -/
def recOf (w : Nat) : TaskRecord :=
  { body := BitVec.ofNat 10 w, cls := BitVec.ofNat 2 (bits w 10 2), trapped := bitAt w 12,
    near := bitAt w 13, far := bitAt w 14, alenm1 := BitVec.ofNat 21 (bits w 16 21),
    thresh := BitVec.ofNat 10 (bits w 37 10), abase := BitVec.ofNat 57 (bits w 64 57),
    mid := dn (bits w 128 64), tcause := BitVec.ofNat 8 (bits w 192 8),
    nsend := BitVec.ofNat 8 (bits w 200 8), arg0 := dn (bits w 256 64), arg1 := dn (bits w 320 64),
    arg2 := dn (bits w 384 64), arg3 := dn (bits w 448 64) }
/-- Length of a record's anchor (R18). -/
def TaskRecord.len (r : TaskRecord) : Nat := r.alenm1.toNat + 1
def TaskRecord.lo (r : TaskRecord) : Nat := r.abase.toNat
def TaskRecord.hi (r : TaskRecord) : Nat := r.abase.toNat + r.len
/-- A template that the home refuses to place (R211). -/
def templateBad (w : Nat) : Bool :=
  bitAt w 15 || bits w 47 17 != 0 || bits w 121 7 != 0 || bits w 208 48 != 0 || bitAt w 12 ||
  (!bitAt w 13 && !bitAt w 14) || decide (2 ^ 57 < (recOf w).hi)

/-- Fields of a body entry (R22). -/
def bodyValid (e : Nat) : Bool :=
  bitAt e 63 && bits e 46 2 != 3 && bits e 48 15 == 0 && !bitAt e 33 && !bitAt e 17
def bodyKind (e : Nat) : Nat := bits e 46 2
def bodyNear (e : Nat) : Bool := bodyKind e == 0 || bodyKind e == 1
def bodyFar (e : Nat) : Bool := bodyKind e == 0 || bodyKind e == 2
/-- The entry PC and absent bit of a core's kind (R24). -/
def bodyPc (home : Bool) (e : Nat) : Nat := if home then 8 * bits e 18 14 else 8 * bits e 0 16
def bodyAbsent (home : Bool) (e : Nat) : Bool := if home then bitAt e 32 else bitAt e 16
/-- Virtual address of body b's entry (R21, R22). -/
def bodyVa (bodytab : Dword) (b : Nat) : Nat := bits bodytab.toNat 13 44 * 8192 + 8 * b

/-- Message identifiers (R19). -/
def midHome (slice : Nat) (seq : BitVec 22) : Dword := dn (slice * 2 ^ 22 + seq.toNat)
def midCore (core : Nat) (seq : BitVec 22) : Dword := dn (core * 2 ^ 32 + 2 ^ 30 + seq.toNat)
/-- The home slice an identifier names; none when it was enqueued at a core (R134). -/
def midSlice (mid : Dword) : Option Nat := if bits mid.toNat 30 2 = 0 then some (bits mid.toNat 22 8) else none

end Sys2Proof.Machine
end

