-- ==== Sys2Proof/Machine/Queues.lean ====
section
/-! DEFINITION. Home queues (spec/02 R26, R29-R37): sections and spill blocks, eligibility, TAKE's and STEAL's
choice, retirement, depth and steal bitmaps; inbound queues of cores (R25, R27, R356). -/

namespace Sys2Proof.Machine

/-- R30: two ranges overlap. -/
def anchorsMeet (a b c d : Nat) : Bool := decide (a < d ∧ c < b)
def qLo (t : QTask) : Nat := t.record.lo
def qHi (t : QTask) : Nat := t.record.hi
/-- A queue's depth (R29). -/
def depth (q : SlicePart) : Nat := q.front.length + q.spill.length + q.back.length

/-- The oldest task of the back section spills (R32): it joins the open block, or opens one (DEDUCED, log 117). -/
def spillOne (q : SlicePart) : SlicePart :=
  match q.back with
  | [] => q
  | t :: rest =>
    let openBlk := if q.spill.isEmpty then none else match q.blocks.getLast? with
      | some b => if b.placed < 64 then some b else none
      | none => none
    match openBlk with
    | some b =>
      let b' := { b with lo := min b.lo (qLo t), hi := max b.hi (qHi t), placed := b.placed + 1, count := b.count + 1 }
      { q with back := rest, spill := q.spill ++ [{ t with blk := some b.id }],
               blocks := q.blocks.dropLast ++ [b'] }
    | none =>
      let b : SpillBlock := { id := q.nextBlk, lo := qLo t, hi := qHi t, placed := 1, count := 1 }
      { q with back := rest, spill := q.spill ++ [{ t with blk := some q.nextBlk }],
               blocks := q.blocks ++ [b], nextBlk := q.nextBlk + 1 }
/-- A task leaves the spill area: its block's count falls, and a block none of whose tasks is left there
goes. -/
def leaveBlock (q : SlicePart) (t : QTask) : SlicePart :=
  let bs := q.blocks.map fun b => if t.blk == some b.id then { b with count := b.count - 1 } else b
  { q with blocks := bs.filter fun b => 0 < b.count }
/-- The front section is refilled to 512, spilled tasks oldest first, then the back section (R26) (DEDUCED, log 117). -/
def refill : Nat → SlicePart → SlicePart
  | 0, q => q
  | n + 1, q =>
    if 512 ≤ q.front.length then q
    else match q.spill with
      | t :: rest => refill n (leaveBlock { q with spill := rest, front := q.front ++ [t] } t)
      | [] => match q.back with
        | t :: rest => refill n { q with back := rest, front := q.front ++ [t] }
        | [] => q
/-- An enqueue (R19, R20, R26): the record takes MID from the queue's counter. -/
def enqueueHome (q : SlicePart) (slice : Nat) (r : TaskRecord) : SlicePart :=
  let t : QTask := { record := { r with mid := midHome slice q.seq }, order := q.order }
  let q := { q with seq := q.seq + 1, order := q.order + 1 }
  if q.spill.isEmpty && q.back.isEmpty && q.front.length < 512 then { q with front := q.front ++ [t] }
  else
    let q := { q with back := q.back ++ [t] }
    if 512 < q.back.length then spillOne q else q

/-- R31 and R32: no earlier overlapping task is queued or running; a task of the back section is judged
against spilled tasks by their blocks' summaries. -/
def eligible (q : SlicePart) (inBack : Bool) (t : QTask) : Bool :=
  !((q.front ++ q.back).any fun u => decide (u.order < t.order) && anchorsMeet (qLo u) (qHi u) (qLo t) (qHi t)) &&
  !(q.running.any fun r => decide (r.order < t.order) && anchorsMeet r.lo r.hi (qLo t) (qHi t)) &&
  !(inBack && q.blocks.any fun b => anchorsMeet b.lo b.hi (qLo t) (qHi t))

/-- What Select returns (R35): the task, or the reason of R14. -/
inductive Choice where
  | task (t : QTask)
  | reason (r : Nat)
  deriving DecidableEq, Repr

/-- R35's scan. `take` is TAKE; the list carries whether a task stands in the back section. -/
def scan (q : SlicePart) (take : Bool) : List (QTask × Bool) → Bool → Bool → Choice
  | [], runnable, seen => .reason (if seen then 2 else if runnable then 3 else 1)
  | (t, back) :: l, runnable, seen =>
    if (if take then !t.record.near else !t.record.far) then scan q take l runnable seen
    else if !eligible q back t then scan q take l true seen
    else if !take && decide (depth q ≤ t.record.thresh.toNat) then scan q take l true true
    else .task t
/-- Select (R35): TAKE scans front then back, oldest first; STEAL the 16 youngest on chip, youngest first. -/
def select (q : SlicePart) (take : Bool) : Choice :=
  let all := q.front.map (·, false) ++ q.back.map (·, true)
  scan q take (if take then all else all.reverse.take 16) false false
/-- Removes a chosen task: it is running until its retirement (R31). -/
def removeTask (q : SlicePart) (t : QTask) : SlicePart :=
  let keep (l : List QTask) := l.filter fun u => !(u.order == t.order)
  refill 1024 { q with front := keep q.front, back := keep q.back,
                       running := q.running ++ [{ mid := t.record.mid, order := t.order, lo := qLo t, hi := qHi t }] }
/-- A retirement (R31, R34). -/
def retireTask (q : SlicePart) (mid : Dword) : SlicePart :=
  { q with running := q.running.filter fun r => !(r.mid == mid) }

/-- A slice's steal bit: the depth exceeds the smallest threshold among far tasks (R36) (DEDUCED, log 22). -/
def stealBit (q : SlicePart) : Bool :=
  match leastOf (((q.front ++ q.spill ++ q.back).filter fun t => t.record.far).map fun t => t.record.thresh.toNat) with
  | some m => decide (m < depth q)
  | none => false
/-- Its depth class (R36). -/
def depthClass (q : SlicePart) : Nat := min 7 (ilog2 (depth q))

/-- What a queue advertises now, and the cycle by which its die's bitmap must hold it (R36). -/
def advertised (q : SlicePart) : Bool × Nat := (stealBit q, depthClass q)
def noteAdvert (now : Nat) (q : SlicePart) : SlicePart :=
  if advertised q == q.adv then { q with advDue := none }
  else { q with advDue := some (q.advDue.getD (now + 6)) }
/-- The change reaches the bitmap. -/
def advertise (q : SlicePart) : SlicePart := { q with adv := advertised q, advDue := none }

/-- The advertising slice of a die that STEAL.any tries (R37): the highest class that its bitmap holds, ties by the
die's pointer (DEDUCED, log 22). -/
def bestSlice (s : State) (p die : Nat) : Option Nat :=
  let ptr := (dieAt s die).stealPtr
  let order := (List.range 64).map fun i => (ptr + i) % 64
  let held (i : Nat) : Bool × Nat := (spAt s (64 * die + i) p).adv
  let adv := order.filter fun i => (held i).1
  let top := (adv.map fun i => (held i).2).foldl max 0
  match adv.find? fun i => (held i).2 == top with
  | some i => some (64 * die + i)
  | none => none

/-- Records of an inbound queue that count against its 4,096 places (R27). -/
def inboundUsed (c : Core) : Nat :=
  (c.inbound.filter fun r => match r.body with | .task _ q => !q | _ => true).length
/-- Enqueues at a core's inbound queue (R19, R20, R25): a task record takes MID there. -/
def enqueueInbound (s : State) (core : Nat) (b : InBody) : State :=
  modCore s core fun c =>
    let mid := midCore core c.seq
    let b := match b with
      | .task r false => .task { r with mid := mid } false
      | b => b
    { c with inbound := c.inbound ++ [{ body := b, mid := mid }], seq := c.seq + 1 }
/-- Requeues a trapped task's record at the head, held for its context (R43, R356). -/
def requeue (s : State) (core ctx : Nat) (r : TaskRecord) : State :=
  modCore s core fun c => { c with inbound := { body := .task r true, mid := r.mid, held := some ctx } :: c.inbound }
/-- A context that becomes dormant frees the records held for it (R356). -/
def unhold (s : State) (core ctx : Nat) : State :=
  modCore s core fun c =>
    { c with inbound := c.inbound.map fun r => if r.held == some ctx then { r with held := none } else r }
/-- The first record that is not held leaves (R25, R356). -/
def popInbound : List InRec → Option (InRec × List InRec)
  | [] => none
  | r :: l =>
    if r.held.isSome then
      match popInbound l with
      | some (x, rest) => some (x, r :: rest)
      | none => none
    else some (r, l)

/-- A message in flight that its full receiver keeps waiting (R26, R27). -/
def msgBlocked (s : State) (m : Msg) : Bool :=
  match m.body with
  | .enqueue slice p _ => decide (16384 ≤ depth (spAt s slice p))
  | .inbound core _ _ => decide (4096 ≤ inboundUsed (coreAt s core))
  | .launch core _ _ _ _ _ _ _ => decide (4096 ≤ inboundUsed (coreAt s core))
  | .retire _ _ _ => false

/-- A core's quadrant and die in the tree of R60. -/
def quadOf (n : Nat) : Nat := if Config.isHome n then (n - 512) / 16 else n / 32
/-- The first member of a die, of a quadrant, and the first far core of a cluster (R60). -/
def firstOfDie (root : Nat) (m : List Nat) (d : Nat) : Option Nat :=
  if Config.dieOf root = d then some root else leastOf (m.filter fun n => Config.dieOf n == d)
def firstOfQuad (root : Nat) (m : List Nat) (q : Nat) : Option Nat :=
  if quadOf root = q then some root else leastOf (m.filter fun n => quadOf n == q)
def firstFar (root : Nat) (m : List Nat) (c : Nat) : Option Nat :=
  if !Config.isHome root && root / 8 == c then some root
  else leastOf (m.filter fun n => !Config.isHome n && n / 8 == c)
/-- The members to which a node of the tree sends (R60). -/
def treeChildren (root : Nat) (m : List Nat) (n : Nat) : List Nat :=
  let d := Config.dieOf n
  let q := quadOf n
  let dies := if n = root then [d ^^^ 1, d ^^^ 2, d ^^^ 3].filterMap (firstOfDie root m) else []
  let quads :=
    if firstOfDie root m d == some n then
      ((List.range 4).map fun i => 4 * d + i).filterMap fun x => if x = q then none else firstOfQuad root m x
    else []
  let inQuad :=
    if firstOfQuad root m q == some n then
      (((List.range 4).map fun i => 4 * q + i).filterMap fun c =>
        if !Config.isHome n && n / 8 == c then none else firstFar root m c) ++
      m.filter fun x => Config.isHome x && quadOf x == q && x != n
    else []
  let inCluster :=
    if !Config.isHome n && firstFar root m (n / 8) == some n then
      m.filter fun x => !Config.isHome x && x / 8 == n / 8 && x != n
    else []
  dies ++ quads ++ inQuad ++ inCluster
/-- Launch-tree messages from a node to cores. -/
def launchMsgs (src p pc : Nat) (ap : Dword) (cls : BitVec 2) (issuer : Nat × Nat) (root : Nat) (m dst : List Nat) :
    List Msg :=
  dst.map fun n => { src := src, body := .launch n p pc ap cls issuer root m }
/-- The channel of a message, by its receiver (R362): launch-tree messages have channels of their own (DEDUCED, log
79). -/
def msgTo (m : Msg) : Nat :=
  match m.body with
  | .enqueue slice _ _ | .retire slice _ _ => unitSlice slice
  | .inbound core _ _ => core
  | .launch core _ _ _ _ _ _ _ => 4000 + core
/-- The unit that receives a message. -/
def msgUnit (m : Msg) : Nat := if 4000 ≤ msgTo m then msgTo m - 4000 else msgTo m
def msgPart (m : Msg) : Nat :=
  match m.body with
  | .enqueue _ p _ | .retire _ p _ | .inbound _ p _ | .launch _ p _ _ _ _ _ _ => p
/-- The receiving queue applies a message (R19, R25, R31); of a launch tree's, the core sends it on to its children, but
for the issuer's own start (R27, R60). -/
def applyMsg (s : State) (m : Msg) : State :=
  match m.body with
  | .enqueue slice p r => modSP s slice p fun q => enqueueHome q slice r
  | .retire slice p mid => modSP s slice p fun q => retireTask q mid
  | .inbound core _ b => enqueueInbound s core b
  | .launch core p pc ap cls issuer root mem =>
    let s := enqueueInbound s core (.launch pc ap cls issuer)
    if core = root then s
    else { s with msgs := s.msgs ++ launchMsgs core p pc ap cls issuer root mem (treeChildren root mem core) }
/-- A message that a cut applies at its recording, or its restoring (R363, R366): a queue notes what it advertises then
(R36). -/
def applyNoted (s : State) (m : Msg) : State :=
  let s := applyMsg s m
  match m.body with
  | .enqueue slice p _ | .retire slice p _ => modSP s slice p (noteAdvert s.cycle)
  | _ => s
/-- A message reaches its receiver. During a cut, one behind its channel's marker is logged, and one that reaches
a queue between its first marker and its recording is applied at the recording (R363, R365). -/
def receive (s : State) (m : Msg) : State :=
  match (partAt s (msgPart m)).cut with
  | none => applyMsg s m
  | some c =>
    if c.markers.contains (m.src, msgUnit m) then
      modPart s (msgPart m) fun p => { p with cut := some { c with log := c.log ++ [m] } }
    else if !c.recorded.contains (msgUnit m) && c.markers.any fun x => x.2 == msgUnit m then
      modPart s (msgPart m) fun p => { p with cut := some { c with held := c.held ++ [m] } }
    else applyMsg s m
/-- A unit of the partition has recorded its state in a cut (R363). -/
def cutDone (s : State) (p unit : Nat) : Bool :=
  match (partAt s p).cut with
  | some c => c.recorded.contains unit
  | none => false

end Sys2Proof.Machine
end

