-- ==== Sys2Proof/Machine/Num.lean ====
section
/-! DEFINITION. Number formats (spec/13 R233-R237, R239), exact values, and RoundTo (R247-R249). An exact
finite value is a sign, a magnitude `man * 2^exp` and a mark that the true magnitude lies strictly above it
and below the next multiple of 2^exp (quotients, roots, logarithms). -/

namespace Sys2Proof.Machine

/-- A floating format (R234, R235): exponent and fraction widths, bias, and what the top exponent encodes:
infinities and NaNs (`ieee`), one NaN pattern (`oneNan`), or finite numbers only. -/
structure Fmt where
  e      : Nat
  m      : Nat
  bias   : Nat
  ieee   : Bool := false
  oneNan : Bool := false
  deriving DecidableEq, Repr

def f64 : Fmt := { e := 11, m := 52, bias := 1023, ieee := true }
def f32 : Fmt := { e := 8, m := 23, bias := 127, ieee := true }
def bf16 : Fmt := { e := 8, m := 7, bias := 127, ieee := true }
def f16 : Fmt := { e := 5, m := 10, bias := 15, ieee := true }
def e4m3 : Fmt := { e := 4, m := 3, bias := 7, oneNan := true }
def e5m2 : Fmt := { e := 5, m := 2, bias := 15, ieee := true }
def e3m2 : Fmt := { e := 3, m := 2, bias := 3 }
def e2m3 : Fmt := { e := 2, m := 3, bias := 1 }
def e2m1 : Fmt := { e := 2, m := 1, bias := 1 }

/-- The floating formats by format number (R233); none for the integer formats, CB4 and ZX8. -/
def fmtOf : Nat → Option Fmt
  | 0 => some f32 | 1 => some bf16 | 2 => some f16 | 3 => some e4m3 | 4 => some e5m2 | 5 => some e3m2
  | 6 => some e2m3 | 7 => some e2m1 | _ => none

/-- A value read from a format. -/
inductive FVal where
  | nan (signalling : Bool)
  | inf (neg : Bool)
  | fin (neg : Bool) (man : Nat) (exp : Int) (above : Bool)
  deriving DecidableEq, Repr

/-- A finite value with nothing above it. -/
def FVal.exact (neg : Bool) (man : Nat) (exp : Int) : FVal := .fin neg man exp false
/-- The value of an integer. -/
def FVal.ofInt (i : Int) : FVal := .fin (decide (i < 0)) i.natAbs 0 false

/-- Width of a format. -/
def Fmt.width (f : Fmt) : Nat := 1 + f.e + f.m
/-- The exponent of a subnormal's last bit. -/
def Fmt.lo (f : Fmt) : Int := 1 - (f.bias : Int) - f.m

/-- The value of a bit pattern (R234, R235). -/
def decodeF (f : Fmt) (w : Nat) : FVal :=
  let ex := bits w f.m f.e
  let fr := bits w 0 f.m
  let s := bitAt w (f.e + f.m)
  if ex = 0 then .exact s fr f.lo
  else if f.ieee ∧ ex = 2 ^ f.e - 1 then
    (if fr = 0 then .inf s else .nan (fr < 2 ^ (f.m - 1)))
  else if f.oneNan ∧ ex = 2 ^ f.e - 1 ∧ fr = 2 ^ f.m - 1 then .nan false
  else .exact s (2 ^ f.m + fr) (f.lo + ex - 1)

/-- Zero. -/
def FVal.isZero : FVal → Bool
  | .fin _ 0 _ false => true
  | _ => false
/-- The sign of a value that is no NaN. -/
def FVal.neg : FVal → Bool
  | .nan _ => false
  | .inf s => s
  | .fin s _ _ _ => s
def FVal.isNan : FVal → Bool
  | .nan _ => true
  | _ => false
def FVal.isSnan : FVal → Bool
  | .nan s => s
  | _ => false
def FVal.isInf : FVal → Bool
  | .inf _ => true
  | _ => false
/-- The same magnitude with the given sign. -/
def FVal.withSign (s : Bool) : FVal → FVal
  | .nan q => .nan q
  | .inf _ => .inf s
  | .fin _ m e a => .fin s m e a

/-- |v| < 2^k, for a finite value. -/
def FVal.below (k : Int) : FVal → Bool
  | .fin _ 0 _ _ => true
  | .fin _ m e _ => decide (e + (ilog2 m : Int) < k)
  | _ => false

/-- The canonical quiet NaN (R234, R235); 0 in the formats that have none. -/
def canonNan (f : Fmt) : Nat :=
  if f.ieee then (2 ^ f.e - 1) * 2 ^ f.m + 2 ^ (f.m - 1)
  else if f.oneNan then 2 ^ (f.e + f.m) - 1 else 0
/-- The pattern of the largest finite magnitude. -/
def maxFin (f : Fmt) : Nat :=
  if f.ieee then (2 ^ f.e - 1) * 2 ^ f.m - 1
  else if f.oneNan then 2 ^ (f.e + f.m) - 2 else 2 ^ (f.e + f.m) - 1
/-- A pattern's sign bit. -/
def signBit (f : Fmt) (s : Bool) : Nat := bit01 s * 2 ^ (f.e + f.m)
/-- Infinity's pattern. -/
def infBits (f : Fmt) : Nat := (2 ^ f.e - 1) * 2 ^ f.m

/-- Whether a magnitude with `d` discarded bits `rem` (and more below when `above`) rounds away from zero
(R248, R249): modes 0 RNE, 1 RTZ, 2 RUP, 3 RDN, 4 RNA, 5 stochastic with random value r. -/
def roundsUp (mode r : Nat) (neg odd : Bool) (rem d : Nat) (above : Bool) : Bool :=
  match mode with
  | 0 => decide (2 ^ d < 2 * rem) || (decide (2 * rem = 2 ^ d) && (above || odd))
  | 1 => false
  | 2 => !neg && (rem != 0 || above)
  | 3 => neg && (rem != 0 || above)
  | 4 => decide (2 ^ d ≤ 2 * rem)
  | _ => decide (2 ^ 16 ≤ rem * 2 ^ 16 / 2 ^ d + r)

/-- A magnitude rounded to multiples of 2^q: the multiple, and whether it is inexact. -/
def roundAt (mode r : Nat) (neg : Bool) (man : Nat) (exp : Int) (above : Bool) (q : Int) : Nat × Bool :=
  let d := (q - exp).toNat
  let n := man * 2 ^ (exp - q).toNat
  let kept := n / 2 ^ d
  let rem := n % 2 ^ d
  if d = 0 then
    -- nothing discarded but what lies above: as if 2 zero bits were
    (if roundsUp mode r neg (kept % 2 == 1) 0 2 above then kept + 1 else kept, above)
  else (if roundsUp mode r neg (kept % 2 == 1) rem d above then kept + 1 else kept, rem != 0 || above)

/-- What rounding gives: the pattern, and whether it is inexact, overflowed, or was tiny before rounding. -/
structure Rounded where
  bits : Nat
  nx   : Bool := false
  of   : Bool := false
  tiny : Bool := false
  deriving DecidableEq, Repr

/-- RoundTo of a finite value (R247 steps 1-3, R248, R249). -/
def roundFin (f : Fmt) (mode r : Nat) (neg : Bool) (man : Nat) (exp : Int) (above : Bool) : Rounded :=
  if man = 0 ∧ above = false then { bits := signBit f neg } else
  let q := max f.lo (exp + (ilog2 man : Int) - f.m)
  let (k, nx) := roundAt mode r neg man exp above q
  let tiny := decide (exp + (ilog2 man : Int) < f.lo + f.m)
  let mag : Nat := if k < 2 ^ f.m then k else k + ((q - f.lo).toNat) * 2 ^ f.m
  if maxFin f < mag then
    let toMax := !f.ieee || mode == 1 || (mode == 2 && neg) || (mode == 3 && !neg)
    { bits := signBit f neg + (if toMax then maxFin f else infBits f), nx := true, of := true, tiny := tiny }
  else { bits := signBit f neg + mag, nx := nx, tiny := tiny }

/-- RoundTo to an integer (R247 step 5 before saturation): the integer and whether it is inexact. -/
def roundInt (mode r : Nat) (neg : Bool) (man : Nat) (exp : Int) (above : Bool) : Int × Bool :=
  let (k, nx) := roundAt mode r neg man exp above 0
  (if neg then -(k : Int) else k, nx)

/-- The flags of FRM in their order above bit 8 (R107): bit 0 NX, 1 UF, 2 OF, 3 DZ, 4 NV. -/
abbrev Flags := BitVec 5
def fNX : Flags := 1
def fUF : Flags := 2
def fOF : Flags := 4
def fDZ : Flags := 8
def fNV : Flags := 16
/-- A flag when a condition holds. -/
def fIf (b : Bool) (f : Flags) : Flags := if b then f else 0

/-- The random value r of stochastic rounding (R249): G is 8 × core + context. -/
def srHash (g icount row col : Nat) : Nat :=
  let key := (g * 2 ^ 51 + icount % 2 ^ 35 * 2 ^ 16 + row * 256 + col) % 2 ^ 64
  let z := key * 0x9E3779B97F4A7C15 % 2 ^ 64
  let z := z ^^^ (z / 2 ^ 29)
  let z := z * 0xBF58476D1CE4E5B9 % 2 ^ 64
  let z := z ^^^ (z / 2 ^ 32)
  z / 2 ^ 48

/-- Bounds of the signed integer format of n bits. -/
def satInt (n : Nat) (i : Int) : Int × Bool :=
  if i < -(2 ^ (n - 1) : Nat) then (-(2 ^ (n - 1) : Nat), true)
  else if (2 ^ (n - 1) : Nat) - 1 < i then ((2 ^ (n - 1) : Nat) - 1, true) else (i, false)

/-- RoundTo into a floating format with the flags of R247: overflow and saturation set OF and NX, an inexact
result NX, a signalling NaN NV, a quiet NaN NV where the destination has none; an infinite value saturates
where there is no infinity. -/
def roundTo (f : Fmt) (mode r : Nat) : FVal → Nat × Flags
  | .nan s => if f.ieee || f.oneNan then (canonNan f, fIf s fNV) else (0, fNV)
  | .inf s =>
    if f.ieee then (signBit f s + infBits f, 0) else (signBit f s + maxFin f, fOF ||| fNX)
  | .fin s m e a =>
    let x := roundFin f mode r s m e a
    (x.bits, fIf x.of fOF ||| fIf x.nx fNX)

/-- RoundTo into a signed integer format of n bits (R247 steps 4-6): saturation and NaN set NV, otherwise an
inexact result sets NX. -/
def roundToInt (n mode r : Nat) : FVal → Int × Flags
  | .nan _ => (0, fNV)
  | .inf s => (if s then -(2 ^ (n - 1) : Nat) else (2 ^ (n - 1) : Nat) - 1, fNV)
  | .fin s m e a =>
    let (i, nx) := roundInt mode r s m e a
    let (j, sat) := satInt n i
    (j, if sat then fNV else fIf nx fNX)

/-- The exact sum. `rdn` decides the sign of an exact zero sum of opposite signs (R109). An infinity minus an
infinity is a quiet NaN (its invalid flag is the caller's). -/
def addF (rdn : Bool) : FVal → FVal → FVal
  | .nan s, .nan t => .nan (s || t)
  | .nan s, _ => .nan s
  | _, .nan s => .nan s
  | .inf s, .inf t => if s = t then .inf s else .nan false
  | .inf s, _ => .inf s
  | _, .inf t => .inf t
  | .fin s m e a, .fin t n g b =>
    let lo := min e g
    let x : Int := (m * 2 ^ (e - lo).toNat : Nat)
    let y : Int := (n * 2 ^ (g - lo).toNat : Nat)
    let z := (if s then -x else x) + (if t then -y else y)
    if z = 0 ∧ !(a || b) then .exact (if s = t then s else rdn) 0 0
    else .fin (decide (z < 0)) z.natAbs lo (a || b)

/-- The exact product; 0 × ∞ is a quiet NaN. -/
def mulF : FVal → FVal → FVal
  | .nan s, .nan t => .nan (s || t)
  | .nan s, _ => .nan s
  | _, .nan s => .nan s
  | .inf s, .inf t => .inf (s != t)
  | .inf s, .fin t n _ _ => if n = 0 then .nan false else .inf (s != t)
  | .fin s m _ _, .inf t => if m = 0 then .nan false else .inf (s != t)
  | .fin s m e a, .fin t n g b => .fin (s != t) (m * n) (e + g) (a || b)

/-- The negated value. -/
def negF : FVal → FVal
  | .nan s => .nan s
  | .inf s => .inf !s
  | .fin s m e a => .fin (!s) m e a

/-- The exact quotient of finite values with a nonzero divisor, to 96 bits and a mark for the rest. -/
def divFin (s : Bool) (m : Nat) (e : Int) (n : Nat) (g : Int) : FVal :=
  if m = 0 then .exact s 0 0 else
  let k := 96 + ilog2 n
  let q := m * 2 ^ k / n
  .fin s q (e - g - k) (q * n != m * 2 ^ k)

/-- ⌊√n⌋ for n < 4^k, one bit at a time. -/
def isqrt (n : Nat) : Nat → Nat
  | 0 => 0
  | k + 1 =>
    let r := 2 * isqrt (n / 4) k + 1
    if r * r ≤ n then r else r - 1

/-- The exact square root of a positive finite value, to at least 96 bits and a mark. -/
def sqrtFin (m : Nat) (e : Int) : FVal :=
  if m = 0 then .exact false 0 0 else
  let m' := if e % 2 = 0 then m else 2 * m
  let e' := if e % 2 = 0 then e else e - 1
  let n := m' * 2 ^ 192
  let r := isqrt n (ilog2 n / 2 + 1)
  .fin false r (e' / 2 - 96) (r * r != n)

/-- The magnitude order of two finite values: a < b as reals. -/
def ltFin (s : Bool) (m : Nat) (e : Int) (t : Bool) (n : Nat) (g : Int) : Bool :=
  let lo := min e g
  let x : Int := (m * 2 ^ (e - lo).toNat : Nat)
  let y : Int := (n * 2 ^ (g - lo).toNat : Nat)
  decide ((if s then -x else x) < (if t then -y else y))

/-- a < b for values that are no NaN (zeros of both signs are equal). -/
def ltF : FVal → FVal → Bool
  | .inf s, .inf t => s && !t
  | .inf s, _ => s
  | _, .inf t => !t
  | .fin s m e _, .fin t n g _ => ltFin s m e t n g
  | _, _ => false

end Sys2Proof.Machine
end

