-- ==== Sys2Proof/Machine/Elements.lean ====
section
/-! DEFINITION. Stream elements (spec/14 R252, R253): sizes, conversions to and from 32-bit lanes, addresses. -/

namespace Sys2Proof.Machine

/-- Bytes of an element (R253). -/
def elemSize : Nat → Nat
  | 0 => 4 | 1 => 2 | 2 => 2 | 7 => 2 | _ => 1
/-- Widens a narrow float exactly to FP32, a NaN with its sign and payload kept at the top (R253). -/
def widen (f : Fmt) (w : Nat) : Nat :=
  match decodeF f w with
  | .nan _ =>
    let fr := if f.oneNan then 2 ^ f.m - 1 else bits w 0 f.m
    bit01 (bitAt w (f.e + f.m)) * 2 ^ 31 + 0x7F800000 + fr * 2 ^ (23 - f.m)
  | v => exactVal v
where exactVal (v : FVal) : Nat := (roundTo f32 1 0 v).1
/-- A lane read from an element (R253). -/
def elemRead (elem w : Nat) : Word :=
  match elem with
  | 0 => BitVec.ofNat 32 w
  | 1 => BitVec.ofNat 32 (widen bf16 w)
  | 2 => BitVec.ofNat 32 (widen f16 w)
  | 3 => BitVec.ofNat 32 (widen e4m3 w)
  | 4 => BitVec.ofNat 32 (widen e5m2 w)
  | 5 => BitVec.ofInt 32 (sext 8 w)
  | 6 => BitVec.ofNat 32 (w % 256)
  | _ => BitVec.ofInt 32 (sext 16 w)
/-- A saturating integer element. -/
def satTo (lo hi : Int) (v : Word) : Int × Flags :=
  if v.toInt < lo then (lo, fNV) else if hi < v.toInt then (hi, fNV) else (v.toInt, 0)
/-- The element written from a lane, under a mode and random value, with its flags (R247, R253). -/
def elemWrite (elem mode r : Nat) (v : Word) : Nat × Flags :=
  match elem with
  | 0 => (v.toNat, 0)
  | 1 => roundTo bf16 mode r (decodeF f32 v.toNat)
  | 2 => roundTo f16 mode r (decodeF f32 v.toNat)
  | 3 => roundTo e4m3 mode r (decodeF f32 v.toNat)
  | 4 => roundTo e5m2 mode r (decodeF f32 v.toNat)
  | 5 => let x := satTo (-128) 127 v; ((BitVec.ofInt 8 x.1).toNat, x.2)
  | 6 => let x := satTo 0 255 v; ((BitVec.ofInt 8 x.1).toNat, x.2)
  | _ => let x := satTo (-32768) 32767 v; ((BitVec.ofInt 16 x.1).toNat, x.2)
/-- Address of element e (R252). -/
def elemAddr (base : Dword) (stride : List Dword) (bound : List Nat) (e : Nat) : Nat :=
  let n0 := bound.getD 0 1
  let n1 := bound.getD 1 1
  (base + dn' (e % n0) * stride.getD 0 0 + dn' (e / n0 % n1) * stride.getD 1 0 +
    dn' (e / n0 / n1) * stride.getD 2 0).toNat
where dn' (n : Nat) : Dword := BitVec.ofNat 64 n
def elemCount (bound : List Nat) : Nat := bound.getD 0 1 * bound.getD 1 1 * bound.getD 2 1
/-- Number of beats (R252). -/
def beatCount (bound : List Nat) : Nat := (elemCount bound + 255) / 256
/-- Lanes of beat b that hold elements (R254). -/
def beatMask (bound : List Nat) (b : Nat) : Pred := predOf fun i => decide (256 * b + i < elemCount bound)

end Sys2Proof.Machine
end

