-- ==== Sys2Proof/Machine/Formats.lean ====
section
/-! DEFINITION. Operand formats in memory (spec/13 R233-R243, R246; spec/14 R264): the elements of an image,
bit planes, CB4 and ZX8 blocks, scales. An image is the number whose byte k is bits [8k+7 : 8k]. -/

namespace Sys2Proof.Machine

/-- Bits of an element of the formats that store elements one after another (R233, R236). -/
def elemBits : Nat → Nat
  | 0 => 32 | 1 => 16 | 2 => 16 | 5 => 6 | 6 => 6 | 7 => 4 | _ => 8
/-- Width of a bit-plane format (R237) (DEDUCED, log 55). -/
def planes : Nat → Nat
  | 9 => 4 | 10 => 2 | _ => 1
/-- The code of element e of a bit-plane image of w planes (R237). -/
def planeCode (w img e : Nat) : Nat := pack 1 (fun p => bit01 (bitAt img (64 * (w * (e / 64) + p) + e % 64))) w
/-- The code of element e of an image of format number k (R233-R237); k is no block format. -/
def codeAt (k img e : Nat) : Nat :=
  if k = 9 ∨ k = 10 ∨ k = 11 then planeCode (planes k) img e
  else bits img (elemBits k * e) (elemBits k)
/-- The value of an integer code read at `pl` planes (R237, R238). -/
def intVal (k pl code : Nat) : Int :=
  match k with
  | 8 => sext 8 code
  | 9 => sext 4 (code / 2 ^ (4 - pl) * 2 ^ (4 - pl))
  | 10 => sext 2 (code / 2 ^ (2 - pl) * 2 ^ (2 - pl))
  | 11 => if code = 1 then 1 else -1
  | _ => sext 32 code
/-- R246: an element is nonzero by its encoding alone; code 12 is an INT32 lane. -/
def nonzeroCode (k code : Nat) : Bool :=
  match k with
  | 0 => bits code 0 31 != 0
  | 1 => bits code 0 15 != 0
  | 2 => bits code 0 15 != 0
  | 3 => bits code 0 7 != 0
  | 4 => bits code 0 7 != 0
  | 5 => bits code 0 5 != 0
  | 6 => bits code 0 5 != 0
  | 7 => bits code 0 3 != 0
  | 11 => true
  | _ => code != 0
/-- Elements of kind k in a 1 KiB image (R288). -/
def imageCount : Nat → Nat
  | 0 => 256 | 1 => 512 | 2 => 512 | 3 => 1024 | 4 => 1024 | 5 => 1364 | 6 => 1364 | 7 => 2048 | 8 => 1024
  | 9 => 2048 | 10 => 4096 | 11 => 8192 | _ => 256
/-- The code of element e of an image of kind k (R285): kind 12 has 32-bit lanes. -/
def kindCode (k img e : Nat) : Nat := if k = 12 then bits img (32 * e) 32 else codeAt k img e

/-- Element e of CB4 blocks from byte 0 of an image: an FP16 codebook entry (R239). -/
def cb4Code (img e : Nat) : Nat :=
  let base := 8 * 48 * (e / 32)
  let ix := bits img (base + 256 + 4 * (e % 32)) 4
  bits img (base + 16 * ix) 16

/-- The code lengths of a table dword (R241). -/
def zxLen (t s : Nat) : Nat := bits t (4 * s) 4
/-- R242: every length is at most 8 and the Kraft sum at most 1. -/
def zxTableOk (t : Nat) : Bool :=
  (List.range 16).all (fun s => zxLen t s ≤ 8) &&
  decide (((List.range 16).map fun s => if zxLen t s = 0 then 0 else 2 ^ (8 - zxLen t s)).sum ≤ 256)
/-- The canonical codes in order: length, code, symbol (R241). -/
def zxCodes (t : Nat) : List (Nat × Nat × Nat) :=
  let order := ((List.range 9).map fun l => if l = 0 then [] else
    ((List.range 16).filter fun s => zxLen t s == l).map fun s => (l, s)).flatten
  (order.foldl (fun (st : Nat × Nat × List (Nat × Nat × Nat)) ls =>
    let code := st.1 * 2 ^ (ls.1 - st.2.1)
    (code + 1, ls.1, st.2.2 ++ [(ls.1, code, ls.2)])) (0, 0, [])).2.2
/-- l bits of a string from bit b, the first the most significant (R240). -/
def zxPrefix (str b : Nat) : Nat → Nat
  | 0 => 0
  | l + 1 => 2 * zxPrefix str b l + bit01 (bitAt str (b + l))
/-- The token at bit b: its length and symbol. -/
def zxToken (codes : List (Nat × Nat × Nat)) (str b : Nat) : Option (Nat × Nat) :=
  match codes.find? fun c => zxPrefix str b c.1 == c.2.1 with
  | some c => some (c.1, c.2.2)
  | none => none
/-- n tokens from bit b: the bit after the last, and the symbols in order. -/
def zxTokens (codes : List (Nat × Nat × Nat)) (str : Nat) : Nat → Nat → Option (Nat × List Nat)
  | 0, b => some (b, [])
  | n + 1, b =>
    match zxToken codes str b with
    | none => none
    | some (l, s) => match zxTokens codes str n (b + l) with
      | some (e, ss) => some (e, s :: ss)
      | none => none
/-- One ZX8 block (R240, R242): its E4M3 bytes and its size in bytes (DEDUCED, log 55). -/
def zxBlock (tables str : Nat) : Option (List Nat × Nat) :=
  let t := bits tables (64 * bits str 12 4) 64
  let plen := bits str 0 12
  if !zxTableOk t then none
  else match zxTokens (zxCodes t) str 32 16 with
    | none => none
    | some (e, ss) =>
      if plen != e - 16 + 128 then none
      else some ((ss.zipIdx).map fun s =>
          let raw := bits str (e + 4 * s.2) 4
          raw / 8 * 128 + s.1 * 8 + raw % 8, 8 * ((16 + plen + 63) / 64))
/-- n blocks from byte `off` of an image: their bytes, or the offset of the first bad block. -/
def zxBlocks (tables img : Nat) : Nat → Nat → List Nat × Option Nat
  | 0, _ => ([], none)
  | n + 1, off =>
    match zxBlock tables (img / 2 ^ (8 * off)) with
    | none => ([], some off)
    | some (bs, len) =>
      let r := zxBlocks tables img n (off + len)
      (bs ++ r.1, r.2)

/-- Bytes of a row of 256 elements (R264). -/
def rowBytes : Nat → Nat
  | 0 => 1024 | 1 => 512 | 2 => 512 | 5 => 192 | 6 => 192 | 7 => 128 | 9 => 128 | 10 => 64 | 11 => 32
  | 12 => 384 | 13 => 448 | _ => 256

/-- A block scale of a mode (R243): 01 E8M0, 10 UE4M3; none 1. A byte 0xFF of E8M0 and 0x7F of UE4M3 are NaN. -/
def scaleVal (mode byte : Nat) : FVal :=
  match mode with
  | 0 => .exact false 1 0
  | 1 => if byte = 255 then .nan false else .exact false 1 ((byte : Int) - 127)
  | _ => decodeF e4m3 (byte % 128)
/-- Scale bytes of a row of 256 elements under a mode (R265). -/
def scaleBytes : Nat → Nat
  | 0 => 0 | 1 => 8 | _ => 16

end Sys2Proof.Machine
end

