-- ==== Sys2Proof/Machine/NeuronTable.lean ====
section
/-! DEFINITION. The predictor's table in the scratchpad (spec/12 R229), and the bytes that a predictor instruction reads
and writes there (spec/12 R230, R231; spec/16 R311-R313), against which other accesses of its context keep their order
(spec/09 R164). -/

namespace Sys2Proof.Machine

/-- A table's layout after its header, in bytes (R229): the start of P, Q, Qu, c, n, c_u, and the end. -/
def tableP : Nat := 64
def tableQ (c : PredCfg) : Nat := 64 + c.r * c.d / 2
def tableQu (c : PredCfg) : Nat := tableQ c + c.dff * c.r / 2
def tableC (c : PredCfg) : Nat := tableQu c + (if c.gated then c.dff * c.r / 2 else 0)
def tableN (c : PredCfg) : Nat := tableC c + 4 * c.dff
def tableCu (c : PredCfg) : Nat := tableN c + 4 * c.dff
def tableEnd (c : PredCfg) : Nat := tableCu c + (if c.gated then 4 * c.dff else 0)
/-- The header of a table image (R229). -/
def headerN (h : Nat) : PredCfg :=
  { d := bits h 0 32, dff := bits h 32 32, r := bits h 64 8, gated := bitAt h 79, kind := bits h 72 7,
    sp := bits h 80 8, sq := bits h 88 8, squ := bits h 96 8, tfmt := bits h 104 8,
    tau := BitVec.ofNat 32 (bits h 128 32), image := 0 }
/-- A token format's code length (R229). -/
def tokSize (tfmt : Nat) : Nat := if tfmt = 2 then 4 else 2
/-- The length of an index vector (R312): COUNT and 16-bit entries, zero-padded to a multiple of 8 bytes. -/
def vectorLen (n : Nat) : Nat := 8 + (2 * n + 7) / 8 * 8

/-- The scratchpad bytes that a predictor instruction reads, and those that it may write, by the cluster's present
configuration; each from the first to the end of the last. -/
def npReads (s : State) (q : NReq) : Nat × Nat :=
  let clu := q.core / 8
  match q.instr, (cluAt s clu).pcfg with
  | .npcfg _, _ => (q.a, q.a + max 64 (tableEnd (headerN (readBytes (cluAt s clu).spm q.a 64))))
  | .npred _, some c => (bits q.a 0 23, bits q.a 0 23 + bits q.a 32 5 * (c.d * tokSize c.tfmt))
  | _, _ => (0, 0)
def npWrites (s : State) (q : NReq) : Nat × Nat :=
  match q.instr, (cluAt s (q.core / 8)).pcfg with
  | .npred _, some c => (q.b, q.b + vectorLen c.dff)
  | .ncheck _, some c => (q.a, q.a + vectorLen c.dff)
  | _, _ => (0, 0)
/-- Bytes of a part and of a predictor instruction of one context keep their order (R164): a byte that one of them
writes. -/
def npMeets (s : State) (q : NReq) (store : Bool) (va size : Nat) : Bool :=
  let meets (r : Nat × Nat) : Bool := decide (va < r.2 ∧ r.1 < va + size)
  meets (npWrites s q) || (store && meets (npReads s q))
/-- Predictor instructions that write the scratchpad (R230, R231). -/
def writesN : Instr → Bool
  | .npred _ | .ncheck _ => true
  | _ => false
/-- Predictor instructions of a context that are not served. -/
def predsLeft (s : State) (n k : Nat) : Bool :=
  !Config.isHome n && (cluAt s (n / 8)).npq.any fun q => q.core == n && q.ctx == k

end Sys2Proof.Machine
end

