-- ==== Sys2Proof/Machine/Caches.lean ====
section
/-! DEFINITION. What keeps memory coherent: home copies and L1 lines (spec/09 R153, R156, R159-R161), tokens
(spec/10 R177-R180), signatures (R181-R185), WS full bits (R186, R203), the region table (R187-R189), the
host-write buffer (R197, R203), frame records (spec/09 R174-R176), and cache actions of releases and
acquires (R165-R168). A line is named by a key: partition × 2^51 + line number. -/

namespace Sys2Proof.Machine

/-- The key of the line holding a virtual address. -/
def lineKey (p va : Nat) : Nat := p * 2 ^ 51 + bits va 6 51
def keyPart (k : Nat) : Nat := k / 2 ^ 51
/-- First virtual address of a key's line. -/
def keyVa (k : Nat) : Nat := k % 2 ^ 51 * 64
/-- The home slice of a key. -/
def keyHome (s : State) (k : Nat) : Nat := homeIn s (keyPart k) (keyVa k)

/-- n bytes of a line from byte `off`. -/
def lineGet (d : LineData) (off n : Nat) : Nat := bits d.toNat (8 * off) (8 * n)
def linePut (d : LineData) (off n v : Nat) : LineData := BitVec.ofNat 512 (putBits d.toNat (8 * off) (8 * n) v)
/-- The bytes of `new` that the mask marks, the others of `old` (R185). -/
def lineMerge (old new : LineData) (mask : BitVec 64) : LineData :=
  BitVec.ofNat 512 (pack 8 (fun k => if mask.getLsbD k then lineGet new k 1 else lineGet old k 1) 64)
/-- The mask of n bytes from byte `off`. -/
def byteMask (off n : Nat) : BitVec 64 := BitVec.ofNat 64 ((2 ^ n - 1) * 2 ^ off)

/-- Peer memory and host memory by physical address (R325). -/
def isPeer (pa : Nat) : Bool := bitAt pa 51
/-- The full bits of the dwords that n bytes from `off` touch. -/
def dwordMask (off n : Nat) : BitVec 8 :=
  BitVec.ofNat 8 (pack 1 (fun k => bit01 (decide (off / 8 ≤ k ∧ k ≤ (off + n - 1) / 8))) 8)

/-- The home copy of a line, if its slice holds one. -/
def homeLine (s : State) (k : Nat) : Option HomeLine := ffind (sliceAt s (keyHome s k)).lines k
def setHome (s : State) (k : Nat) (h : HomeLine) : State :=
  modSlice s (keyHome s k) fun x => { x with lines := fset x.lines k h }
def modHome (s : State) (k : Nat) (f : HomeLine → HomeLine) : State :=
  match homeLine s k with
  | some h => setHome s k (f h)
  | none => s
/-- The bytes at the home: a peer line's stay at the owning package (R198). -/
def homeBytes (s : State) (h : HomeLine) (off n : Nat) : Nat :=
  if isPeer h.pa then readBytes s.peerMem (h.pa + off) n else lineGet h.data off n
/-- Writes bytes of the home copy. -/
def putHome (s : State) (k : Nat) (off n v : Nat) : State :=
  match homeLine s k with
  | none => s
  | some h =>
    if isPeer h.pa then { s with peerMem := writeBytes s.peerMem (h.pa + off) n v }
    else setHome s k { h with data := linePut h.data off n v, dirty := true }
/-- Merges a writeback into the home copy by its mask (R185). -/
def mergeHome (s : State) (k : Nat) (data : LineData) (mask : BitVec 64) : State :=
  (List.range 64).foldl
    (fun s i => if mask.getLsbD i then putHome s k i 1 (lineGet data i 1) else s) s

/-- A line of a core's L1. -/
def l1Line (s : State) (core k : Nat) : Option L1Line := ffind (coreAt s core).l1 k
def setL1 (s : State) (core k : Nat) (l : L1Line) : State :=
  modCore s core fun c => { c with l1 := fset c.l1 k l }
def delL1 (s : State) (core k : Nat) : State := modCore s core fun c => { c with l1 := fdel c.l1 k }

/-- Types: 0 SC, 1 RC, 2 WS, 3 PV (R156). -/
def ctSC : BitVec 2 := 0
def ctRC : BitVec 2 := 1
def ctWS : BitVec 2 := 2
def ctPV : BitVec 2 := 3

/-- Writes back a line's dirty bytes and keeps it clean; SC lines write back only as owner (R177). -/
def cleanL1 (s : State) (core k : Nat) : State :=
  match l1Line s core k with
  | none => s
  | some l =>
    if l.dirty = 0 then s
    else setL1 (mergeHome s k l.data l.dirty) core k { l with dirty := 0 }

/-- A prefetch counter of a core counts one (R378): places 0 to 3 are the stride prefetcher's, 4 to 7 PREF's, 8 to
11 the copy engine's; in each, issued, on time, late, evicted unused. -/
def bump (s : State) (core i : Nat) : State :=
  modCore s core fun c => { c with counters := c.counters.set i (c.counters.getD i 0 + 1) }

/-- Drops a line from an L1: dirty bytes go home, SC tokens with them (R159, R177) (DEDUCED, log 27). -/
def dropL1 (s : State) (core k : Nat) : State :=
  match l1Line s core k with
  | none => s
  | some l =>
    let s := cleanL1 s core k
    let s := modHome s k fun h => { h with tok := h.tok + l.tok, owner := h.owner || l.owner }
    delL1 (match l.pref with | some b => bump s core (b + 3) | none => s) core k

/-- A line enters an L1 of 2 MiB and 16 ways (R2, R149): of a full set another line goes. Which one the spec leaves open
(DESIGN CHOICE, log 125). -/
def roomL1 (s : State) (core k : Nat) : State :=
  if (coreAt s core).l1.length < 16 then s
  else
    let l := (coreAt s core).l1.filter fun e => e.1 != k && Config.l1Set e.1 % 2048 == Config.l1Set k % 2048
    if l.length < 16 then s
    else
      let (v, s) := freeDword s
      match l[v.toNat % l.length]? with
      | some e => dropL1 s core e.1
      | none => s
def putL1 (s : State) (core k : Nat) (l : L1Line) : State := setL1 (roomL1 s core k) core k l
/-- Drops the lines of a core's L1 that a test selects. -/
def dropWhere (s : State) (core : Nat) (t : Nat → L1Line → Bool) : State :=
  (coreAt s core).l1.foldl (fun s e => if t e.1 e.2 then dropL1 s core e.1 else s) s
/-- Writes back the lines of a core's L1 that a test selects. -/
def cleanWhere (s : State) (core : Nat) (t : Nat → L1Line → Bool) : State :=
  (coreAt s core).l1.foldl (fun s e => if t e.1 e.2 then cleanL1 s core e.1 else s) s

/-- The cores whose L1 holds a line. -/
def holders (s : State) (k : Nat) : List Nat :=
  (s.cores.filter fun e => (ffind e.2.l1 k).isSome).map (·.1)
/-- Drops a line from every L1 (DEDUCED, log 36). -/
def recallAll (s : State) (k : Nat) : State := (holders s k).foldl (fun s n => dropL1 s n k) s

/-- A key lies wholly or partly in a range of a partition. -/
def keyIn (p lo hi k : Nat) : Bool :=
  keyPart k == p && decide (keyVa k < hi) && decide (lo < keyVa k + 64)

/-- Acquire over a range (R38): the core's lines that meet it are written back and dropped (DEDUCED, log 31). -/
def acquireRange (s : State) (core lo hi : Nat) : State :=
  dropWhere s core fun k _ => keyIn (partOf s core) lo hi k
/-- Acquire over all: every RC line is written back and dropped (R55, R168) (DEDUCED, log 31). -/
def acquireAll (s : State) (core : Nat) : State := dropWhere s core fun _ l => l.ct == ctRC
/-- Release over all: every dirty RC line of the core is written back (R166, R183). -/
def releaseAll (s : State) (core : Nat) : State := cleanWhere s core fun _ l => l.ct == ctRC

/-- The four bits of a block in a signature (R181). -/
def sigConst : Nat → Nat
  | 0 => 0x1A5 | 1 => 0x0C7 | 2 => 0x163 | _ => 0x0F1
def sigHash (b k : Nat) : Nat → Nat
  | 0 => 0
  | i + 1 => if bitAt b i then sigHash b k i ^^^ ((i + 1) * sigConst k % 512) else sigHash b k i
def sigBits (line : Nat) : BitVec 2048 :=
  BitVec.ofNat 2048 (2 ^ sigHash line 0 51 ||| 2 ^ (512 + sigHash line 1 51) |||
    2 ^ (1024 + sigHash line 2 51) ||| 2 ^ (1536 + sigHash line 3 51))
/-- R182: more than 1,024 bits become all ones. -/
def sigCap (g : BitVec 2048) : BitVec 2048 := if 1024 < popcount g.toNat 2048 then BitVec.allOnes 2048 else g
def sigOr (a b : BitVec 2048) : BitVec 2048 := sigCap (a ||| b)
/-- A line is named when its four bits are set (R181). -/
def sigNames (g : BitVec 2048) (line : Nat) : Bool := g &&& sigBits line == sigBits line

/-- The parties of a scope around a context of core a (R162): it includes those of core b. On a home core clus means
die. Scopes dev, fab and sys include every core of the package. -/
def scopeHas (scope a b : Nat) : Bool :=
  match scope with
  | 0 | 1 => a == b
  | 2 => if Config.isHome a then Config.dieOf a == Config.dieOf b else !Config.isHome b && a / 8 == b / 8
  | 3 => Config.dieOf a == Config.dieOf b
  | _ => true
/-- The accumulated signature that an acquire of a line by a core at a scope receives (R166, R184). What releases
added whose scope does not include the core, or which its own scope does not include, synchronises nothing: whether it
has it too is open (R165) (DEDUCED, log 122). -/
def sigRead (s : State) (k core scope : Nat) : BitVec 2048 × State :=
  match (sliceAt s (keyHome s k)).sigs.find? (·.line == k) with
  | some e =>
    let sure := e.src.filter fun x => scopeHas (x.1 % 8) (x.1 / 8) core && scopeHas scope core (x.1 / 8)
    if sure.length == e.src.length then (e.sig, s)
    else
      let (b, s) := freeBit s
      (if b then e.sig else sure.foldl (fun g x => sigOr g x.2) 0, s)
  | none => ((spAt s (keyHome s k) (keyPart k)).overflow, s)
/-- A release stores a signature with its line; the 129th of a slice moves the least recently released into
its partition's overflow signature (R183, R184). -/
def sigRelease (s : State) (k core scope : Nat) (g : BitVec 2048) : State :=
  let home := keyHome s k
  let x := (sliceAt s home).sigs
  let old : SigEntry := match x.find? (·.line == k) with | some e => e | none => { line := k, sig := 0 }
  let by_ := 8 * core + scope
  let y := { old with sig := sigOr old.sig g, src := fset old.src by_ (sigOr (fget 0 old.src by_) g) } :: x.filter fun e => !(e.line == k)
  let s := modSlice s home fun z => { z with sigs := y.take 128 }
  match y.drop 128 with
  | [] => s
  | e :: _ => modSP s home (keyPart e.line) fun z => { z with overflow := sigOr z.overflow e.sig }
/-- SIGCLR (R184). -/
def sigClear (s : State) (k : Nat) : State :=
  if (sliceAt s (keyHome s k)).sigs.any (·.line == k) then
    modSlice s (keyHome s k) fun z => { z with sigs := z.sigs.filter fun e => !(e.line == k) }
  else modSP s (keyHome s k) (keyPart k) fun z => { z with overflow := 0 }
/-- The cache action of an acquire with a signature: named RC lines are written back and dropped (R183). -/
def acquireSig (s : State) (core : Nat) (g : BitVec 2048) : State :=
  dropWhere s core fun k l => l.ct == ctRC && sigNames g (k % 2 ^ 51)
/-- A core's own signature takes a block that became dirty (R181, R182). -/
def noteDirty (s : State) (core k : Nat) : State :=
  modCore s core fun c => { c with sig := sigOr c.sig (sigBits (k % 2 ^ 51)) }

/-- The region entry of a cluster that covers a virtual address (R187). -/
def regionAt (s : State) (cluster va : Nat) : Option Region :=
  ((cluAt s cluster).regions.map (·.2)).find? fun r =>
    r.v && decide (r.base.toNat ≤ va / 4096 ∧ va / 4096 ≤ r.base.toNat + r.lenm1.toNat)
/-- R188: the cause a region refuses an access with, if any. `core` is the number within the cluster
(DEDUCED, log 35; DEDUCED, log 46). -/
def regionRefusal (r : Option Region) (core : Nat) (write : Bool) (ct : BitVec 2) : Option Nat :=
  let pv := ct == ctPV
  match r with
  | none => if pv then some 8 else none
  | some r =>
    match r.state.toNat with
    | 0 => if write then some 9 else if pv then some 8 else none
    | 1 => if r.core.toNat = core then none else if pv then some 8 else some 9
    | _ => if pv then some 8 else none
/-- The refusal of an access by a core to a page of a type (R157, R188) (DEDUCED, log 46). A home core's accesses are
checked against no table, its copies too, although the engine of another cluster makes them (DESIGN CHOICE, log 119).
-/
def coreRefusal (s : State) (core va : Nat) (write : Bool) (ct : BitVec 2) : Option Nat :=
  if Config.isHome core then (if ct == ctPV then some 8 else none)
  else regionRefusal (regionAt s (core / 8) va) (core % 8) write ct

/-- The frame record of a physical address (R174, R400). -/
def frameAt (s : State) (pa : Nat) : Frame := fget {} s.frames (pa / 4096)
def setFrame (s : State) (pa : Nat) (f : Frame) : State := { s with frames := fset s.frames (pa / 4096) f }

/-- The key under which a physical line of HBM is encrypted (R154). -/
def keyAt (l : List (Nat × Nat × BitVec 512)) (pa : Nat) : BitVec 512 :=
  match l.find? fun r => decide (r.1 ≤ pa ∧ pa < r.1 + r.2.1) with
  | some r => r.2.2
  | none => 0
/-- A line of HBM as a key decrypts it (R154, R398). -/
def hbmLine (s : State) (key : BitVec 512) (pa : Nat) : Nat :=
  let w := readBytes s.hbm pa 64
  let k := keyAt s.hbmKeys pa
  if k == key then w else Config.wrongKey k key (pa / 64) w
/-- Writes a home line back to its frame and forgets it (R174, R333, R363): a WS line whose eight words are
full seals its line; its full bits stay in the line's metadata. A poisoned frame's writeback is refused UNCORR (R400)
(DEDUCED, log 27). -/
def evictHome (s : State) (k : Nat) : State :=
  match homeLine s k with
  | none => s
  | some h =>
    let s := match h.eng with | some c => bump s (8 * c) 11 | none => s
    let s := match h.pref with | some n => bump s n 7 | none => s
    let s :=
      if isPeer h.pa || !h.dirty then s
      else if (frameAt s h.pa).poisoned then { s with refusedWb := s.refusedWb ++ [h.pa / 64] }
      else { s with hbm := writeBytes s.hbm h.pa 64 h.data.toNat }
    let s :=
      if h.ct == ctWS && !isPeer h.pa then
        let s := { s with wsMeta := fset s.wsMeta (h.pa / 64) h.full }
        (if h.full == 0xFF then
          let f := frameAt s h.pa
          setFrame s h.pa { f with sealed := f.sealed ||| BitVec.ofNat 64 (2 ^ (h.pa / 64 % 64)) }
         else s)
      else s
    modSlice s (keyHome s k) fun x => { x with lines := fdel x.lines k }

/-- What a fill can end in. -/
inductive Fill where
  | ok (s : State)
  | refuse (cause : Nat)
  | retry (line : Nat)
  /-- every way of the set is claimed or busy with a fill (R191) -/
  | busy
  deriving DecidableEq, Repr

/-- Lines of a slice in the set of a key (R191). -/
def setLines (s : State) (slice k : Nat) : List (Nat × HomeLine) :=
  (sliceAt s slice).lines.filter fun e => e.1 != k && Config.homeSet e.1 % 2048 == Config.homeSet k % 2048
/-- Ways of the set that wait for an HBM retry. -/
def busyWays (s : State) (slice k : Nat) : Nat :=
  ((s.accesses.filterMap fun a => match a.stage, a.pieces with
    | .hbm _, p :: _ => some (lineKey a.part p.va)
    | _, _ => none).eraseDups.filter fun j =>
      j != k && keyHome s j == slice && Config.homeSet j % 2048 == Config.homeSet k % 2048).length
/-- A line leaves a slice: with the copies that the L1s hold from its home, or as a stand-in's replica (R335). -/
def evictAt (s : State) (slice k : Nat) : State :=
  if keyHome s k == slice then evictHome (recallAll s k) k else modSlice s slice fun x => { x with lines := fdel x.lines k }
/-- A way for a line in a slice of 2 MiB and 16 ways (R149, R191): of a full set a line that no engine has claimed
goes; none where every other way is busy. Which line goes the spec leaves open (DESIGN CHOICE, log 125). -/
def makeRoom (s : State) (slice k : Nat) : Option State :=
  if (sliceAt s slice).lines.length + s.retries.length < 16 then some s
  else
    let l := setLines s slice k
    if l.length + busyWays s slice k < 16 then some s
    else
      let open_ := l.filter fun e => e.2.claim.isNone
      let (v, s) := freeDword s
      match open_[v.toNat % open_.length]? with
      | some e => some (evictAt s slice e.1)
      | none => none
/-- A line's fill through a writable mapping is refused ALIAS_TYPE (R175): another mapping owns the frame, and the
line is not sealed. -/
def ownedElsewhere (s : State) (k pa : Nat) (w : Bool) : Bool :=
  let f := frameAt s pa
  (homeLine s k).isNone && !isPeer pa && w && !f.sealed.getLsbD (pa / 64 % 64) && f.owner.isSome &&
  f.owner != some (keyPart k, keyVa k / 4096)
/-- A fill of a line at its home through a mapping (R174, R175, R186, R201, R400): another mapping's frame refuses
ALIAS_TYPE unless the mapping is read-only or the line is sealed, a line that waits for the one retry of an HBM error
waits, and a poisoned frame refuses UNCORR. `w` is the leaf's W, `ct` its type. -/
def fillHome (s : State) (k : Nat) (pa : Nat) (w : Bool) (ct : BitVec 2) : Fill :=
  match homeLine s k with
  | some _ => .ok s
  | none =>
    if ownedElsewhere s k pa w then .refuse 0x0B
    else if !isPeer pa && s.retries.contains (pa / 64) then .retry (pa / 64)
    else if !isPeer pa && (frameAt s pa).poisoned then .refuse 0x17
    else match makeRoom s (keyHome s k) k with
      | none => .busy
      | some s =>
        if isPeer pa then .ok (setHome s k { ct := ct, data := 0, pa := pa })
        else
          let f := frameAt s pa
          let s := if w && f.owner.isNone then setFrame s pa { f with owner := some (keyPart k, keyVa k / 4096) } else s
          let full : BitVec 8 := if f.sealed.getLsbD (pa / 64 % 64) then 0xFF else fget 0 s.wsMeta (pa / 64)
          .ok (setHome s k
            { ct := ct, data := BitVec.ofNat 512 (hbmLine s (partAt s (keyPart k)).memKey pa), full := full, pa := pa })

/-- The latest value of an SC line's bytes: the dirty owner's, else the home's (R158, R177). -/
def scPeek (s : State) (k off n : Nat) : Nat :=
  match (s.cores.filterMap fun e => ffind e.2.l1 k).find? fun l => l.owner && l.dirty != 0 with
  | some l => lineGet l.data off n
  | none => match homeLine s k with
    | some h => homeBytes s h off n
    | none => 0

/-- A write request's gather to the home: every token and the data (R178) (DEDUCED, log 29). -/
def gatherHome (s : State) (k : Nat) : State := recallAll s k
/-- A write request's gather to a core's L1: all 1,024 tokens (R177, R178) (DEDUCED, log 29). -/
def gatherCore (s : State) (core k : Nat) : State :=
  let s := recallAll s k
  match homeLine s k with
  | none => s
  | some h =>
    let s := setHome s k { h with tok := 0, owner := false }
    putL1 s core k { ct := h.ct, data := h.data, pa := h.pa, wr := true, tok := h.tok, owner := h.owner }
/-- The core whose L1 holds the owner token of a line. -/
def ownerOf (s : State) (k : Nat) : Option Nat :=
  (s.cores.find? fun e => match ffind e.2.l1 k with | some l => l.owner | none => false).map (·.1)
/-- A read request of a core (R178): the holder of the owner token answers with the data and a non-owner
token if it holds one, else with the owner token. -/
def gatherRead (s : State) (core k : Nat) : State :=
  match ownerOf s k with
  | some o =>
    match l1Line s o k with
    | none => s
    | some l =>
      if 1 < l.tok then
        let s := setL1 s o k { l with tok := l.tok - 1, wr := false }
        putL1 s core k { ct := l.ct, data := l.data, pa := l.pa, tok := 1 }
      else
        let s := delL1 s o k
        putL1 s core k { l with wr := false }
  | none =>
    match homeLine s k with
    | none => s
    | some h =>
      let last := decide (h.tok ≤ 1)
      let s := setHome s k { h with tok := h.tok - 1, owner := h.owner && !last }
      putL1 s core k { ct := h.ct, data := h.data, pa := h.pa, tok := 1, owner := h.owner && last }
/-- A read request of a home, or of an engine, which returns its token there once it has read (R177, R178): answered as
a core's is. -/
def gatherToken (s : State) (k : Nat) : State :=
  match ownerOf s k with
  | none => s
  | some o =>
    match l1Line s o k with
    | none => s
    | some l =>
      if 1 < l.tok then
        modHome (setL1 s o k { l with tok := l.tok - 1, wr := false }) k fun h => { h with tok := h.tok + 1 }
      else dropL1 s o k
/-- The tokens of an SC line that no L1 holds: at its home, or at the engine that has claimed it (R177, R190)
(DEDUCED, log 139). -/
def settleTokens (h : HomeLine) : HomeLine :=
  if h.ct == ctSC && h.claim.isSome then { h with tok := 0, owner := false } else { h with tok := 1024, owner := true }
/-- A copy engine has claimed the line (R190). -/
def lineClaimed (s : State) (k : Nat) : Bool := (homeLine s k).any (·.claim.isSome)

/-- Sends the lines of a slice's host-write buffer that a test selects to host memory, in order (R197). -/
def drainHost (s : State) (slice : Nat) (t : Nat → Bool) : State :=
  let b := (sliceAt s slice).hostbuf
  let s := { s with hostMem := (b.filter fun e => t e.addr).foldl (fun m e => bput m e.addr e.byte) s.hostMem }
  modSlice s slice fun x => { x with hostbuf := x.hostbuf.filter fun e => !t e.addr }
/-- Appends bytes to a list of buffered writes, lowest address first (DESIGN CHOICE, log 4). -/
def hostBytes (p a v : Nat) : Nat → List HostByte
  | 0 => []
  | n + 1 => { addr := a, byte := BitVec.ofNat 8 v, part := p } :: hostBytes p (a + 1) (v / 256) n
/-- Lines that a buffer holds. -/
def hostLines (b : List HostByte) : List Nat :=
  b.foldl (fun l e => if l.contains (e.addr / 64) then l else e.addr / 64 :: l) []
/-- A device store to a host page enters its home's buffer of 64 lines; a full buffer is sent first (R197,
R203). -/
def hostStore (s : State) (slice p a n v : Nat) : State :=
  let b := (sliceAt s slice).hostbuf
  let full := !(hostLines b).contains (a / 64) && decide (64 ≤ (hostLines b).length)
  let s := if full then drainHost s slice fun _ => true else s
  modSlice s slice fun x => { x with hostbuf := x.hostbuf ++ hostBytes p a v n }
/-- A device load of a host page reads behind the buffered writes it overlaps (R203). -/
def hostLoad (s : State) (slice a n : Nat) : State × Nat :=
  let s := drainHost s slice fun b => decide (a / 64 ≤ b / 64 ∧ b / 64 ≤ (a + n - 1) / 64)
  (s, readBytes s.hostMem a n)

end Sys2Proof.Machine
end

