-- ==== Sys2Proof/Machine/Translate.lean ====
section
/-! DEFINITION. Address translation at the home slices (spec/18 R322-R336, spec/17 R315-R318): translation
caches, walk caches, the walk, the table window, monitors, fault entries, the fault buffers and upcalls
(spec/19 R339, R340). -/

namespace Sys2Proof.Machine

/-- Virtual base of the table window and its physical base (R327). -/
def windowVa (p : Partition) : Nat := bits p.walkcfg.toNat 30 27 * 2 ^ 30
def windowPa (p : Partition) : Nat := bits p.ptroot.toNat 30 22 * 2 ^ 30
def inWindow (p : Partition) (va : Nat) : Bool := va / 2 ^ 30 == windowVa p / 2 ^ 30
/-- Software keeps the dirty bits (R329); the walker pool is on (R334). -/
def swd (p : Partition) : Bool := bitAt p.walkcfg.toNat 24
def pool (p : Partition) : Bool := bitAt p.walkcfg.toNat 25

/-- Frees the places in the fault buffers that a test selects (R340). -/
def freeRecs (s : State) (t : FaultRec → Bool) : State :=
  { s with dies := s.dies.map fun (e : Nat × Die) =>
    (e.1, { e.2 with faultbuf := e.2.faultbuf.map fun b =>
      (b.1, b.2.map fun o => match o with | some r => if t r then none else some r | none => none) }) }
/-- Fault entries that a test selects leave the translation caches. -/
def hideFaults (s : State) (t : Tlb → Bool) : State :=
  let keep (u : Tlb) : Bool := !(u.fault.isSome && t u)
  { s with slices := s.slices.map fun (e : Nat × Slice) =>
    (e.1, { e.2 with tlb1 := e.2.tlb1.filter keep, tlb2 := e.2.tlb2.filter keep }) }
/-- Drops the fault entries of a partition that meet a range, and frees their places in the fault buffers (R340). -/
def dropFaults (s : State) (p lo hi : Nat) : State :=
  freeRecs (hideFaults s fun u => u.part == p && decide (u.base < hi ∧ lo < u.base + u.size))
    fun r => r.part == p && decide (r.base < hi ∧ lo < r.base + r.size)
def isParked (a : Access) : Bool := match a.stage with | .parked _ _ _ _ => true | _ => false
def parkedOn (slice line : Nat) (a : Access) : Bool :=
  match a.stage with
  | .parked sl l _ _ => sl == slice && l == line
  | _ => false
/-- The type that an entry gives a page, while it is valid and not in transition (R171). -/
def noteType (s : State) (p wva e : Nat) : State :=
  if bitAt e 0 && !bitAt e 11 then modPart s p fun x => { x with ptypes := fset x.ptypes wva (BitVec.ofNat 2 (bits e 3 2)) }
  else s
def noteTypes (s : State) (p line : Nat) : State :=
  if inWindow (partAt s p) (64 * line) then
    (List.range 8).foldl (fun s i => noteType s p (64 * line + 8 * i) (scPeek s (lineKey p (64 * line)) (8 * i) 8)) s
  else s
/-- A write performed to a watched line fires its monitor: every access parked on it restarts (R330). -/
def fireMonitor (s : State) (p line : Nat) : State :=
  let s := noteTypes s p line
  let slice := homeIn s p (line * 64)
  if (sliceAt s slice).monitors.contains (p, line) then
    let s := modSlice s slice fun x => { x with monitors := x.monitors.filter fun m => !(m == (p, line)) }
    let s := hideFaults s fun u => u.part == p && (match u.fault with | some f => f.1 == line | none => false)
    let s := freeRecs s fun r => r.part == p && r.watch == line
    { s with accesses := s.accesses.map fun a =>
      if a.part == p && parkedOn slice line a then { a with stage := .ready } else a }
  else s
/-- Arms a monitor at the home of a window line; none is armed when all 64 watch other lines (R330). -/
def armMonitor (s : State) (p line : Nat) : State :=
  modSlice s (homeIn s p (line * 64)) fun x =>
    if x.monitors.contains (p, line) || decide (64 ≤ x.monitors.length) then x
    else { x with monitors := (p, line) :: x.monitors }

/-- Fills the window line of a table entry (R327: SC, writable, not duplicated), with a token to read it (R177). A line
that an engine has claimed is read once it is released (R190). -/
def fillWindow (s : State) (p va : Nat) : Fill :=
  let w := partAt s p
  let k := lineKey p va
  if lineClaimed s k then .busy
  else match fillHome s k (windowPa w + va % 2 ^ 30 / 64 * 64) true ctSC with
    | .ok s => .ok (gatherToken s k)
    | r => r
/-- Writes a dword of the window at its home: an SC write with all tokens, which fires a monitor of the
line. -/
def putWindow (s : State) (p va : Nat) (v : Nat) : State :=
  let k := lineKey p va
  fireMonitor (putHome (gatherHome s k) k (va % 64) 8 v) p (va / 64)

/-- Places of the translation caches (R315, R322): an entry enters both levels, or is marked used; the first keeps 64,
the second 8 in each of 256 sets selected by the page's base, and the least recently used goes, but no fault entry
behind which an access is parked. -/
def sameTlb (a b : Tlb) : Bool := a.part == b.part && a.base == b.base && a.size == b.size
def tlbSet (t : Tlb) : Nat := bits t.base 12 8
def pinned (s : State) (t : Tlb) : Bool :=
  match t.fault with
  | some f => s.accesses.any fun a => a.part == t.part && (match a.stage with | .parked _ l _ _ => l == f.1 | _ => false)
  | none => false
/-- The last entry that a test selects goes. -/
def dropLast (t : Tlb → Bool) (l : List Tlb) : List Tlb := (l.reverse.eraseP t).reverse
def tlbEnter (s : State) (slice : Nat) (t : Tlb) : State :=
  modSlice s slice fun x =>
    let a := t :: x.tlb1.filter fun u => !sameTlb u t
    let b := t :: x.tlb2.filter fun u => !sameTlb u t
    let mates (u : Tlb) : Bool := tlbSet u == tlbSet t
    { x with
      tlb1 := if a.length ≤ 64 then a else dropLast (fun u => !pinned s u) a
      tlb2 := if (b.filter mates).length ≤ 8 then b else dropLast (fun u => mates u && !pinned s u) b }
def tlbHit (p va : Nat) (t : Tlb) : Bool := t.part == p && decide (t.base ≤ va ∧ va < t.base + t.size)
/-- The entry of an address at a slice: a translation, or a fault entry. -/
def tlbLook (s : State) (slice p va : Nat) (fault : Bool) : Option Tlb :=
  let hit (t : Tlb) : Bool := t.fault.isSome == fault && tlbHit p va t
  match (sliceAt s slice).tlb1.find? hit with
  | some t => some t
  | none => (sliceAt s slice).tlb2.find? hit
def tlbFind (s : State) (slice p va : Nat) : Option Tlb := tlbLook s slice p va false

/-- What translation ends in: a leaf, a refusal (cause, level), a park on a window line (cause of R339 or 0,
level), a wait for an HBM retry of a table line or for a way of its set (R191) with the place where the walk goes on, or
the need of a walk. -/
inductive Trans where
  | ok (s : State) (t : Tlb)
  | refuse (s : State) (cause sub : Nat)
  | park (s : State) (line cause level : Nat)
  | retry (s : State) (line : Nat) (goOn : Option (Nat × Nat))
  | busy (s : State) (goOn : Option (Nat × Nat))
  | needWalk (s : State)
  deriving DecidableEq, Repr

/-- The walk cache a slice uses: its own 64 entries, or its die's 256 while POOL = 1 (R316, R334, R406). -/
def walkList (s : State) (slice p : Nat) : List WalkEntry :=
  if pool (partAt s p) then (dieAt s (slice / 64)).poolWalks else (sliceAt s slice).walks
def setWalkList (s : State) (slice p : Nat) (l : List WalkEntry) : State :=
  if pool (partAt s p) then modDie s (slice / 64) fun d => { d with poolWalks := l.take 256 }
  else modSlice s slice fun x => { x with walks := l.take 64 }
def walkTag (va k : Nat) : Nat := bits va (12 + 9 * k) (45 - 9 * k)
def walkMatch (p va k : Nat) (e : WalkEntry) : Bool := e.part == p && e.level == k && e.tag == walkTag va k
/-- The lowest level whose entry matches (R316). -/
def walkStart (s : State) (slice p va : Nat) : List Nat → Option WalkEntry
  | [] => none
  | k :: ks => match (walkList s slice p).find? (walkMatch p va k) with
    | some e => some e
    | none => walkStart s slice p va ks
def walkEnter (s : State) (slice : Nat) (e : WalkEntry) : State :=
  setWalkList s slice e.part
    (e :: (walkList s slice e.part).filter fun x => !(x.part == e.part && x.level == e.level && x.tag == e.tag))

/-- A physical address granted to a partition (R325, R390). -/
def granted (p : Partition) (pa : Nat) : Bool :=
  p.granted.any fun r => decide (r.1 ≤ pa ∧ pa < r.1 + r.2)
/-- R325: a leaf is refused PROT. -/
def leafRefused (p : Partition) (pa : Nat) (ct : BitVec 2) (hw dup : Bool) : Bool :=
  let scpv := ct == ctSC || ct == ctPV
  if hw then scpv || dup
  else if isPeer pa then scpv || dup
  else decide (2 ^ 39 ≤ pa) || !granted p pa || (dup && (ct == ctWS || ct == ctPV))

/-- One walk (R328): `fuel` bounds the levels left. The entry is read at its window home as the SC order
stands; A and D are set by a compare-and-swap that cannot fail here, since the read and the swap are one
step (R329); a host's write to a duplicated page is refused (R335) (DEDUCED, log 69). -/
def walkFrom (slice p va : Nat) (write host : Bool) : Nat → State → Nat → Nat → Trans
  | 0, s, _, _ => .refuse s 7 0
  | fuel + 1, s, lvl, table =>
    let w := partAt s p
    let ea := table + 8 * bits va (12 + 9 * lvl) 9
    let wva := windowVa w + ea % 2 ^ 30
    match fillWindow s p wva with
    | .refuse c => .refuse s c 0
    | .retry l => .retry s l (some (lvl, table))
    | .busy => .busy s (some (lvl, table))
    | .ok s =>
      let e := scPeek s (lineKey p wva) (wva % 64) 8
      let leaf := lvl = 0 || (lvl < 3 && bitAt e 2)
      if bits e 52 12 != 0 || bitAt e 10 || (!leaf && bitAt e 11)
      then .refuse s 0x18 lvl
      else if !bitAt e 0 then .park (armMonitor s p (wva / 64)) (wva / 64) 1 lvl
      else if lvl ≥ 3 && bitAt e 2 then .refuse s 7 0
      else if !leaf then
        if bits e 30 22 != bits w.ptroot.toNat 30 22 then .refuse s 7 0
        else
          let t := bits e 12 40 * 4096
          walkFrom slice p va write host fuel
            (walkEnter s slice { part := p, level := lvl, tag := walkTag va lvl, table := t }) (lvl - 1) t
      else if bitAt e 11 then .park (armMonitor s p (wva / 64)) (wva / 64) 0 lvl
      else
        let size := 2 ^ (12 + 9 * lvl) * (if bitAt e 5 then 16 else 1)
        let frame := bits e 12 40 * 4096 / size * size
        let ct : BitVec 2 := BitVec.ofNat 2 (bits e 3 2)
        let hw := bitAt e 8
        let dup := bitAt e 9
        if leafRefused w (frame + va % size) ct hw dup then .refuse s 7 0
        else if write && dup then
          (if host then .refuse s 7 0 else .park (armMonitor s p (wva / 64)) (wva / 64) 3 lvl)
        else if write && !bitAt e 1 then .refuse s 7 0
        else if write && !bitAt e 7 && swd w then .park (armMonitor s p (wva / 64)) (wva / 64) 2 lvl
        else
          let setD := write && !bitAt e 7
          let new := e ||| 64 ||| (bit01 setD * 128)
          let s := if !bitAt e 6 || setD then putWindow s p wva new else s
          let t : Tlb :=
            { part := p, base := va / size * size, size := size, frame := frame, w := bitAt e 1,
              d := bitAt e 7 || setD, ct := ct, hw := hw, dup := dup, pte := wva, leaf := new }
          .ok (tlbEnter (noteType s p wva new) slice t) t

/-- A walk for an access at its home slice (R316, R328), from its beginning, or from where an HBM retry or a busy set
stopped it. -/
def walk (s : State) (slice p va : Nat) (write host : Bool) (goOn : Option (Nat × Nat)) : Trans :=
  match goOn with
  | some (lvl, table) => walkFrom slice p va write host 5 s lvl table
  | none =>
    match walkStart s slice p va [1, 2, 3, 4] with
    | some e => walkFrom slice p va write host 5 (walkEnter s slice e) (e.level - 1) e.table
    | none => walkFrom slice p va write host 5 s 4 (bits (partAt s p).ptroot.toNat 12 40 * 4096)
/-- The first write through an entry with D = 0 (R329): a compare-and-swap on its leaf, which expects the value entered,
sets D; where it fails the access walks from the beginning, and where software keeps the dirty bits it parks. -/
def firstWrite (s : State) (slice p : Nat) (t : Tlb) : Trans :=
  match fillWindow s p t.pte with
  | .refuse c => .refuse s c 0
  | .retry l => .retry s l none
  | .busy => .busy s none
  | .ok s =>
    if scPeek s (lineKey p t.pte) (t.pte % 64) 8 != t.leaf then .needWalk s
    else if swd (partAt s p) then
      .park (armMonitor s p (t.pte / 64)) (t.pte / 64) 2 ((ilog2 t.size - 12) / 9)
    else
      let u : Tlb := { t with d := true, leaf := t.leaf ||| 128 }
      .ok (tlbEnter (putWindow s p t.pte u.leaf) slice u) u

/-- Translate of R10 at a slice: the window, a translation, a fault entry, behind which the access parks without a walk,
or a walk. A hit on a read-only leaf refuses a write, and one on a duplicated page parks it, or refuses the host's
(R335, R336). -/
def translate (s : State) (slice p va : Nat) (write host : Bool) : Trans :=
  let w := partAt s p
  if inWindow w va then
    .ok s { part := p, base := windowVa w, size := 2 ^ 30, frame := windowPa w, w := true, d := true,
            ct := ctSC, hw := false, dup := false, pte := 0 }
  else
    match tlbFind s slice p va with
    | some t =>
      if write && t.dup then (if host then .refuse s 7 0 else .needWalk s)
      else if write && !t.w then .refuse s 7 0
      else if write && !t.d then firstWrite s slice p t
      else .ok (tlbEnter s slice t) t
    | none =>
      match (tlbLook s slice p va true).bind fun t => t.fault with
      | some f => .park s f.1 1 f.2
      | none => .needWalk s

/-- Offers a record to a die's fault buffer (R340): the entry taken, if one is, and the dropped flag. -/
def freeSlot : List (Option FaultRec) → Nat → Option Nat
  | [], _ => none
  | none :: _, i => some i
  | some _ :: l, i => freeSlot l (i + 1)
def offerFault (s : State) (die p base size watch : Nat) : State × Option Nat :=
  let b := fget (List.replicate 8 none) (dieAt s die).faultbuf p
  if b.any fun o => match o with | some r => r.base == base && r.size == size | none => false then (s, none)
  else match freeSlot b 0 with
    | none => (modDie s die fun d => { d with dropped := fset d.dropped p true }, none)
    | some i =>
      (modDie s die fun d => { d with faultbuf := fset d.faultbuf p (b.set i (some { part := p, base := base, size := size, watch := watch })) },
       some i)

/-- Queues an upcall on a core whose UPCVEC is enabled (R338, R339) (DEDUCED, log 71). -/
def queueUpcall (s : State) (core : Nat) (u : Upcall) : State :=
  if (coreAt s core).upcvec.getLsbD 63 then modCore s core fun c => { c with upcalls := c.upcalls ++ [u] } else s
/-- The info word of R339 (DEDUCED, log 71). -/
def infoWord (cause ctx level : Nat) (host : Bool) (rec : Option Nat) (drop : Bool) : Nat :=
  cause + ctx * 2 ^ 8 + level * 2 ^ 16 + bit01 host * 2 ^ 19 +
    (match rec with | some e => 2 ^ 20 + e * 2 ^ 24 | none => 0) + bit01 drop * 2 ^ 21

/-- Parks an access at one of its parts (R330, R339, R340, R404). Fresh, the part has just left its core, or was
presented again, or found another cause; only then does it offer a record and queue an upcall. `walked`: its own walk
found V = 0 (DEDUCED, log 100). A host request offers its record to the base camp's die also where it parks behind a fault
entry, and its upcall names the address of its header (R404). -/
def parkAccess (s : State) (a : Access) (line cause level : Nat) (walked : Bool) (p : Piece) : State × Access :=
  let slice := homeIn s a.part (line * 64)
  let size := 2 ^ (12 + 9 * level)
  let base := p.va / size * size
  let fe : Tlb := { part := a.part, base := base, size := size, frame := 0, w := false, d := false, ct := 0, hw := false,
                    dup := false, pte := 0, fault := some (line, level) }
  let s := if walked && cause == 1 then tlbEnter s (homeIn s a.part p.va) fe else s
  let fresh := cause != 0 && ffind a.reported p.pos != some cause
  let where_ := if a.host then baseCamp s a.part else a.core
  let die := Config.dieOf where_
  let a' := { a with
    stage := .parked slice line cause level, reported := fset a.reported p.pos cause, checked := false
    again := if a.again == some p.pos then none else a.again }
  if fresh then
    let (s, rec) := if cause == 1 && (walked || a.host) || a.host && cause == 2 then offerFault s die a.part base size line else (s, none)
    let drop := fget false (dieAt s die).dropped a.part
    let info := infoWord cause (if a.host then 0 else a.ctx) (if cause == 1 then level else 0) a.host rec drop
    let cls := if a.host then 0 else (ctxAt s a.core a.ctx).base
    (queueUpcall s where_ { va := dn (if a.host then p.va - p.pos else p.va), info := dn info, pc := if a.host then 0 else a.pc, cls := cls }, a')
  else (s, a')

/-- The address of the part that an access performs next. -/
def headVa (a : Access) : Nat := match a.pieces with | p :: _ => p.va | [] => 0
/-- The walkers that an access's walk needs (R322, R334): its slice's 8, or its die's 32 under POOL; whether another
access takes its walk from the same. -/
def walkSlice (s : State) (a : Access) : Nat := match a.stage with | .walk x => x | _ => homeIn s a.part (headVa a)
def sameWalkers (s : State) (a b : Access) : Bool :=
  pool (partAt s a.part) == pool (partAt s b.part) &&
  if pool (partAt s a.part) then walkSlice s a / 64 == walkSlice s b / 64 else walkSlice s a == walkSlice s b
def waitsWalk (a : Access) : Bool := match a.stage with | .walk _ => true | _ => false
/-- Its walk runs, and waits for a line of a table. -/
def inWalk (a : Access) : Bool := match a.stage with | .table _ (some _) | .walkWay _ (some _) => true | _ => false
/-- A walk for its granule runs: the access waits for it (R322). -/
def walkRuns (s : State) (a : Access) : Bool :=
  s.accesses.any fun b => inWalk b && b.part == a.part && headVa b / 4096 == headVa a / 4096
/-- A walker is free for the access, after those that came before it (R322, R334). -/
def walkable (s : State) (a : Access) : Bool :=
  let ahead (b : Access) : Bool :=
    waitsWalk b && !walkRuns s b && decide (b.came < a.came ∨ (b.came = a.came ∧ b.id < a.id))
  !walkRuns s a &&
  decide ((s.accesses.filter fun b => sameWalkers s a b && (inWalk b || ahead b)).length <
    if pool (partAt s a.part) then 32 else 8)
/-- A walker is free for an address that comes to walk now, behind all that wait (R322, R334). -/
def walkerFree (s : State) (p va : Nat) : Bool :=
  walkable s { id := s.accessId, kind := .hostRead, core := 0, ctx := 0, part := p, pc := 0, word := 0, came := s.cycle,
               pieces := [{ va := va, size := 1, pos := 0, write := false }] }

end Sys2Proof.Machine
end

