-- ==== Sys2Proof/Machine/Perform.lean ====
section
/-! DEFINITION. One part of a virtual access performed at its home or in an L1 (spec/11 R201-R211, spec/09
R157-R161, spec/10 R177, R183-R188, R197, R198, R203). -/

namespace Sys2Proof.Machine

/-- What performing a part ends in: done (the value read, the page's type, the signature an acquire receives),
a stall in a stage, or a refusal. -/
inductive PRes where
  | done (s : State) (v : Nat) (ct : BitVec 2)
  | stall (s : State) (st : Stage)
  | park (s : State) (line cause level : Nat) (walked : Bool)
  | refuse (s : State) (cause sub : Nat)
  /-- a refusal whose destination still receives a value (R211) -/
  | refuseVal (s : State) (cause sub v : Nat)
  deriving DecidableEq, Repr

/-- How far an access may go now: `home` lets it reach its home, `walk` lets it walk (PAGE_WALK), `grant` lets it
gather tokens, `hold` keeps an SC part behind earlier accesses of its context (R167); `active` is the persistent request
being served (R179), `goOn` where a walk goes on that a table's line stopped (R316), `bank` a grant of its bank (R152),
`pref` a prefetch, which is no demand (R378). -/
structure Go where
  home  : Bool := true
  walk  : Bool := false
  grant : Bool := false
  hold  : Bool := false
  tries : Nat := 0
  since : Option Nat := none
  active : Bool := false
  goOn  : Option (Nat × Nat) := none
  bank  : Bool := false
  pref  : Bool := false
  deriving DecidableEq, Repr

/-- Where an access is located: its slice and leaf. -/
inductive Loc where
  | ok (s : State) (slice : Nat) (t : Tlb)
  | no (r : PRes)
  deriving DecidableEq, Repr

/-- The core an access comes from is a far core. -/
def isFar (a : Access) : Bool := !a.host && !Config.isHome a.core
/-- The die from which an access reaches the homes. -/
def fromDie (s : State) (a : Access) : Nat := if a.host then (homeIn s a.part 0) / 64 else Config.dieOf a.core

/-- The rows of a copy (R220): destination and source addresses (DEDUCED, log 38). -/
def copyRowsOf (c : Copy) : List (Nat × Nat) :=
  (List.range c.rows).map fun i => ((dn c.dst + dn i * c.dstride).toNat, (dn c.src + dn i * c.sstride).toNat)
/-- n bytes cut at the line boundaries of the destination, or of the source where the destination is local: destination,
source, size (R190, R194). -/
def cutLines (virt : Bool) : Nat → Nat → Nat → Nat → List (Nat × Nat × Nat)
  | 0, _, _, _ => []
  | fuel + 1, dst, src, n =>
    if n = 0 then []
    else
      let k := min n (64 - (if virt then dst else src) % 64)
      (dst, src, k) :: cutLines virt fuel (dst + k) (src + k) (n - k)
/-- Places a piece before those of higher lines. -/
def putPiece (x : Nat × Nat × Nat) : List (Nat × Nat × Nat) → List (Nat × Nat × Nat)
  | [] => [x]
  | y :: l => if x.1 / 64 ≤ y.1 / 64 then x :: y :: l else y :: putPiece x l
/-- The pieces of a copy in ascending order of destination line (R222) (DEDUCED, log 38). -/
def copyPieces (c : Copy) : List (Nat × Nat × Nat) :=
  (((copyRowsOf c).map fun r => cutLines (c.sp == 0) (c.len / 64 + 2) r.1 r.2 c.len).flatten).foldr putPiece []
def copyLeft (c : Copy) : List (Nat × Nat × Nat) := (copyPieces c).drop c.done
def findCopy (s : State) (id : Nat) : Option Copy :=
  s.clusters.findSome? fun e => e.2.copies.find? fun c => c.id == id
/-- A line that a registered copy has still to write (R190) (DEDUCED, log 36). -/
def copyHolds (s : State) (slice p va : Nat) : Bool :=
  (sliceAt s slice).ranges.any fun r =>
    r.2.1 == p && decide (r.2.2.1 / 64 ≤ va / 64 ∧ va / 64 * 64 < r.2.2.2) &&
    match findCopy s r.1 with
    | some c => (copyLeft c).any fun x => x.1 / 64 == va / 64
    | none => false
/-- A thread's access, which a registered range holds (R190); the engines' and the host's are not. -/
def byThread (a : Access) : Bool := !a.host && (match a.kind with | .copy _ => false | _ => true)

/-- Translation of one address for an access (R201, R315, R328, R335): a stand-in slice on the accessing die serves a
duplicated page it holds; then the region check (R188). A page in transition parks what has not passed before (R170).
A store that has passed keeps its leaf (R202) (DEDUCED, log 35). -/
def locate (s : State) (g : Go) (a : Access) (va : Nat) (write : Bool) : Loc :=
  if !g.home then .no (.stall s .ready)
  else match a.loc with
  | some (slice, t) => if t.ct != ctRC && copyHolds s slice a.part va then .no (.stall s (.claimed slice)) else .ok s slice t
  | none =>
  let moving (t : Transit) : Bool := !a.checked && decide (t.base ≤ va ∧ va < t.base + t.size)
  match (partAt s a.part).transit.find? moving with
  | some t => .no (.park (armMonitor s a.part (t.leaf.va / 64)) (t.leaf.va / 64) 0 t.leaf.level false)
  | none =>
  let home := homeIn s a.part va
  let near := fromDie s a * 64 + home % 64
  let dupNear : Option Tlb :=
    if a.host || write || near = home then none
    else match tlbFind s near a.part va with
      | some t => if t.dup then some t else none
      | none => none
  let refusal (s : State) (t : Tlb) : Option Nat :=
    if a.checked then none
    else if a.host then (if t.ct == ctPV then some 8 else none)
    else coreRefusal s a.core va write t.ct
  match dupNear with
  | some t => (match refusal s t with
    | some c => .no (.refuse s c 0)
    | none => .ok (tlbEnter s near t) near t)
  | none =>
    let walked (s : State) : Trans := if g.walk then walk s home a.part va write a.host g.goOn else .needWalk s
    let r := match translate s home a.part va write a.host with
      | .needWalk s => (walked s, true)
      | r => (r, false)
    match r.1 with
    | .needWalk s => .no (.stall s (.walk home))
    | .refuse s c sub => .no (.refuse s c sub)
    | .park s l c lv => .no (.park s l c lv r.2)
    | .retry s l on => .no (.stall s (.table l on))
    | .busy s on => .no (.stall s (.walkWay home on))
    | .ok s t =>
      let s := if t.dup && !a.host then tlbEnter s near t else s
      match refusal s t with
      | some c => .no (.refuse s c 0)
      | none =>
        if byThread a && t.ct != ctRC && copyHolds s home a.part va then .no (.stall s (.claimed home))
        else .ok s (if t.dup && !a.host then near else home) t

/-- Physical address of a leaf's byte; a duplicated page names the replica of a die (R335). -/
def leafPa (t : Tlb) (die va : Nat) : Nat := t.frame + (if t.dup then die * t.size else 0) + va % t.size

/-- WS readers waiting on a line restart when a word of it is set (R186). -/
def wakeWord (s : State) (k : Nat) : State :=
  { s with accesses := s.accesses.map fun a =>
    match a.stage with
    | .word _ => if a.pieces.any fun p => lineKey a.part p.va == k then { a with stage := .ready } else a
    | _ => a }

/-- The full bits of a WS line: at its slice, at the slice's host-page area, or at a peer (R186, R198, R203)
(DEDUCED, log 48). -/
def wsFull (s : State) (slice k : Nat) (t : Tlb) (va : Nat) : BitVec 8 :=
  if t.hw then fget 0 (sliceAt s slice).hwfull k
  else if isPeer (leafPa t 0 va) then fget 0 s.peerFull (leafPa t 0 va / 64)
  else match homeLine s k with | some h => h.full | none => 0
/-- (DEDUCED, log 48) -/
def setWsFull (s : State) (slice k : Nat) (t : Tlb) (va : Nat) (b : BitVec 8) : State :=
  if t.hw then modSlice s slice fun x => { x with hwfull := fset x.hwfull k b }
  else if isPeer (leafPa t 0 va) then { s with peerFull := fset s.peerFull (leafPa t 0 va / 64) b }
  else modHome s k fun h => { h with full := b }
/-- The full bits of a WS line as they stand, whether or not its slice holds the line (R186, R201). -/
def wsStands (s : State) (slice k : Nat) (t : Tlb) (va : Nat) : BitVec 8 :=
  let pa := leafPa t 0 va
  if t.hw || isPeer pa || (homeLine s k).isSome then wsFull s slice k t va
  else if (frameAt s pa).sealed.getLsbD (pa / 64 % 64) then 0xFF else fget 0 s.wsMeta (pa / 64)
/-- A WS access of a host page needs a place in the 1 MiB full-bit area of its partition at the slice (R203). -/
def hwAreaFull (s : State) (slice k : Nat) : Bool :=
  let m := (sliceAt s slice).hwfull
  (ffind m k).isNone && decide (2 ^ 20 ≤ m.length) && decide (2 ^ 20 ≤ (m.filter fun e => keyPart e.1 == keyPart k).length)

/-- A write in an L1 line (R159, R177): the dirty bytes are marked, a block that becomes dirty on an RC page
enters the signature, and a write to a watched window line fires its monitor. -/
def writeL1 (s : State) (core k off n v : Nat) : State :=
  match l1Line s core k with
  | none => s
  | some l =>
    let s := if l.ct == ctRC && l.dirty == 0 then noteDirty s core k else s
    let s := setL1 s core k { l with data := linePut l.data off n v, dirty := l.dirty ||| byteMask off n }
    if l.ct == ctSC then fireMonitor s (keyPart k) (k % 2 ^ 51) else s
/-- Ensures an L1 line filled from the home copy, with write permission if asked (DEDUCED, log 28). -/
def installL1 (s : State) (core k : Nat) (h : HomeLine) (wr : Bool) : State :=
  match l1Line s core k with
  | some l => setL1 s core k { l with wr := l.wr || wr }
  | none => putL1 s core k { ct := h.ct, data := BitVec.ofNat 512 (homeBytes s h 0 64), pa := h.pa, wr := wr }

/-- The access is a demand of a core: no prefetch, no engine's and no host's (R378). -/
def demands (g : Go) (a : Access) : Bool := !g.pref && !a.host && (match a.kind with | .copy _ => false | _ => true)
/-- An access uses a line that a prefetch requested, or that a copy engine filled (R378). -/
def usedL1 (s : State) (core k : Nat) (l : L1Line) : State :=
  match l.pref with
  | some b => setL1 (bump s core (b + 1)) core k { l with pref := none }
  | none => s
def usedHome (s : State) (g : Go) (a : Access) (k : Nat) : State :=
  match homeLine s k with
  | some h =>
    let mine := !isFar a && h.pref == some a.core
    if !demands g a || (h.eng.isNone && !mine) then s
    else
      let s := match h.eng with | some c => bump s (8 * c) 9 | none => s
      setHome (if mine then bump s a.core 5 else s) k { h with eng := none, pref := if mine then none else h.pref }
  | none => s

/-- Another access's persistent request for the line stands: no transient request is answered (R179, R180). -/
def barred (s : State) (k : Nat) : Bool :=
  s.accesses.any fun b => (match b.stage, b.pieces with
    | .token _ (some _), p :: _ => lineKey b.part p.va == k
    | _, _ => false)
/-- An access may gather its tokens, which an engine that has claimed the line keeps (R190), or use those that a home
holds. -/
def mayGather (s : State) (g : Go) (k : Nat) : Bool := g.grant && !lineClaimed s k && (g.active || !barred s k)
def mayHome (s : State) (g : Go) (k : Nat) : Bool := g.active || !barred s k
/-- An access is refused because another mapping owns its frame, before the rules of its page's type (R175, R201). -/
def ownerRefusal (s : State) (k va : Nat) (t : Tlb) : Bool :=
  !t.hw && ownedElsewhere s k (leafPa t 0 va / 64 * 64) t.w
/-- A demand finds a line that its core's prefetcher, or an engine, has asked for and that has not yet come (R378). -/
def lateL1 (s : State) (core k : Nat) : State :=
  match ffind (coreAt s core).inflight k with
  | some b => modCore (bump s core (b + 2)) core fun c => { c with inflight := fdel c.inflight k }
  | none => s
def demandL1 (s : State) (core k : Nat) : State :=
  match l1Line s core k with
  | some l => usedL1 s core k l
  | none => lateL1 s core k
/-- A demand at a far core's L1, or, of a home core, at its slice (R378). -/
def demand (s : State) (g : Go) (a : Access) (k : Nat) : State :=
  if !demands g a then s
  else if isFar a then demandL1 s a.core k
  else if (homeLine s k).isNone then lateL1 s a.core k
  else s
def lateEngine (s : State) (line : Nat) : State :=
  match s.accesses.find? fun a => a.stage == .hbm line && (match a.kind with | .copy _ => true | _ => false) with
  | some a => bump s (8 * clusterFor s a.core) 10
  | none => s
/-- A fill of the line of a located access (R174, R191, R400). -/
def filled (s : State) (g : Go) (a : Access) (slice k va : Nat) (t : Tlb) : Loc :=
  match fillHome (usedHome s g a k) k (leafPa t 0 va / 64 * 64) t.w t.ct with
  | .refuse c => .no (.refuse s c 0)
  | .retry l => .no (.stall (if demands g a then lateEngine s l else s) (.hbm l))
  | .busy => .no (.stall s .way)
  | .ok s => .ok s slice t
/-- The fill, then a continuation on the home copy. -/
def withLine (s : State) (g : Go) (a : Access) (k va : Nat) (t : Tlb) (f : State → HomeLine → PRes) : PRes :=
  match filled s g a 0 k va t with
  | .no r => r
  | .ok s _ _ => match homeLine s k with
    | some h => f s h
    | none => .refuse s 0x17 0
/-- An SC read by a home, or by an engine (R177, R178): while its home holds the owner token, or with a token of the
holder's. -/
def tokenRead (s : State) (g : Go) (k off n : Nat) : PRes :=
  if ((homeLine s k).any (·.owner) && mayHome s g k) || mayGather s g k then
    let s := if g.active then gatherHome s k else gatherToken s k
    .done s (scPeek s k off n) ctSC
  else .stall s (.token g.tries g.since)

/-- The read of a duplicated page at a slice: that die's replica, with no tokens (R335). A line that the slice holds is
read there (R400). -/
def dupRead (s : State) (a : Access) (slice k va n : Nat) (t : Tlb) : PRes :=
  let pa := leafPa t (slice / 64) va
  let keep (s : State) (data : LineData) : PRes :=
    let s := if isFar a then putL1 s a.core k { ct := t.ct, data := data, pa := pa / 64 * 64 } else s
    .done s (lineGet data (va % 64) n) t.ct
  match ffind (sliceAt s slice).lines k with
  | some h => keep s h.data
  | none =>
    if s.retries.contains (pa / 64) then .stall s (.hbm (pa / 64))
    else if (frameAt s pa).poisoned then .refuse s 0x17 0
    else
      let data : LineData := BitVec.ofNat 512 (hbmLine s (partAt s a.part).memKey (pa / 64 * 64))
      match makeRoom s slice k with
      | none => .stall s .way
      | some s =>
        keep (modSlice s slice fun x =>
          { x with lines := fset x.lines k { ct := t.ct, data := data, pa := pa / 64 * 64, tok := 0, owner := false } }) data

/-- A read of n bytes (R157). `nw` refuses an empty WS word; `acq` reads an RC line at its home and overlays
the core's own unwritten bytes (R159) (DEDUCED, log 28; DEDUCED, log 49). -/
def performRead (s : State) (g : Go) (a : Access) (va n : Nat) (nw acq : Bool) : PRes :=
  let k := lineKey a.part va
  let off := va % 64
  let hit : Option L1Line :=
    if isFar a then
      match l1Line s a.core k with
      | some l => if acq && l.ct == ctRC then none else some l
      | none => none
    else none
  match hit with
  | some l =>
    if l.ct == ctSC && 0 < l.tok && g.hold then .stall s .held
    else .done (demand s g a k) (lineGet l.data off n) l.ct
  | none =>
    let s := demand s g a k
    match locate s g a va false with
    | .no r => r
    | .ok s slice t =>
      if t.dup then dupRead s a slice k va n t
      else if t.hw then
        if t.ct == ctWS && wsFull s slice k t va &&& dwordMask off n != dwordMask off n then
          (if nw then .refuse s 2 0 else .stall s (.word slice))
        else
          let (s, v) := hostLoad s slice (leafPa t 0 va) n
          .done s v t.ct
      else if t.ct == ctWS && nw && !ownerRefusal s k va t && wsStands s slice k t va &&& dwordMask off n != dwordMask off n then
        .refuse s 2 0
      else withLine s g a k va t fun s h =>
        match t.ct.toNat with
        | 0 =>
          if g.hold then .stall s .held
          else if isFar a then
            (if mayGather s g k then
              let s := gatherRead (if g.active then recallAll s k else s) a.core k
              .done s (match l1Line s a.core k with | some l => lineGet l.data off n | none => 0) t.ct
             else .stall s (.token g.tries g.since))
          else tokenRead s g k off n
        | 1 =>
          if isFar a then
            let s := match l1Line s a.core k with
              | some l =>
                setL1 s a.core k { l with data := lineMerge (BitVec.ofNat 512 (homeBytes s h 0 64)) l.data l.dirty }
              | none => installL1 s a.core k h false
            .done s (match l1Line s a.core k with | some l => lineGet l.data off n | none => 0) t.ct
          else .done s (homeBytes s h off n) t.ct
        | 2 =>
          let full := wsFull s slice k t va
          if full &&& dwordMask off n != dwordMask off n then
            (if nw then .refuse s 2 0 else .stall s (.word slice))
          else
            let s := if isFar a && full == 0xFF then installL1 s a.core k h false else s
            .done s (homeBytes s h off n) t.ct
        | _ =>
          let s := installL1 s a.core k h false
          .done s (match l1Line s a.core k with | some l => lineGet l.data off n | none => 0) t.ct

/-- A write of n bytes is made ready, and nothing written (R157-R161, R196, R201): located and checked, its line filled
and, of an SC line, its tokens gathered. -/
def writable (s : State) (g : Go) (a : Access) (va n : Nat) : Loc :=
  match locate s g a va true with
  | .no r => .no r
  | .ok s slice t =>
    let k := lineKey a.part va
    let need := dwordMask (va % 64) n
    if ownerRefusal s k va t then .no (.refuse s 0x0B 0)
    else if t.ct == ctWS && (n % 8 != 0 || va % 8 != 0) then .no (.refuse s 7 0)
    else if t.hw then
      (if t.ct != ctWS then .ok s slice t
       else if hwAreaFull s slice k then .no (.refuse s 7 0)
       else if wsFull s slice k t va &&& need != 0 then .no (.refuse s 0x0A 0)
       else .ok s slice t)
    else if t.ct == ctWS && wsStands s slice k t va &&& need != 0 then .no (.refuse s 0x0A 0)
    else match filled s g a slice k va t with
      | .no r => .no r
      | .ok s _ _ =>
        let atHome := (homeLine s k).any (·.tok == 1024) && mayHome s g k
        if t.ct != ctSC then .ok s slice t
        else if g.hold then .no (.stall s .held)
        else if mayGather s g k || (!isFar a && atHome) then
          .ok (if isFar a then gatherCore s a.core k else gatherHome s k) slice t
        else .no (.stall s (.token g.tries g.since))
/-- A write of n bytes (R157-R161). `atHome` performs an RC write at the home copy, as a release store does
(DEDUCED, log 49). -/
def performWrite (s : State) (g : Go) (a : Access) (va n v : Nat) (atHome : Bool) : PRes :=
  let k := lineKey a.part va
  let off := va % 64
  let hit : Option L1Line :=
    if isFar a then
      match l1Line s a.core k with
      | some l => if l.wr && !(atHome && l.ct == ctRC) && (l.ct != ctSC || l.tok == 1024) then some l else none
      | none => none
    else none
  match hit with
  | some l =>
    if l.ct == ctSC && g.hold then .stall s .held else .done (writeL1 (demand s g a k) a.core k off n v) 0 l.ct
  | none =>
    match writable (demand s g a k) g a va n with
    | .no r => r
    | .ok s slice t =>
      let fills (s : State) : State :=
        wakeWord (setWsFull s slice k t va (wsFull s slice k t va ||| dwordMask off n)) k
      let inL1 (s : State) : State :=
        match homeLine s k with | some h => writeL1 (installL1 s a.core k h true) a.core k off n v | none => s
      if t.hw then
        let s := hostStore s slice a.part (leafPa t 0 va) n v
        .done (if t.ct == ctWS then fills s else s) 0 t.ct
      else match t.ct.toNat with
        | 0 =>
          if isFar a then .done (writeL1 s a.core k off n v) 0 t.ct
          else .done (fireMonitor (putHome s k off n v) a.part (va / 64)) 0 t.ct
        | 1 =>
          if isFar a && !atHome then .done (inL1 s) 0 t.ct
          else .done (putHome (if isFar a then dropL1 s a.core k else s) k off n v) 0 t.ct
        | 2 => .done (fills (putHome s k off n v)) 0 t.ct
        | _ => .done (inL1 s) 0 t.ct

/-- The signature that a release sent returns to its core, when no line has taken it: its page is PV, or its access was
refused or cancelled (R166, R183) (DEDUCED, log 122). -/
def keepSig (s : State) (a : Access) : State :=
  if a.sig == 0 then s else modCore s a.core fun c => { c with sig := sigOr c.sig a.sig }
/-- A store's signature travels with it (R166, R183, R205): scope clus or wider, a far core, no PV page. -/
def sendSig (s : State) (a : Access) (va scope : Nat) (ct : BitVec 2) : State :=
  if isFar a && 2 ≤ scope then
    (if ct == ctPV then keepSig s a else sigRelease s (lineKey a.part va) a.core scope a.sig)
  else s
/-- An acquire's cache action with the signature of its line (R166, R204). -/
def takeSig (s : State) (a : Access) (va scope : Nat) (ct : BitVec 2) : State :=
  if isFar a && 2 ≤ scope && ct != ctPV then
    let (g, s) := sigRead s (lineKey a.part va) a.core scope
    acquireSig s a.core g
  else s

/-- STRL's store (R205). -/
def performRel (s : State) (g : Go) (a : Access) (va v scope : Nat) : PRes :=
  match performWrite s g a va 8 v (decide (2 ≤ scope)) with
  | .done s x ct => .done (sendSig s a va scope ct) x ct
  | r => r
/-- LDAQ's load and its acquire (R204). -/
def performAcq (s : State) (g : Go) (a : Access) (va scope : Nat) : PRes :=
  match performRead s g a va 8 false true with
  | .done s v ct => .done (takeSig s a va scope ct) v ct
  | r => r

/-- The new value of an atomic by opcode − 0x30 (R209). -/
def amoNew (op : Nat) (old b c : Dword) : Dword :=
  match op with
  | 0 => old + b
  | 1 => old &&& b
  | 2 => old ||| b
  | 3 => old ^^^ b
  | 4 => if b.slt old then b else old
  | 5 => if old.slt b then b else old
  | 6 => if b < old then b else old
  | 7 => if old < b then b else old
  | 8 => b
  | 9 => if old = c then b else old
  | _ => old + b

/-- The 64-byte template after an AMOADDT counter, as the home reads it (R144, R211). -/
def readTemplate (s : State) (g : Go) (a : Access) (slice va : Nat) (t : Tlb) : PRes :=
  if t.hw then
    let (s, v) := hostLoad s slice (leafPa t 0 va) 64
    .done s v t.ct
  else withLine s g a (lineKey a.part va) va t fun s h =>
    if t.ct == ctSC then tokenRead s g (lineKey a.part va) 0 64 else .done s (homeBytes s h 0 64) t.ct

/-- AMOADDT's placement (R144, R211): the template is read after the add; a good one is sent by this home to
the queue of its anchor; a bad one refuses with ILL STATE. A template's line that is itself refused gives its own cause, at
the counter's address (DESIGN CHOICE, log 133). -/
def place (s : State) (g : Go) (a : Access) (slice va : Nat) (t : Tlb) (old : Nat) (ct : BitVec 2) : PRes :=
  match readTemplate s g a slice (va + 64) t with
  | .done s w _ =>
    if templateBad w then .refuseVal s 1 7 old
    else
      let r := recOf w
      .done { s with msgs := s.msgs ++
        [{ src := unitSlice slice, body := .enqueue (homeIn s a.part r.lo) a.part r }] } old ct
  | .refuse s c sub | .refuseVal s c sub _ => .refuseVal s c sub old
  | r => r

/-- The new value under an atomic, given the floating-point sum for AMOFADD (R209) (DEDUCED, log 41). -/
def atomicNew (op : Nat) (fsum : Dword → Dword → Dword) (old b c : Dword) : Dword :=
  if op = 10 then fsum old b else amoNew op old b c

/-- An atomic at its home, or in the owner's L1 on a PV page (R209, R210): RC own bytes are written back and
the line dropped first; at scope clus or wider it is a release store and an acquire of its line (DEDUCED, log 41). One
whose template has to wait is performed whole once its line is there (R191, R211). -/
def performAmo (s : State) (g : Go) (a : Access) (fsum : Dword → Dword → Dword) (va op scope : Nat)
    (b c : Dword) : PRes :=
  let k := lineKey a.part va
  let off := va % 64
  match locate (demand s g a k) g a va true with
  | .no r => r
  | .ok s slice t =>
    if ownerRefusal s k va t then .refuse s 0x0B 0
    else if t.ct == ctWS || (op == 11 && t.ct == ctPV) then .refuse s 7 0
    else
      let whole := s
      let sync (s : State) (old : Nat) : PRes :=
        let s := sendSig (takeSig s a va scope t.ct) a va scope t.ct
        if op == 11 && old != 0 && dn old + b == 0 then
          (match place s g a slice va t old t.ct with
          | .stall _ st => .stall whole st
          | r => r)
        else .done s old t.ct
      if t.hw then
        let (s, old) := hostLoad s slice (leafPa t 0 va) 8
        let new := atomicNew op fsum (dn old) b c
        sync (if op == 9 && dn old != c then s else hostStore s slice a.part (leafPa t 0 va) 8 new.toNat) old
      else withLine s g a k va t fun s h =>
        if t.ct == ctPV then
          let s := installL1 s a.core k h true
          match l1Line s a.core k with
          | none => .refuse s 7 0
          | some l =>
            let old := dn (lineGet l.data off 8)
            let new := atomicNew op fsum old b c
            .done (keepSig (if op == 9 && old != c then s else writeL1 s a.core k off 8 new.toNat) a) old.toNat t.ct
        else
          let ready := t.ct != ctSC || (h.tok == 1024 && mayHome s g k) || mayGather s g k
          if t.ct == ctSC && g.hold then .stall s .held
          else if !ready then .stall s (.token g.tries g.since)
          else
            let s := if t.ct == ctSC then gatherHome s k else if isFar a then dropL1 s a.core k else s
            let old := match homeLine s k with | some h => dn (homeBytes s h off 8) | none => 0
            let new := atomicNew op fsum old b c
            let s :=
              if op == 9 && old != c then s
              else
                let s := putHome s k off 8 new.toNat
                if t.ct == ctSC then fireMonitor s a.part (va / 64) else s
            sync s old.toNat

/-- WSCLR of the part of one granule from va (R186, R216): full and sealed bits are cleared and every cached
copy is dropped; a page that is not WS refuses PROT. -/
def clearLine (s : State) (slice k : Nat) (t : Tlb) (va : Nat) (m : BitVec 8) : State :=
  let s := recallAll s k
  let pa := leafPa t 0 va
  if t.hw || isPeer pa || (homeLine s k).isSome then
    let s := setWsFull s slice k t va (wsFull s slice k t va &&& ~~~m)
    if t.hw || isPeer pa then s
    else setFrame s pa { frameAt s pa with sealed := (frameAt s pa).sealed &&& ~~~(BitVec.ofNat 64 (2 ^ (pa / 64 % 64))) }
  else
    let f := frameAt s pa
    let old : BitVec 8 := if f.sealed.getLsbD (pa / 64 % 64) then 0xFF else fget 0 s.wsMeta (pa / 64)
    let s := { s with wsMeta := fset s.wsMeta (pa / 64) (old &&& ~~~m) }
    setFrame s pa { f with sealed := f.sealed &&& ~~~(BitVec.ofNat 64 (2 ^ (pa / 64 % 64))) }
def clearLines (s : State) (a : Access) (slice : Nat) (t : Tlb) (va : Nat) : Nat → State
  | 0 => s
  | n + 1 =>
    let w := va + 8 * n
    clearLine (clearLines s a slice t va n) slice (lineKey a.part w) t w (dwordMask (w % 64) 8)
def performClear (s : State) (g : Go) (a : Access) (va n : Nat) : PRes :=
  match locate s g a va true with
  | .no r => r
  | .ok s slice t =>
    if ownerRefusal s (lineKey a.part va) va t then .refuse s 0x0B 0
    else if t.ct != ctWS then .refuse s 7 0
    else if t.hw && hwAreaFull s slice (lineKey a.part va) then .refuse s 7 0
    else .done (clearLines s a slice t va (n / 8)) 0 t.ct

/-- A copy engine's claim of the home line of a located write (R190, R191): on an SC page all tokens are gathered as
by a write request, on a PV page the owner's L1 drops the line. At most 8 of the 16 ways of a set are claimed; an
engine stalls before a ninth, and where another copy has claimed the line. A host page's line is at no home and is not
claimed. -/
def claimLine (s : State) (g : Go) (a : Access) (id va : Nat) : PRes :=
  match locate s g a va true with
  | .no r => r
  | .ok s _ t =>
    let k := lineKey a.part va
    if t.hw then .done s 0 t.ct
    else if ownerRefusal s k va t then .refuse s 0x0B 0
    else withLine s g a k va t fun s h =>
      match h.claim with
      | some j => if j = id then .done s 0 t.ct else .stall s .way
      | none =>
        if 8 ≤ ((setLines s (keyHome s k) k).filter fun e => e.2.claim.isSome).length then .stall s .way
        else if t.ct == ctSC && !((h.tok == 1024 && mayHome s g k) || mayGather s g k) then .stall s (.token g.tries g.since)
        else
          let s := if t.ct == ctSC then gatherHome s k else if t.ct == ctPV then dropL1 s a.core k else s
          .done (modHome s k fun h => settleTokens { h with claim := some id }) 0 t.ct
/-- A fill at the home for the engine; a line read from HBM is the engine's until a core uses it (R378). -/
def engineFill (s : State) (c : Copy) (k va : Nat) (t : Tlb) : Fill :=
  let new := (homeLine s k).isNone && !isPeer (leafPa t 0 va)
  match fillHome s k (leafPa t 0 va / 64 * 64) t.w t.ct with
  | .ok s =>
    if new then
      let clu := clusterFor s c.core
      .ok (modHome (bump s (8 * clu) 8) k fun h => { h with eng := some clu })
    else .ok s
  | r => r
/-- The owner's copy of a PV line, or the home's (R192). -/
def pvPeek (s : State) (core k off n : Nat) : Nat :=
  match l1Line s core k with
  | some l => lineGet l.data off n
  | none => match homeLine s k with | some h => homeBytes s h off n | none => 0
/-- The engine's read of n bytes of one line (R192): what it has read already, or the line as its type says. -/
def copyRead (s : State) (g : Go) (a : Access) (c : Copy) (va n : Nat) : PRes :=
  let k := lineKey c.part va
  let off := va % 64
  match c.got.find? fun x => x.1 == va && x.2.1 == n with
  | some x => .done s x.2.2 ctRC
  | none =>
    match locate s g a va false with
    | .no r => r
    | .ok s slice t =>
      let empty (s : State) : Bool := t.ct == ctWS && wsFull s slice k t va &&& dwordMask off n != dwordMask off n
      if t.dup then dupRead s { a with host := true } slice k va n t
      else if t.hw then
        if empty s then .stall s (.word slice)
        else
          let (s, v) := hostLoad s slice (leafPa t 0 va) n
          .done s v t.ct
      else match engineFill s c k va t with
        | .refuse e => .refuse s e 0
        | .retry l => .stall s (.hbm l)
        | .busy => .stall s .way
        | .ok s =>
          if empty s then .stall s (.word slice)
          else match t.ct.toNat with
            | 0 => tokenRead s g k off n
            | 3 => .done s (pvPeek s c.core k off n) t.ct
            | _ => .done s (match homeLine s k with | some h => homeBytes s h off n | none => 0) t.ct
/-- A copy keeps a part that it has read, until its next piece is whole (R192). -/
def noteGot (s : State) (id va n v : Nat) : State :=
  { s with clusters := s.clusters.map fun (e : Nat × Cluster) =>
    (e.1, { e.2 with copies := e.2.copies.map fun c => if c.id == id then { c with got := (va, n, v) :: c.got } else c }) }
/-- A part of a copy that waited: an engine's claim, or its read. -/
def performEngine (s : State) (g : Go) (a : Access) (id : Nat) (p : Piece) : PRes :=
  if p.write then claimLine s g a id p.va
  else match findCopy s id with
    | none => .done s 0 ctRC
    | some c => match copyRead s g a c p.va p.size with
      | .done s v ct => .done (noteGot s id p.va p.size v) v ct
      | r => r

/-- PUBL's cairn (R146, R197, R217): every home sends its buffered writes, then the cairn is written
(DEDUCED, log 47). -/
def drainAll (s : State) : State :=
  (s.slices.map (·.1)).foldl (fun s n => drainHost s n fun _ => true) s
/-- (DEDUCED, log 47) -/
def performPubl (s : State) (g : Go) (a : Access) (va v : Nat) : PRes :=
  match locate s g a va true with
  | .no r => r
  | .ok s _ t =>
    if ownerRefusal s (lineKey a.part va) va t then .refuse s 0x0B 0
    else if !t.hw then .refuse s 7 0
    else match performWrite s g a va 8 v false with
      | .done s x ct => .done (drainAll s) x ct
      | r => r

end Sys2Proof.Machine
end

