-- ==== Sys2Proof/Machine/Fills.lean ====
section
/-! DEFINITION. What the array's commands read in the scratchpad (spec/14 R260-R267; spec/16 R301-R304): the words of
a fill, which the array locks (R266), and those that a later store of the context leaves alone (R267). -/

namespace Sys2Proof.Machine

def spmRead (s : State) (cluster off n : Nat) : Nat := readBytes (cluAt s cluster).spm off n
def spmWrite (s : State) (cluster off n v : Nat) : State :=
  modClu s cluster fun c => { c with spm := writeBytes c.spm off n v }
def storesKind : AccessKind → Bool
  | .store | .stv | .stvx | .streamWrite _ => true
  | _ => false

/-- An operand's format as FMTA or FMTB names it (R260): FMT, the planes it reads (0 where they are ignored) and
SMODE; none where it faults MFORMAT (R233, R238, R260). -/
structure OpFmt where
  fmt    : Nat
  planes : Nat
  smode  : Nat
  deriving DecidableEq, Repr
def opFmt (w : Dword) : Option OpFmt :=
  let f := bits w.toNat 0 4
  let sm := bits w.toNat 10 2
  let pl := if f = 9 ∨ f = 10 then bits w.toNat 12 3 else 0
  if 14 ≤ f ∨ sm = 3 ∨ (f = 9 ∧ (pl = 0 ∨ 4 < pl)) ∨ (f = 10 ∧ (pl = 0 ∨ 2 < pl)) then none
  else some { fmt := f, planes := pl, smode := sm }
/-- The scale region of an operand (R262). -/
def scaleBase (f : OpFmt) (scl : Dword) : Nat := bits scl.toNat 0 23 + (if f.fmt = 13 then 128 else 0)

/-- A range of the scratchpad: its first byte and its length. -/
abbrev Range := Nat × Nat
def spansMeet (l : List Range) (lo hi : Nat) : Bool := l.any fun r => decide (lo < r.1 + r.2 ∧ r.1 < hi)
/-- The first K entries of an index vector as they stand (R264). -/
def indexCount (s : State) (clu xi : Nat) : Nat := min (spmRead s clu xi 8) 256
def indexEntries (s : State) (clu xi : Nat) : List Nat :=
  (List.range (indexCount s clu xi)).map fun j => spmRead s clu (xi + 8 + 2 * j) 2
/-- The rows and scales that a fill reads, for source rows `n` at a time from each of the entries (R264, R265). -/
def fillRanges (fmtw scl : Dword) (base n : Nat) (ents : List Nat) : List Range :=
  match opFmt fmtw with
  | none => []
  | some f =>
    let rb := rowBytes f.fmt
    let unit := scaleBytes f.smode
    ents.map (fun e => (base + e * rb, n * rb)) ++
      if scl.getLsbD 23 || unit = 0 then [] else ents.map fun e => (scaleBase f scl + unit * e, n * unit)
/-- The code table of ZX8 rows (R241, R262). -/
def tableRange (fmtw scl : Dword) : List Range :=
  if bits fmtw.toNat 0 4 = 13 then [(bits scl.toNat 0 23, 128)] else []
/-- The index vector's words, and the words of the rows and scales, of a fill (R266). -/
def indexRanges (s : State) (clu : Nat) (m : MCmd) : List Range :=
  match m.instr with
  | .mgath _ => [(m.b, 8 + 2 * indexCount s clu m.b)]
  | _ => []
def rowRanges (s : State) (clu : Nat) (m : MCmd) : List Range :=
  match m.instr with
  | .mgath _ => fillRanges m.regs.fmta m.regs.scla m.a 1 (indexEntries s clu m.b)
  | .mldb _ => fillRanges m.regs.fmtb m.regs.sclb m.a 256 [0]
  | _ => []
/-- A range meets a word that the fill which the array has begun has locked (R266): a store or a copy's write there
waits, from any party. -/
def lockHolds (s : State) (clu lo hi : Nat) : Bool :=
  match (cluAt s clu).cmds with
  | [] => false
  | m :: _ => match m.gather with
    | none => false
    | some (rows, _) =>
      spansMeet ((indexRanges s clu m ++ if rows then rowRanges s clu m else []).map fun r =>
        (r.1 / 8 * 8, (r.1 + r.2 + 7) / 8 * 8 - r.1 / 8 * 8)) lo hi

/-- What an MSTORE writes (R305). -/
def storeRange (m : MCmd) : Range := (m.a, 256 * rowBytes (bits m.regs.fmto.toNat 0 4))
/-- The index vector of a command may still change before the command reads it: an earlier store of its context, an
earlier MSTORE of the array or an earlier predictor instruction has still to write it (R267, R310) (DEDUCED, log 52). -/
def indexMoves (s : State) (clu : Nat) (m : MCmd) : Bool :=
  (s.accesses.any fun a => a.spm && a.core == m.core && a.ctx == m.ctx && storesKind a.kind && decide (a.id < m.before) &&
    a.pieces.any fun p => spansMeet [(m.b, 520)] p.va (p.va + p.size)) ||
  ((cluAt s clu).cmds.takeWhile fun x => !(x == m)).any (fun x => match x.instr with
    | .mstore _ => !x.zeroing && spansMeet [(m.b, 520)] (storeRange x).1 ((storeRange x).1 + (storeRange x).2)
    | _ => false) ||
  (cluAt s clu).npq.any fun q => q.core == m.core && q.ctx == m.ctx && decide (q.before < m.before) &&
    spansMeet [(m.b, 520)] (npWrites s q).1 (npWrites s q).2
/-- What a command reads in the scratchpad (R266, R301-R304): all rows that its index may still name, where that may
change. -/
def commandReads (s : State) (clu : Nat) (m : MCmd) : List Range :=
  match m.instr with
  | .mgath _ =>
    (m.b, 520) :: tableRange m.regs.fmta m.regs.scla ++
      if indexMoves s clu m then fillRanges m.regs.fmta m.regs.scla m.a 65536 [0] else rowRanges s clu m
  | .mldb _ => tableRange m.regs.fmtb m.regs.sclb ++ rowRanges s clu m
  | .mscale _ => [(m.a, m.b)]
  | .mmuls _ => [(m.a, 4096)]
  | _ => []
/-- A store of a context, issued with access number `id`, never changes the operands of the context's commands that
issued before it (R267) (DEDUCED, log 52). -/
def commandsRead (s : State) (core ctx id lo hi : Nat) : Bool :=
  (cluAt s (core / 8)).cmds.any fun m =>
    m.core == core && m.ctx == ctx && !m.zeroing && decide (m.before ≤ id) && spansMeet (commandReads s (core / 8) m) lo hi

end Sys2Proof.Machine
end

