-- ==== Sys2Proof/Machine/Float.lean ====
section
/-! DEFINITION. Scalar floating-point arithmetic (spec/06 R108-R113): each operation on bit patterns of a
format under a rounding mode, a flush control and a random value, giving a pattern and flags. -/

namespace Sys2Proof.Machine

/-- How an operation rounds: FRM's mode and FZ (R107) and the random value of R249. -/
structure Env where
  mode : Nat
  fz   : Bool
  r    : Nat
  deriving DecidableEq, Repr

/-- The smallest normal magnitude is 2^(this). -/
def Fmt.minNormal (f : Fmt) : Int := f.lo + f.m

/-- R109: under FZ a subnormal operand becomes zero of its own sign. -/
def flushIn (f : Fmt) (fz : Bool) (v : FVal) : FVal :=
  match v with
  | .fin s m e a => if fz && v.below f.minNormal then .exact s 0 0 else .fin s m e a
  | v => v

/-- Reads an operand. -/
def operand (f : Fmt) (e : Env) (w : Nat) : FVal := flushIn f e.fz (decodeF f w)

/-- R109's last steps: rounds the exact result once and sets its flags. -/
def finish (f : Fmt) (e : Env) : FVal → Nat × Flags
  | .nan _ => (canonNan f, 0)
  | .inf s => (signBit f s + infBits f, 0)
  | .fin s m x a =>
    let y := roundFin f e.mode e.r s m x a
    if m = 0 ∧ a = false then (signBit f s, 0)
    else if y.tiny then
      (if e.fz then (signBit f s, fUF ||| fNX) else (y.bits, fIf y.nx (fUF ||| fNX)))
    else (y.bits, fIf y.of fOF ||| fIf y.nx fNX)

/-- A result on NaN operands or an invalid operation (R109): NV for a signalling NaN or when `invalid`. -/
def nanResult (f : Fmt) (invalid : Bool) (snan : Bool) : Nat × Flags := (canonNan f, fIf (invalid || snan) fNV)

/-- FADD, and FSUB on the negated second operand (R109). -/
def fadd (f : Fmt) (e : Env) (a b : FVal) : Nat × Flags :=
  let s := a.isSnan || b.isSnan
  if a.isNan || b.isNan then nanResult f false s
  else if a.isInf && b.isInf && a.neg != b.neg then nanResult f true s
  else finish f e (addF (e.mode == 3) a b)

/-- FMUL (R109). -/
def fmul (f : Fmt) (e : Env) (a b : FVal) : Nat × Flags :=
  let s := a.isSnan || b.isSnan
  if a.isNan || b.isNan then nanResult f false s
  else if (a.isInf && b.isZero) || (a.isZero && b.isInf) then nanResult f true s
  else finish f e (mulF a b)

/-- FDIV (R109): 0÷0 and ∞÷∞ are invalid; a finite value by zero sets DZ. -/
def fdiv (f : Fmt) (e : Env) (a b : FVal) : Nat × Flags :=
  let sn := a.isSnan || b.isSnan
  let s := a.neg != b.neg
  match a, b with
  | .fin _ m x _, .fin _ n y _ =>
    if m = 0 ∧ n = 0 then nanResult f true sn
    else if n = 0 then (signBit f s + infBits f, fDZ)
    else finish f e (divFin s m x n y)
  | .inf _, .inf _ => nanResult f true sn
  | .inf _, .fin _ _ _ _ => (signBit f s + infBits f, 0)
  | .fin _ _ _ _, .inf _ => (signBit f s, 0)
  | _, _ => nanResult f false sn

/-- FSQRT (R109): √ of a negative number is invalid; √(−0) is −0. -/
def fsqrt (f : Fmt) (e : Env) (a : FVal) : Nat × Flags :=
  match a with
  | .nan s => nanResult f false s
  | .inf s => if s then nanResult f true false else (infBits f, 0)
  | .fin s m x _ =>
    if m = 0 then (signBit f s, 0)
    else if s then nanResult f true false
    else finish f e (sqrtFin m x)

/-- FMA a × b + c with one rounding (R109); 0 × ∞ is invalid whatever c is. -/
def fmadd (f : Fmt) (e : Env) (a b c : FVal) : Nat × Flags :=
  let s := a.isSnan || b.isSnan || c.isSnan
  let bad := (a.isInf && b.isZero) || (a.isZero && b.isInf)
  if bad then nanResult f true s
  else if a.isNan || b.isNan || c.isNan then nanResult f false s
  else
    let p := mulF a b
    if p.isInf && c.isInf && p.neg != c.neg then nanResult f true s
    else finish f e (addF (e.mode == 3) p c)

/-- The pattern of a value that a format holds exactly. -/
def exactBits (f : Fmt) (v : FVal) : Nat := (roundTo f 1 0 v).1

/-- FMIN and FMAX (R110): −0 below +0; one NaN operand gives the other operand. -/
def fminmax (f : Fmt) (isMax : Bool) (a b : FVal) : Nat × Flags :=
  let fl := fIf (a.isSnan || b.isSnan) fNV
  if a.isNan && b.isNan then (canonNan f, fl)
  else if a.isNan then (exactBits f b, fl)
  else if b.isNan then (exactBits f a, fl)
  else
    let lt := ltF a b || (!ltF b a && a.neg && !b.neg)
    (exactBits f (if lt != isMax then a else b), fl)

/-- FCMP's mask (R111): bit 0 less, 1 equal, 2 greater, 3 unordered. -/
def fcmp (a b : FVal) : Nat × Flags :=
  let fl := fIf (a.isSnan || b.isSnan) fNV
  if a.isNan || b.isNan then (8, fl)
  else if ltF a b then (1, fl) else if ltF b a then (4, fl) else (2, fl)

/-- FCLASS's mask (R112), on the encoding alone. -/
def fclass (f : Fmt) (w : Nat) : Nat :=
  let v := decodeF f w
  match v with
  | .nan s => if s then 2 ^ 8 else 2 ^ 9
  | .inf s => if s then 1 else 2 ^ 7
  | .fin s m _ _ =>
    if m = 0 then (if s then 2 ^ 3 else 2 ^ 4)
    else if v.below f.minNormal then (if s then 2 ^ 2 else 2 ^ 5)
    else (if s then 2 ^ 1 else 2 ^ 6)

/-- FCVT to a floating format (R113). -/
def fcvtF (f : Fmt) (e : Env) (v : FVal) : Nat × Flags :=
  match v with
  | .nan s => nanResult f false s
  | v => finish f e v

/-- FCVT to an integer of n bits (R113). -/
def fcvtI (n : Nat) (e : Env) (v : FVal) : Int × Flags := roundToInt n e.mode e.r v

/-- The scalar width of func[28:27] (R108). -/
def scalarFmt : Nat → Fmt
  | 0 => f16 | 1 => f32 | _ => f64

end Sys2Proof.Machine
end

