-- ==== Sys2Proof/Machine/Registers.lean ====
section
/-! DEFINITION. The register files of a context with their full/empty bits (spec/05 R84, R88, R89; spec/14
R255), FRM's flags (spec/06 R107, R114), and values on their way to a register. -/

namespace Sys2Proof.Machine

/-- x[n]: x0 reads 0 (R88). -/
def rx (r : Regs) (n : Nat) : Dword := if n = 0 then 0 else fget 0 r.x n
def rv (r : Regs) (n : Nat) : Vec := fget 0 r.v n
/-- p[n]: p0 is all ones (R274). -/
def rp (r : Regs) (n : Nat) : Pred := if n = 0 then BitVec.allOnes 256 else fget 0 r.p n
def racc (r : Regs) (n : Nat) : Acc := fget {} r.acc n
/-- x0 is always full (R88). -/
def xFull (r : Regs) (n : Nat) : Bool := n == 0 || !r.xe.getLsbD n
def vFull (r : Regs) (n : Nat) : Bool := !r.ve.getLsbD n

def clr64 (w : Dword) (n : Nat) : Dword := w &&& ~~~(BitVec.ofNat 64 (2 ^ n))
def set64 (w : Dword) (n : Nat) : Dword := w ||| BitVec.ofNat 64 (2 ^ n)
def clr32 (w : Word) (n : Nat) : Word := w &&& ~~~(BitVec.ofNat 32 (2 ^ n))
def set32 (w : Word) (n : Nat) : Word := w ||| BitVec.ofNat 32 (2 ^ n)

/-- Writes x[n] and marks it full; a write to x0 is discarded (R84, R88). -/
def writeX (c : Ctx) (n : Nat) (v : Dword) : Ctx :=
  if n = 0 then c
  else { c with regs := { c.regs with x := fset c.regs.x n v, xe := clr64 c.regs.xe n }, xp := clr64 c.xp n }
/-- Marks x[n] empty: a value is on its way (R88). -/
def emptyX (c : Ctx) (n : Nat) : Ctx :=
  if n = 0 then c
  else { c with regs := { c.regs with xe := set64 c.regs.xe n }, xp := set64 c.xp n }
def writeV (c : Ctx) (n : Nat) (v : Vec) : Ctx :=
  { c with regs := { c.regs with v := fset c.regs.v n v, ve := clr32 c.regs.ve n }, vp := clr32 c.vp n }
def emptyV (c : Ctx) (n : Nat) : Ctx :=
  { c with regs := { c.regs with ve := set32 c.regs.ve n }, vp := set32 c.vp n }
/-- Writes p[n]; p0 is never written (R84). -/
def writeP (c : Ctx) (n : Nat) (v : Pred) : Ctx :=
  if n = 0 then c else { c with regs := { c.regs with p := fset c.regs.p n v } }
def writeAcc (c : Ctx) (n : Nat) (a : Acc) : Ctx :=
  { c with regs := { c.regs with acc := fset c.regs.acc n a } }
/-- ORs flags into FRM (R107, R114). -/
def orFlags (c : Ctx) (f : Flags) : Ctx :=
  { c with regs := { c.regs with frm := c.regs.frm ||| dn (f.toNat * 256) } }
/-- The register is no longer pending and stays empty (R343, R351). -/
def unpendX (c : Ctx) (n : Nat) : Ctx := { c with xp := clr64 c.xp n }
def unpendV (c : Ctx) (n : Nat) : Ctx := { c with vp := clr32 c.vp n }

/-- A value arrives (R88); one whose register is no longer pending is discarded (R351) (DEDUCED, log 25). -/
def arrive (c : Ctx) : Pend → Ctx
  | .x r v | .late r v _ => if c.xp.getLsbD r then writeX c r v else c
  | .v r v => if c.vp.getLsbD r then writeV c r v else c
/-- Sends a value on its way to a register; x0 receives none (DESIGN CHOICE, log 62). -/
def sendX (s : State) (core ctx n : Nat) (v : Dword) : State :=
  if n = 0 then s else modCtx s core ctx fun c => { c with pend := c.pend ++ [.x n v] }
/-- Sends a value that arrives within n cycles (R119, R309); x0 receives none. -/
def sendLate (s : State) (core ctx r : Nat) (v : Dword) (n : Nat) : State :=
  if r = 0 then s else modCtx s core ctx fun c => { c with pend := c.pend ++ [.late r v (s.cycle + n)] }
def sendV (s : State) (core ctx n : Nat) (v : Vec) : State :=
  modCtx s core ctx fun c => { c with pend := c.pend ++ [.v n v] }

/-- FRM's fields (R107). -/
def rmOf (r : Regs) : Nat := bits r.frm.toNat 0 3
def fzOf (r : Regs) : Bool := r.frm.getLsbD 3

end Sys2Proof.Machine
end

