-- ==== Sys2Proof/Machine/Access.lean ====
section
/-! DEFINITION. The life of a virtual access (spec/11 R201, R202, R206, R207; spec/20 R351): its parts are
performed in order until one stalls, parks or is refused; what its end does to registers and to the context. -/

namespace Sys2Proof.Machine

/-- AMOFADD's sum: RNE, subnormals kept, no flag (R209). -/
def fsumD (a b : Dword) : Dword := dn (fadd f64 { mode := 0, fz := false, r := 0 } (decodeF f64 a.toNat) (decodeF f64 b.toNat)).1

/-- The bytes a part holds in the access's data. -/
def pieceData (a : Access) (p : Piece) : Nat := bits a.data (8 * p.pos) (8 * p.size)

/-- A scratchpad store waits at a word that a fill has locked (R266), and behind the commands of its context that have
still to read its bytes (R267). -/
def commandHolds (s : State) (a : Access) (p : Piece) : Bool :=
  storesKind a.kind && (lockHolds s (a.core / 8) p.va (p.va + p.size) ||
    commandsRead s a.core a.ctx a.id p.va (p.va + p.size))
/-- A later scratchpad access of the context waits for a predictor instruction whose bytes it meets (R164)
(DEDUCED, log 52). -/
def predictorHolds (s : State) (a : Access) (p : Piece) : Bool :=
  (cluAt s (a.core / 8)).npq.any fun q =>
    q.core == a.core && q.ctx == a.ctx && decide (q.before ≤ a.id) && npMeets s q (storesKind a.kind) p.va p.size
/-- Nothing but its bank holds a part of a scratchpad access (R164, R266, R267). -/
def spmFree (s : State) (a : Access) (p : Piece) : Bool := !commandHolds s a p && !predictorHolds s a p
/-- One part of a scratchpad access, when its bank grants it (R151, R152). -/
def performSpm (s : State) (g : Go) (a : Access) (p : Piece) : PRes :=
  if !g.bank || !spmFree s a p then .stall s .ready
  else if storesKind a.kind then .done (spmWrite s (a.core / 8) p.va p.size (pieceData a p)) 0 ctRC
  else .done s (spmRead s (a.core / 8) p.va p.size) ctRC
/-- Performs one part by the access's kind. -/
def performPiece (s : State) (g : Go) (a : Access) (p : Piece) : PRes :=
  if a.spm then performSpm s g a p
  else match a.kind with
  | .load _ _ nw _ => performRead s g a p.va p.size nw false
  | .ldaq scope _ => performAcq s g a p.va scope
  | .store | .stv | .stvx | .streamWrite _ | .hostWrite => performWrite s g a p.va p.size (pieceData a p) false
  | .save _ => performWrite s g a p.va p.size (pieceData a p) true
  | .strl scope => performRel s g a p.va (pieceData a p) scope
  | .ldv nw _ => performRead s g a p.va p.size nw false
  | .ldvx _ | .body _ | .streamRead _ _ | .loadCtx _ _ _ | .hostRead => performRead s g a p.va p.size false false
  | .amo op scope _ b c => performAmo s g a fsumD p.va op scope b c
  | .wsclr => performClear s g a p.va p.size
  | .publ => performPubl s g a p.va (pieceData a p)
  | .copy id => performEngine s g a id p

/-- The parts of an access overlap in some byte. -/
def overlaps (p q : Piece) : Bool := decide (p.va < q.va + q.size ∧ q.va < p.va + p.size)
def sameSource (a b : Access) : Bool := a.host == b.host && a.core == b.core && a.ctx == b.ctx && a.part == b.part
def isCopy (a : Access) : Bool := match a.kind with | .copy _ => true | _ => false
def isCopyKind (a : Access) : Bool := match a.kind with | .copy _ => true | .streamRead _ _ => true | _ => false
/-- An earlier access of the same context, not yet performed, touches a byte of the part (R164). Read-ahead of
a stream, and an access that a CTXSAVE has cancelled, hold nothing (R218, R343). A stream's writes are performed beat by
beat (R218, R252). -/
def sameStream (a b : Access) : Bool :=
  match a.kind, b.kind with
  | .streamWrite e, .streamWrite f => e == f
  | _, _ => false
def behind (s : State) (a : Access) (p : Piece) : Bool :=
  s.accesses.any fun b => decide (b.id < a.id) && sameSource a b && !isCopy a && !isCopyKind b && a.spm == b.spm &&
    b.stage != .saving && (sameStream a b || b.pieces.any (overlaps p))
/-- An earlier access of the same context may still turn out to be SC (R167): no home's translation says otherwise. -/
def pieceSC (s : State) (b : Access) (p : Piece) : Bool :=
  match b.loc, tlbFind s (homeIn s b.part p.va) b.part p.va with
  | some (_, t), _ => t.ct == ctSC
  | none, some t => t.ct == ctSC
  | none, none => true
def mayBeSC (s : State) (b : Access) : Bool :=
  !b.spm && (match b.stage with | .word _ | .saving | .performed | .failed _ _ _ => false | _ => true) &&
    b.pieces.any (pieceSC s b)
def holdSC (s : State) (a : Access) : Bool :=
  s.accesses.any fun b => decide (b.id < a.id) && sameSource a b && !isCopy a && !isCopyKind b && mayBeSC s b

/-- How running an access ends. -/
inductive ARes where
  | fin (s : State) (a : Access)
  | wait (s : State) (a : Access)
  | ref (s : State) (a : Access) (cause sub va : Nat)
  deriving DecidableEq, Repr

/-- Marks of the 32-bit places a part covers (R361). -/
def doneMask (p : Piece) : Pred := BitVec.ofNat 256 ((2 ^ ((p.size + 3) / 4) - 1) * 2 ^ (p.pos / 4))

/-- The part that an access performs next has been translated and checked where it stalls, or has still to be (R170,
R342). -/
def translatedAt : Stage → Bool
  | .token _ _ | .hbm _ | .word _ | .claimed _ | .way | .held => true
  | _ => false
def untranslatedAt : Stage → Bool
  | .walk _ | .table _ _ | .walkWay _ _ => true
  | _ => false
def headPos (a : Access) : Option Nat := a.pieces.head?.map (·.pos)
/-- A stalled access that waits for its tokens anew, or for a walk, notes when it began to (R178, R322); a part that has
been translated is no longer awaited by a REPLAYALL (R342). A persistent request whose access stalls for another cause
gives up its place: its access gathers anew as a first transient attempt (R179) (DESIGN CHOICE, log 132). -/
def stalled (s : State) (a : Access) (st : Stage) : Access :=
  let a := { a with
    again := if translatedAt st && a.again == headPos a then none else a.again
    checked := (a.checked || translatedAt st) && !untranslatedAt st }
  match st, a.stage with
  | .token _ _, .token _ _ | .walk _, .walk _ => { a with stage := st }
  | .token _ _, _ => { a with stage := st, sent := s.cycle }
  | .walk _, _ => { a with stage := st, came := s.cycle }
  | _, _ => { a with stage := st }
/-- Performs the remaining parts in order. A grant of tokens serves one line, and a walker one walk; each further SC line
gathers anew, and each further walk waits for its walker (R178, R322). -/
def runPieces : List Piece → State → Go → Access → ARes
  | [], s, _, a => .fin s { a with pieces := [] }
  | p :: ps, s, g, a =>
    let a := { a with pieces := p :: ps }
    if behind s a p then .wait s { a with stage := .ready }
    else match performPiece s { g with hold := holdSC s a } a p with
      | .done s v _ =>
        runPieces ps s { g with grant := false, walk := false, active := false, goOn := none, bank := false, tries := 0, since := none }
          { a with again := if a.again == some p.pos then none else a.again, checked := false, stage := .ready, data := if p.write then a.data else putBits a.data (8 * p.pos) (8 * p.size) v,
                   done := a.done ||| doneMask p, reported := fdel a.reported p.pos }
      | .stall s st => .wait s (stalled s a st)
      | .park s l c lv w => let (s, a) := parkAccess s a l c lv w p; .wait s a
      | .refuse s c sub => .ref s a c sub p.va
      | .refuseVal s c sub v => .ref s { a with data := v } c sub p.va

/-- A refused STVX: each element that is not refused may or may not have been performed (R207), behind the accesses
that it follows (R164, R167) (DEDUCED, log 64). -/
def scatterSome : List Piece → State → Access → State
  | [], s, _ => s
  | p :: ps, s, a =>
    let (b, s) := freeBit s
    let s := if b && !behind s a p then
        (match performPiece s { grant := true, hold := holdSC s a, bank := true } a p with | .done s _ _ => s | _ => s)
      else s
    scatterSome ps s a
/-- Runs the remaining parts; of a refused STVX those after the refused one are open (DEDUCED, log 64). -/
def runAll (s : State) (g : Go) (a : Access) : ARes :=
  match runPieces a.pieces s g a with
  | .ref s' a' c sub va =>
    match a.kind with
    | .stvx => .ref (scatterSome (a'.pieces.drop 1) s' a') a' c sub va
    | _ => .ref s' a' c sub va
  | r => r

/-- A load's register value (R202). -/
def loadValue (size : Nat) (signed : Bool) (v : Nat) : Dword :=
  if signed then dw (sext (8 * size) v) else dn v

/-- The body cache takes an entry under the virtual address of its dword in the table (R21, R98); 32 are kept (R24)
(DEDUCED, log 78). -/
def keepBody (c : Core) (b : Nat) (e : Dword) : Core :=
  let m := fset c.bodies b e
  { c with bodies := if m.length ≤ 32 then m else match m.find? (·.1 != b) with | some x => fdel m x.1 | none => m }

/-- Keeps an access in its place in the order of issue. -/
def insertAcc (a : Access) : List Access → List Access
  | [] => [a]
  | b :: l => if a.id < b.id then a :: b :: l else b :: insertAcc a l
def keepAccess (s : State) (a : Access) : State := { s with accesses := insertAcc a s.accesses }
def dropAccess (s : State) (id : Nat) : State := { s with accesses := s.accesses.filter fun b => !(b.id == id) }

/-- The lanes of a read stream's beat (R252, R254): lanes beyond the last element read as 0. -/
def beatLanes (st : Stream) (b data : Nat) : Vec :=
  vecOf fun i =>
    if 256 * b + i < elemCount st.bound then
      elemRead st.elem (bits data (8 * elemSize st.elem * i) (8 * elemSize st.elem)) else 0

/-- An access performed whole (R88, R202, R204, R206, R209). -/
def finishAccess (s : State) (a : Access) : State :=
  match a.kind with
  | .load size signed _ rd => sendX s a.core a.ctx rd (loadValue size signed a.data)
  | .ldaq _ rd => sendX s a.core a.ctx rd (dn a.data)
  | .amo _ _ rd _ _ => sendX s a.core a.ctx rd (dn a.data)
  | .ldv _ rd => sendV s a.core a.ctx rd (BitVec.ofNat 8192 a.data)
  | .ldvx rd => sendV s a.core a.ctx rd (BitVec.ofNat 8192 a.data)
  | .body va => modCore s a.core fun c => keepBody c va (dn a.data)
  | .streamRead eng b => modCtx s a.core a.ctx fun c =>
    match ffind c.streams eng with
    | some st =>
      let st := { st with ready := fset st.ready b (beatLanes st b a.data, beatMask st.bound b, none) }
      { c with streams := fset c.streams eng st }
    | none => c
  | .save _ | .loadCtx _ _ _ => keepAccess s { a with stage := .performed }
  | .hostRead => modPart s a.part fun p => { p with answers := p.answers ++ [(a.id, some (toBytes a.data a.word))] }
  | .store | .stv | .stvx | .strl _ | .streamWrite _ | .wsclr | .publ | .copy _ | .hostWrite => s

/-- The access is the work of an instruction that a due BUDGET leaves alone until it completes (R405): WSCLR, PUBL, or a
spawning instruction's read of its body-table dword. -/
def defersBudget (c : Ctx) : AccessKind → Bool
  | .wsclr | .publ => true
  | .body _ => c.starting.isNone
  | _ => false
/-- Sends a refusal on its way to its core (R201). -/
def sendRefusal (s : State) (core ctx : Nat) (r : Refused) : State :=
  modCtx s core ctx fun c => { c with refusals := c.refusals ++ [r] }
def addRefusal (s : State) (a : Access) (cause sub va : Nat) : State :=
  sendRefusal s a.core a.ctx { cause := cause, sub := sub, tval := dn va, rpc := a.pc, defers := defersBudget (ctxAt s a.core a.ctx) a.kind }
/-- The address in a host request's header (R196), by a part that has still to be performed. -/
def headerVa (a : Access) : Nat := match a.pieces with | p :: _ => p.va - p.pos | [] => 0
/-- A refused access (R201): a destination marked empty receives 0 (for an AMOADDT template the old value,
R211) and is full; a stream's fault is kept with its beat (R218); a host request is answered (R196). -/
def refuseAccess (s : State) (a : Access) (cause sub va : Nat) : State :=
  let s := keepSig s a
  let s' := addRefusal s a cause sub va
  match a.kind with
  | .load _ _ _ rd | .ldaq _ rd => modCtx s' a.core a.ctx fun c => if c.xp.getLsbD rd then writeX c rd 0 else c
  | .amo _ _ rd _ _ => modCtx s' a.core a.ctx fun c =>
    if c.xp.getLsbD rd then writeX c rd (dn a.data) else c
  | .ldv _ rd | .ldvx rd => modCtx s' a.core a.ctx fun c => if c.vp.getLsbD rd then writeV c rd 0 else c
  | .streamRead eng b => modCtx s a.core a.ctx fun c =>
    match ffind c.streams eng with
    | some st =>
      let st := { st with ready := fset st.ready b (0, beatMask st.bound b, some { cause := cause, sub := sub, va := va }) }
      { c with streams := fset c.streams eng st }
    | none => c
  | .body _ => modCtx s' a.core a.ctx fun c => { c with wait := none }
  | .save _ | .loadCtx _ _ _ => keepAccess s { a with stage := .failed cause sub va }
  | .hostRead => modPart s a.part fun p => { p with answers := p.answers ++ [(a.id, none)] }
  | .hostWrite => modPart s a.part fun p => { p with aer := p.aer ++ [(headerVa a, a.word)] }
  | .copy id =>
    modClu s (clusterFor s a.core) fun c =>
      { c with copies := c.copies.map fun x => if x.id == id then { x with fault := some { cause := cause, sub := sub, va := va } } else x }
  | .store | .stv | .stvx | .strl _ | .streamWrite _ | .wsclr | .publ => s'

/-- A store whose translation and checks have passed holds its context no longer (R202). -/
def unblock (a : Access) : Access :=
  match a.kind, a.stage with
  | .store, .token _ _ | .strl _, .token _ _ | .store, .held | .strl _, .held => { a with blocking := false }
  | _, _ => a

/-- How far an access that stalled goes when it is run again: a walk that an HBM retry or a busy set stopped goes on
where it stood (R316), and a gather keeps its count of attempts (R178). -/
def resumed (g : Go) (a : Access) : Go :=
  match a.stage with
  | .table _ x | .walkWay _ x => { g with goOn := x }
  | .token k p => { g with tries := k, since := p }
  | _ => g
/-- Runs an access as far as it goes (DEDUCED, log 18). -/
def runAccess (s : State) (g : Go) (a : Access) : State :=
  match runAll (dropAccess s a.id) (resumed g a) a with
  | .fin s a => finishAccess s a
  | .wait s a => keepAccess s (unblock a)
  | .ref s a c sub va => refuseAccess s a c sub va

/-- A far core's L1 notes the line of a demand (R378). -/
def noteDemand (s : State) (a : Access) : State :=
  match a.kind, a.pieces with
  | .load _ _ _ _, p :: _ | .store, p :: _ | .ldv _ _, p :: _ | .stv, p :: _ =>
    if isFar a && !a.spm then modCore s a.core fun c =>
      if c.seen.head? == some (p.va / 64) then c else { c with seen := (p.va / 64 :: c.seen).take 3 } else s
  | _, _ => s
/-- Sends a new access from its core (R201): what its L1 holds is performed at once, the rest at its home, or at its
bank (DESIGN CHOICE, log 20). -/
def submit (s : State) (a : Access) : State :=
  runAccess { noteDemand s a with accessId := s.accessId + 1 } { home := false } { a with id := s.accessId, cycle := s.cycle }

/-- Accesses whose parts are performed in no fixed order (R151, R206, R207, R218). -/
def unordered (a : Access) : Bool :=
  match a.kind with
  | .ldv _ _ | .ldvx _ | .stvx | .streamRead _ _ => true
  | .stv => a.spm
  | _ => false
/-- Runs one part of an access before the others: one that overlaps none before it, and the first where they have an
order (DEDUCED, log 18). -/
def runPart (s : State) (g : Go) (a : Access) (i : Nat) : State :=
  match a.pieces[i]? with
  | none => s
  | some p =>
    let rest := a.pieces.eraseIdx i
    if (!unordered a && i != 0) || (a.pieces.take i).any (overlaps p) then s
    else match runPieces [p] (dropAccess s a.id) g { a with checked := i == 0 && a.checked } with
      | .fin s b => if rest.isEmpty then finishAccess s b else keepAccess s { b with pieces := rest, checked := i != 0 && a.checked }
      | .wait s a => keepAccess s { a with pieces := p :: rest }
      | .ref s a c sub va => refuseAccess (match a.kind with | .stvx => scatterSome rest s a | _ => s) a c sub va
/-- The home of a store has translated and checked it: its context goes on before it is performed (R202). A WS store
is answered when it is performed (R160) (DEDUCED, log 19), and a home core's store at its own slice has its effect at once
(R16, R40). -/
def acceptStore (s : State) (a : Access) : State :=
  match a.pieces with
  | [p] =>
    (match locate s {} a p.va true with
    | .no _ => s
    | .ok s' slice t =>
      let pass (s : State) : State := keepAccess (dropAccess s a.id) { a with blocking := false, again := none, loc := some (slice, t) }
      if t.ct == ctWS || (!isFar a && a.core == 512 + slice) then s
      else if t.hw then pass s'
      else match fillHome s' (lineKey a.part p.va) (leafPa t 0 p.va / 64 * 64) t.w t.ct with
        | .ok s' => pass s'
        | _ => s)
  | _ => s
/-- A store that can be answered before it is performed (DEDUCED, log 19). -/
def acceptable (a : Access) : Bool :=
  a.blocking && !a.spm && a.loc.isNone && a.stage == .ready && (match a.kind with | .store | .strl _ => true | _ => false)

/-- The parts of n bytes at va, `unit` bytes each, from data position `pos`. -/
def pieces (va unit : Nat) (write : Bool) : Nat → Nat → List Piece
  | _, 0 => []
  | pos, n + 1 => { va := va, size := unit, pos := pos, write := write } :: pieces (va + unit) unit write (pos + unit) n

/-- An access of the context that issues, for the bundle at its pc. -/
def accessOf (s : State) (kind : AccessKind) (word : Nat) (ps : List Piece) (data : Nat) (blocking : Bool) : Access :=
  { kind := kind, core := s.core, ctx := s.ctx, part := partOf s s.core, pc := (cur s).pc, word := word,
    pieces := ps, data := data, blocking := blocking }

/-- The accesses of a context on their way; a parked one makes it parked (R345). -/
def accessesOf (s : State) (core ctx : Nat) : List Access :=
  s.accesses.filter fun a => !a.host && a.core == core && a.ctx == ctx
/-- The accesses of its own instructions: not a copy's, not a stream's read-ahead (R218). -/
def ownAccesses (s : State) (core ctx : Nat) : List Access := (accessesOf s core ctx).filter fun a => !isCopyKind a

/-- The access is parked by Park: on a translation cause, a transition or an empty WS word (R10, R49). -/
def heldByPark (a : Access) : Bool :=
  match a.stage with
  | .parked _ _ _ _ | .word _ | .saving => true
  | _ => false
/-- The context is parked (R48, R49, R345). -/
def ctxParked (s : State) (core ctx : Nat) : Bool := (ownAccesses s core ctx).any heldByPark

end Sys2Proof.Machine
end

