-- ==== Sys2Proof/Machine/Trace.lean ====
section
/-! DEFINITION. The trace encoder of a core (spec/21 R373): 16-byte records in a ring of partition memory. A
record that memory does not take at once is lost and counted. -/

namespace Sys2Proof.Machine

/-- Writes by the device itself at a virtual address of a partition, 8 bytes at a time: done, refused, or not
possible now. -/
inductive DevWrite where
  | done (s : State)
  | refused (s : State)
  | late
  deriving DecidableEq, Repr
def deviceAccess (p : Nat) : Access :=
  { kind := .hostWrite, core := 0, ctx := 0, part := p, host := true, pc := 0, word := 0, pieces := [] }
/-- (DEDUCED, log 86) -/
def deviceWrite (s : State) (p va : Nat) : Nat → Nat → DevWrite
  | 0, _ => .done s
  | n + 1, v =>
    match deviceWrite s p va n v with
    | .done s =>
      (match performWrite s { walk := walkerFree s p (va + 8 * n), grant := true } (deviceAccess p) (va + 8 * n) 8 (bits v (64 * n) 64) false with
      | .done s _ _ => .done s
      | .refuse s _ _ => .refused s
      | .refuseVal s _ _ _ => .refused s
      | _ => .late)
    | r => r

/-- Fields of TRCTL and DSTAT (R373). -/
def trBase (w : Dword) : Nat := bits w.toNat 16 41 * 2 ^ 16
def trNext (w : Dword) : Dword := dn (bits w.toNat 16 32 * 2 ^ 16 + (bits w.toNat 0 16 + 1) % 4096)
def trLost (w : Dword) : Dword := dn (bits w.toNat 0 16 + (bits w.toNat 16 32 + 1) % 2 ^ 32 * 2 ^ 16)
/-- A trace record of a context: kind 1 task start, 2 TEND or TABORT, 3 taken branch, 4 trap, 5 upcall, 6 stop
(DEDUCED, log 86). -/
def trace (s : State) (n k kind pc : Nat) (v : Dword) : State :=
  let c := coreAt s n
  if !c.trctl.getLsbD 63 then s
  else
    let d := s.cycle % 2 ^ 32 * 2 ^ 32 + pc / 8 % 2 ^ 16 * 2 ^ 16 + k * 2 ^ 8 + kind
    match deviceWrite s (partOf s n) (trBase c.trctl + 16 * bits c.dstat.toNat 0 16) 2 (d + v.toNat * 2 ^ 64) with
    | .done s => modCore s n fun c => { c with dstat := trNext c.dstat }
    | .refused _ => modCore s n fun c => { c with trctl := c.trctl &&& ~~~(dn (2 ^ 63)) }
    | .late => modCore s n fun c => { c with dstat := trLost c.dstat }

end Sys2Proof.Machine
end

