-- ==== Sys2Proof/Machine/Ops.lean ====
section
/-! DEFINITION. The shared operations over contexts: starting one (spec/02 R38, spec/03 R45-R47), ending one,
leases, ropes and priority inheritance; and TAKING A TRAP with its stop and the return from it (spec/20
R347-R359). -/

namespace Sys2Proof.Machine

/-- Fields of TSTAT (R348). -/
def tsActive (w : Dword) : Bool := w.getLsbD 0
def tsAbt (w : Dword) : Bool := w.getLsbD 5
def tsRz (w : Dword) : Bool := bits w.toNat 1 4 != 0 || bits w.toNat 8 16 != 0
/-- TSTAT as handler entry writes it (R348, R353): RERUN keeps its value. -/
def tstatAt (old : Dword) (nsend : Nat) (abt : Bool) (rpc : Option Nat) : Dword :=
  dn (1 + bit01 abt * 2 ^ 5 + bit01 (old.getLsbD 6) * 2 ^ 6 + bit01 rpc.isSome * 2 ^ 7 + nsend * 2 ^ 24 +
    (match rpc with | some p => p / 8 % 2 ^ 16 * 2 ^ 32 | none => 0))

/-- The context was started on a record and is running a task (R355). -/
def isTask (c : Ctx) : Bool := match c.start with | .task _ => c.record.isSome | .other => false

/-- The lease of a cluster's array ends for a context (R258), and with it power leave (R399). -/
def endLease (s : State) (n k : Nat) : State :=
  if Config.isHome n then s
  else if (cluAt s (n / 8)).holder == some (n, k) then
    let s := modClu s (n / 8) fun c => { c with holder := none, remain := 0 }
    modDie s (Config.dieOf n) fun d => { d with holders := d.holders.filter fun h => !(h.kind == 0 && h.core == n && h.ctx == k) }
  else s

/-- A context waits at a group's barrier (R56). -/
def waitsAt (c : Ctx) : Option Nat :=
  match c.wait with
  | some w => match w.instr with
    | .gwait f | .gbar f => some f.group.toNat
    | _ => none
  | none => none
/-- INH of every tagged context of a partition (R56): the highest base class among contexts waiting in GWAIT
or GBAR at the tag's group, for member cores (DEDUCED, log 101). -/
def inhFor (s : State) (p core g : Nat) : Nat :=
  if (fget [] (partAt s p).groups g).contains core then
    (((s.cores.filter fun e => e.2.part == some p).map fun e =>
      (e.2.ctxs.map fun c => if waitsAt c.2 == some g && c.2.running then c.2.base.toNat else 0).foldl max 0).foldl max 0)
  else 0
/-- (DEDUCED, log 101; DEDUCED, log 107) -/
def refreshInh (s : State) (p : Nat) : State :=
  { s with cores := s.cores.map fun (e : Nat × Core) =>
    if e.2.part == some p then
      (e.1, { e.2 with ctxs := e.2.ctxs.map fun (c : Nat × Ctx) =>
        (c.1, { c.2 with inh := match c.2.tag with | some g => BitVec.ofNat 2 (inhFor s p e.1 g) | none => 0 }) })
    else e }

/-- Every binding of a context ends: its register is zero and full (R219). -/
def unbindAll (c : Ctx) : Ctx :=
  { (c.streams.foldl (fun c e => writeV c e.2.vd 0) c) with streams := [] }

/-- A context goes dormant (R45): bindings with their read-ahead, tag, lease and rope end; the records held for
it are freed; an arrival of its that is outstanding counts on, but no later GWAIT of the context waits for it
(DEDUCED, log 77; DESIGN CHOICE, log 119). -/
def makeDormant (s : State) (n k : Nat) : State :=
  let s := endLease s n k
  let s := { s with reqs := s.reqs.map fun (q : QReq) => if q.core == n && q.ctx == k then (match q.ask with
    | .arrive g bar _ => { q with ask := .arrive g bar false }
    | _ => q) else q }
  let s := { s with accesses := s.accesses.filter fun a => !(a.core == n && a.ctx == k && !a.host &&
    (match a.kind with | .streamRead _ _ => true | _ => false)) }
  let s := modCtx s n k fun c =>
    { unbindAll c with
      running := false, stopped := false, reserved := false, wait := none, tag := none, inh := 0, sends := [],
      record := none, start := .other, rope := .none, fwd := [], upcall := false, trapWait := none, refusals := [],
      starting := none, arrivals := [], bpSkip := false, owed := false }
  refreshInh (unhold s n k) (partOf s n)

/-- Starts a context at a pc in a class (R38, R47, R348): TSTAT is cleared, the counts of bundles and budget
begin. Every other register keeps its value. -/
def beginCtx (s : State) (n k pc : Nat) (cls : BitVec 2) : State :=
  modCtx s n k fun c =>
    { c with running := true, stopped := false, reserved := false, pc := pc, npc := pc, base := cls, inh := 0,
             tag := none, tstat := 0, budget0 := s.cycle, icount := 0, copies := [], cpyq := [], sends := [],
             record := none, start := .other, wait := none, rope := .none, fwd := [], upcall := false,
             starting := none, trapWait := none, arrivals := [], owed := false }

/-- The lowest-numbered dormant context that no reservation holds and no enabled upcall keeps (R46, R338);
none while a pre-emption request is pending (R64) or a load runs (R380) (DEDUCED, log 24). -/
def freeCtx (s : State) (n : Nat) : Option Nat :=
  let c := coreAt s n
  if c.preempt || (partAt s (partOf s n)).loading then none
  else (List.range (Config.contexts n)).find? fun k =>
    let x := ctxAt s n k
    !x.running && !x.reserved && !(c.upcvec.getLsbD 63 && bits c.upcvec.toNat 16 3 == k)

/-- The context that a reservation takes (R46): the last one free goes to the inbound queue's record instead
(DEDUCED, log 24). -/
def reservable (s : State) (n : Nat) : Option Nat :=
  match freeCtx s n with
  | none => none
  | some k =>
    let last := (freeCtx (modCtx s n k fun c => { c with reserved := true }) n).isNone
    if last && (popInbound (coreAt s n).inbound).isSome then none else some k

/-- A context's copies without a handler, its array commands, or these and its predictor instructions, are not complete
(R223, R298). -/
def copiesLeft (s : State) (n k : Nat) : Bool :=
  (cluAt s (clusterFor s n)).copies.any fun x => x.core == n && x.ctx == k && x.h == 0
def matrixLeft (s : State) (n k : Nat) : Bool :=
  !Config.isHome n && (cluAt s (n / 8)).cmds.any fun m => m.core == n && m.ctx == k && !m.zeroing
def commandsLeft (s : State) (n k : Nat) : Bool := matrixLeft s n k || predsLeft s n k
/-- A lead's seconds have bundles forwarded to them and not yet issued, or accesses not yet performed (R62, R63). -/
def secondsLag (s : State) (n k : Nat) : Bool :=
  match (ctxAt s n k).rope with
  | .lead l => l.any fun e =>
    let c := ctxAt s e.1 e.2.1
    !c.fwd.isEmpty || c.wait.isSome || c.trapWait.isSome || !c.refusals.isEmpty || c.xp != 0 || c.vp != 0 ||
      !(accessesOf s e.1 e.2.1).isEmpty || predsLeft s e.1 e.2.1
  | _ => false
/-- The cycle at which a rope stands (R62): the present one, but for a second that could not issue a bundle in its
cycle, where every member is frozen. -/
def ropeClock (s : State) (n k : Nat) : Nat :=
  match (ctxAt s n k).rope with
  | .lead l => l.foldl (fun m e => match (ctxAt s e.1 e.2.1).fwd with | b :: _ => min m b.due | [] => m) s.cycle
  | _ => s.cycle
/-- The pc of a context's next bundle: a second's is the oldest that its lead has forwarded, or the lead's next (R62,
R63). -/
def nextPc (s : State) (n k : Nat) : Nat :=
  let c := ctxAt s n k
  match c.rope, c.fwd with
  | .second _ _, b :: _ => b.pc
  | .second lc lk, [] => (ctxAt s lc lk).pc
  | _, _ => c.pc
/-- A member's core is stopped for debug: its whole rope is frozen (R372). -/
def ropeStopped (s : State) (n k : Nat) : Bool :=
  let stopped (l : List (Nat × Nat × Nat)) : Bool := l.any fun e => (coreAt s e.1).halted
  match (ctxAt s n k).rope with
  | .lead l => stopped l
  | .second lc lk => (coreAt s lc).halted || (match (ctxAt s lc lk).rope with | .lead l => stopped l | _ => false)
  | .none => false
/-- A second no longer holds its rope: the bundles under way move on by as long as it froze, their skew kept (R62). -/
def thaw (s : State) (c : Ctx) : State :=
  match c.rope, c.fwd with
  | .second n k, b :: _ =>
    (match (ctxAt s n k).rope with
    | .lead l => l.foldl (fun s e => modCtx s e.1 e.2.1 fun x =>
        { x with fwd := x.fwd.map fun y => { y with due := y.due + (s.cycle - b.due) } }) s
    | _ => s)
  | _, _ => s

/-- The count of cycles that TBUDGET bounds (R65): a stop for debug adds none (R372) (DEDUCED, log 15). -/
def budgetCount (s : State) (n k : Nat) : Nat :=
  (if (coreAt s n).halted then (coreAt s n).haltAt else s.cycle) - (ctxAt s n k).budget0
/-- UNROPE's end of a rope (R63): each second makes Release(dev, all) and becomes dormant. -/
def endRope (s : State) (n k : Nat) : State :=
  match (ctxAt s n k).rope with
  | .lead l =>
    let s := l.foldl (fun s e => makeDormant (releaseAll s e.1) e.1 e.2.1) s
    modCtx s n k fun c => { c with rope := .none }
  | _ => s
/-- A trap on a second detaches it alone (R63); the lead of none that are left still ends its rope by UNROPE. -/
def leaveRope (s : State) (n k : Nat) : State :=
  match (ctxAt s n k).rope with
  | .second lc lk =>
    let s := modCtx (thaw s (ctxAt s n k)) lc lk fun c =>
      { c with rope := match c.rope with
          | .lead l => .lead (l.filter fun e => !(e.1 == n && e.2.1 == k))
          | r => r }
    modCtx s n k fun c => { c with rope := .none, fwd := [] }
  | _ => endRope s n k

/-- The 64-byte stop report (R354), dword by dword (DEDUCED, log 114). -/
def stopReport (s : State) (n k : Nat) (t : Option TrapReq) : List Dword :=
  let c := ctxAt s n k
  let (cause, sub, val, pc) := match t with | some t => (t.cause, t.sub, t.val, t.bpc.getD t.tpc) | none => (0, 0, 0, c.npc)
  [dn (n + k * 2 ^ 10 + cause * 2 ^ 16 + sub * 2 ^ 24), val, dn pc, c.tstat, c.tpc, c.tcause, c.tval, dn s.cycle]
/-- A stop (R354): the context stays running, stopped; firmware reports it, raises the stop
interrupt, and while DUMP is open dumps the core (R379) (DEDUCED, log 75; DEDUCED, log 99; DEDUCED, log 114). -/
def stopCtx (s : State) (n k : Nat) (t : Option TrapReq) : State :=
  let p := partOf s n
  let r := stopReport s n k t
  let s := trace s n k 6 (ctxAt s n k).pc 0
  let s := modPart s p fun x =>
    { x with stopLog := fset x.stopLog (x.stopHead % 63) r, stopHead := x.stopHead + 1, msix := x.msix ++ [0],
             dumpDue := if x.policy.getLsbD 4 then x.dumpDue ++ [(n, s.cycle)] else x.dumpDue }
  modCtx s n k fun c => { c with stopped := true, wait := none }

/-- Handler entry (R353): a task is aborted and its record requeued, the lease and the rope end, the trap
registers are written, and the pc goes to the handler; with TRAPVEC.EN = 0 the context stops. -/
def enterTrap (s : State) (n k : Nat) (t : TrapReq) : State :=
  let c := ctxAt s n k
  let task := isTask c
  let nsend := if task then c.sends.length else 0
  let s := match task, c.record with
    | true, some r =>
      let s := modCtx s n k fun c => { c with sends := [] }
      requeue s n k { r with trapped := true, tcause := BitVec.ofNat 8 t.cause, nsend := BitVec.ofNat 8 nsend }
    | _, _ => s
  let s := trace (leaveRope (endLease s n k) n k) n k 4 (t.bpc.getD t.tpc) (dn (t.cause + t.sub * 256))
  let vec := (coreAt s n).trapvec
  let pc := 8 * bits vec.toNat 0 16
  let s := modCtx s n k fun c =>
    { c with tstat := tstatAt c.tstat nsend task t.rpc, tpc := dn (t.tpc % 2 ^ 19 / 8 * 8),
             tcause := dn (t.cause + t.sub * 256), tval := t.val, budget0 := s.cycle, trapWait := none,
             wait := none, pc := pc, npc := pc }
  if vec.getLsbD 63 then s
  else
    let s := modCtx s n k fun c => { c with pc := t.tpc, npc := t.tpc }
    stopCtx s n k (some { cause := 0, val := 0, tpc := t.tpc })

/-- TakeTrap (R353) for a context: a stop while the handler is active, which ends its lease like any trap (R258), else
entry once the context's copies without a handler, its array commands and its seconds' bundles are complete. -/
def takeTrapAt (s : State) (n k : Nat) (t : TrapReq) : State :=
  let c := ctxAt s n k
  if tsActive c.tstat then stopCtx (endLease s n k) n k (some t)
  else if copiesLeft s n k || commandsLeft s n k || secondsLag s n k then
    modCtx s n k fun c => { c with trapWait := some t }
  else enterTrap s n k t
/-- TakeTrap for the context that issues. -/
def takeTrap (s : State) (t : TrapReq) : State := takeTrapAt s s.core s.ctx t

/-- The return from a handler (R359), past its checks: ACTIVE and RPV fall, the pc goes to TPC. -/
def trapReturn (c : Ctx) : Ctx :=
  { c with tstat := c.tstat &&& ~~~(dn 0x81), npc := c.tpc.toNat % 2 ^ 19 / 8 * 8 }

/-- The task's entry once its body entry is read (R24): a bad entry traps ILL STATE, an absent one OVERLAY,
with TPC the entry's PC; else the context begins there. -/
def finishStart (s : State) (n k b e : Nat) : State :=
  let home := Config.isHome n
  let pc := bodyPc home e
  let s := modCtx s n k fun c => { c with starting := none, pc := pc, npc := pc }
  let s := trace s n k 1 pc (ctxAt s n k).msgid
  if !(bodyValid e && (if home then bodyNear e else bodyFar e)) then
    takeTrapAt s n k { cause := 1, sub := 7, val := dn b, tpc := pc }
  else if bodyAbsent home e then takeTrapAt s n k { cause := 5, val := dn b, tpc := pc }
  else s
/-- What the body cache of a core holds for a body of its table (R21, R24, R98). -/
def bodyAt (c : Core) (b : Nat) : Option Dword := ffind c.bodies (bodyVa c.bodytab b)
/-- The read of a body entry at a delivery (R24): the core's body cache, else an access of the context
(DESIGN CHOICE, log 17; DEDUCED, log 78). -/
def startBody (s : State) (n k b : Nat) : State :=
  match bodyAt (coreAt s n) b with
  | some e => finishStart s n k b e.toNat
  | none =>
    let s := modCtx s n k fun c => { c with starting := some b }
    submit s { kind := .body (bodyVa (coreAt s n).bodytab b), core := n, ctx := k, part := partOf s n, pc := 0, word := 0, blocking := true,
               pieces := pieces (bodyVa (coreAt s n).bodytab b) 8 false 0 1 }
/-- Delivery of a record to a context (R38, R348, R356): x4 to x10, ANCB, ANCL and MSGID; Acquire(dev, anchor)
before anything of the task executes. -/
def deliver (s : State) (n k : Nat) (r : TaskRecord) : State :=
  let s := beginCtx s n k 0 r.cls
  let s := modCtx s n k fun c =>
    let c := writeX (writeX (writeX c 4 (dn r.lo)) 5 (dn r.len)) 6 r.mid
    let c := writeX (writeX (writeX (writeX c 7 r.arg0) 8 r.arg1) 9 r.arg2) 10 r.arg3
    { c with ancb := dn r.lo, ancl := dn r.len, msgid := r.mid, record := some r, start := .task (midSlice r.mid),
             tstat := if r.trapped then dn (2 ^ 6 + r.nsend.toNat * 2 ^ 24) else 0,
             tcause := if r.trapped then dn r.tcause.toNat else c.tcause }
  startBody (acquireRange s n r.lo r.hi) n k r.body.toNat

/-- The messages that a send buffer's entries become, in issue order (R12, R25, R39) (DEDUCED, log 108). -/
def sendMsgs (n p : Nat) (e : SendEntry) : List Msg :=
  match e.dest with
  | .home slice => [{ src := n, body := .enqueue slice p e.record }]
  | .core c => [{ src := n, body := .inbound c p (.task e.record false) }]
  | .set cs => cs.map fun c => { src := n, body := .inbound c p (.task e.record false) }
def flushSends (s : State) (n k : Nat) : State :=
  let c := ctxAt s n k
  let ms := ((c.sends.map (sendMsgs n (partOf s n))).flatten).map fun m => { m with ctx := some k }
  modCtx { s with msgs := s.msgs ++ ms } n k fun c => { c with sends := [] }
/-- The retirement of a task that came from a home queue (R39, R134). -/
def retirement (s : State) (n k : Nat) : State :=
  let c := ctxAt s n k
  match c.start, c.record with
  | .task (some slice), some r => { s with msgs := s.msgs ++ [{ src := n, body := .retire slice (partOf s n) r.mid, ends := some k }] }
  | _, _ => s
/-- A record that the context sent has not been enqueued yet (R26, R27). -/
def sendsOut (s : State) (n k : Nat) : Bool := s.msgs.any fun m => m.src == n && m.ctx == some k

/-- The end of a unit of work after its release and sends: dormant once every record that it sent has been enqueued, so
that it waits with one at a full queue (R26, R27, R134) (DEDUCED, log 120). -/
def endOrWait (s : State) (n k : Nat) (i : Instr) : State :=
  if sendsOut s n k then
    modCtx s n k fun c =>
      { c with wait := some { instr := i, ops := c.regs, pc := c.pc, sub := .barrier, fate := .defer, fin := .dormant } }
  else makeDormant s n k

end Sys2Proof.Machine
end

