-- ==== Sys2Proof/Machine/Control.lean ====
section
/-! DEFINITION. Control registers (spec/06 R119-R125): what each reads, the checks a write must pass, and the
write with its clamps (R21, R51, R65, R96, R107, R221, R231, R260-R263, R338, R347-R349, R374). -/

namespace Sys2Proof.Machine

/-- PRIO (R51). -/
def prioWord (s : State) (n k : Nat) : Dword :=
  let c := ctxAt s n k
  dn (c.base.toNat + c.inh.toNat * 4 + effClass s n k * 16)
/-- GSLOTi (R53). -/
def gslotWord (c : Core) (i : Nat) : Dword :=
  match c.gslots.getD i none with
  | some g => dn (2 ^ 63 + g)
  | none => 0
/-- CLUSID (R120). -/
def clusid (s : State) (n : Nat) : Dword := dn (bit01 (Config.isHome n) * 2 ^ 63 + clusterFor s n)

/-- What CRRD reads (R119, R120): `r` holds the context's registers as the bundle read them
(DEDUCED, log 103; DEDUCED, log 109). -/
def crRead (s : State) (n k : Nat) (r : Regs) (crn : Nat) : Dword :=
  let core := coreAt s n
  let c := ctxAt s n k
  let p := partAt s (partOf s n)
  match crn with
  | 0x000 => dn core.xb
  | 0x001 => core.bodytab
  | 0x002 => core.tbudget
  | 0x003 => prioWord s n k
  | 0x004 => gslotWord core 0
  | 0x005 => gslotWord core 1
  | 0x006 => gslotWord core 2
  | 0x007 => gslotWord core 3
  | 0x010 => core.trapvec
  | 0x011 => core.upcvec
  | 0x012 => c.tstat
  | 0x013 => c.tpc
  | 0x014 => c.tcause
  | 0x015 => c.tval
  | 0x020 => c.msgid
  | 0x021 => c.ancb
  | 0x022 => c.ancl
  | 0x023 => dn k
  | 0x024 => dn n
  | 0x025 => clusid s n
  | 0x026 => dn (Config.dieOf n)
  | 0x027 => dn (partOf s n)
  | 0x030 => dn s.cycle
  | 0x031 => p.sampcfg
  | 0x040 => r.frm
  | 0x041 => r.fmta
  | 0x042 => r.fmtb
  | 0x043 => r.fmto
  | 0x044 => r.scla
  | 0x045 => r.sclb
  | 0x046 => r.mround
  | 0x050 => r.npeps
  | 0x060 => core.htable
  | 0x070 => p.ptroot
  | 0x071 => p.walkcfg
  | _ => 0
/-- The late registers (R119) (DEDUCED, log 103). -/
def crLate (crn : Nat) : Bool := crn == 0x031 || crn == 0x070 || crn == 0x071

/-- The sampling facility is open (R367, R396). -/
def sampleOpen (p : Partition) : Bool := p.policy.getLsbD 2
/-- Registers that partition-mode code may not write (R119). -/
def crReadOnly (s : State) (n crn : Nat) : Bool :=
  (4 ≤ crn && crn ≤ 7) || (0x20 ≤ crn && crn ≤ 0x27) || crn == 0x30 || crn == 0x70 || crn == 0x71 ||
  (crn == 0x31 && !sampleOpen (partAt s (partOf s n)))
/-- An EPS below zero, infinite or NaN (R231). -/
def badEps (w : Nat) : Bool :=
  match decodeF f32 w with
  | .nan _ => true
  | .inf _ => true
  | .fin neg m _ _ => neg && m != 0
/-- A value the register's map forbids (R123): a nonzero reserved bit, or a forbidden field. -/
def crForbids (n crn : Nat) (v : Dword) : Bool :=
  let w := v.toNat
  match crn with
  | 0x000 => bits w 20 44 != 0 || bits w 0 3 != 0
  | 0x001 => bits w 57 7 != 0 || bits w 1 12 != 0
  | 0x002 => bits w 40 24 != 0
  | 0x003 => bits w 2 62 != 0
  | 0x010 => bits w 16 47 != 0
  | 0x011 => bits w 19 44 != 0 || (Config.isHome n && decide (3 < bits w 16 3))
  | 0x013 => bits w 19 45 != 0 || bits w 0 3 != 0
  | 0x014 => bits w 16 48 != 0
  | 0x031 => bits w 60 3 != 0 || bits w 13 7 != 0 || bits w 0 8 != 0 || decide (7 < bits w 56 4) ||
      decide (bits w 8 5 < 10) || decide (30 < bits w 8 5)
  | 0x040 => bits w 13 51 != 0 || bits w 4 4 != 0 || decide (5 < bits w 0 3)
  | 0x041 => bits w 15 49 != 0 || bits w 4 5 != 0
  | 0x042 => bits w 15 49 != 0 || bits w 4 5 != 0
  | 0x043 => bits w 4 60 != 0
  | 0x044 => bits w 24 8 != 0 || bits w 0 3 != 0
  | 0x045 => bits w 24 8 != 0 || bits w 0 3 != 0
  | 0x046 => bits w 3 61 != 0 || decide (5 < bits w 0 3)
  | 0x050 => bits w 32 32 != 0 || badEps (bits w 0 32)
  | 0x060 => bits w 28 36 != 0
  | _ => false
/-- The trap a write of v takes (R123): ILL STATE, with the value in TVAL (R91). -/
def crTrap (s : State) (n crn : Nat) (v : Dword) : Option Dword :=
  if crReadOnly s n crn || crForbids n crn v then some v else none

/-- TBUDGET's clamps (R65). -/
def clampBudget (ceiling : BitVec 40) (v : Dword) : Dword :=
  let l := max v.toNat 4096
  dn (min l ceiling.toNat)
/-- XB's clamp (R96). -/
def clampXb (n : Nat) (v : Dword) : Nat := min (bits v.toNat 3 17 * 8) (Config.tcmSize n)
/-- CRWR to BODYTAB completes when every core of the partition holds the value (R21) (DEDUCED, log 104). A core's body
cache keeps what it holds of other tables (R98). -/
def setBodytab (s : State) (p : Nat) (v : Dword) : State :=
  let s := { s with cores := s.cores.map fun (e : Nat × Core) =>
    if e.2.part == some p then (e.1, { e.2 with bodytab := v }) else e }
  modPart s p fun x => { x with bodytab := v }
/-- The writable fields of TSTAT (R348). -/
def tstatRz : Dword := 0xFFFF1E
/-- CRWR's write, past its checks (R123) (DEDUCED, log 104). -/
def crWrite (s : State) (n k crn : Nat) (v : Dword) : State :=
  let reg (f : Regs → Regs) : State := modCtx s n k fun c => { c with regs := f c.regs }
  match crn with
  | 0x000 => modCore s n fun c => { c with xb := clampXb n v }
  | 0x001 => setBodytab s (partOf s n) v
  | 0x002 => modCore s n fun c => { c with tbudget := clampBudget (partAt s (partOf s n)).ceiling v }
  | 0x003 => refreshInh (modCtx s n k fun c => { c with base := BitVec.ofNat 2 v.toNat }) (partOf s n)
  | 0x010 => modCore s n fun c => { c with trapvec := v }
  | 0x011 => modCore s n fun c => { c with upcvec := v }
  | 0x012 => modCtx s n k fun c => { c with tstat := (c.tstat &&& ~~~tstatRz) ||| (v &&& tstatRz) }
  | 0x013 => modCtx s n k fun c => { c with tpc := v }
  | 0x014 => modCtx s n k fun c => { c with tcause := v }
  | 0x015 => modCtx s n k fun c => { c with tval := v }
  | 0x031 => modPart s (partOf s n) fun p =>
    { p with sampcfg := v, sampCount := if v.getLsbD 63 && !p.sampcfg.getLsbD 63 then 0 else p.sampCount }
  | 0x040 => reg fun r => { r with frm := v }
  | 0x041 => reg fun r => { r with fmta := v }
  | 0x042 => reg fun r => { r with fmtb := v }
  | 0x043 => reg fun r => { r with fmto := v }
  | 0x044 => reg fun r => { r with scla := v }
  | 0x045 => reg fun r => { r with sclb := v }
  | 0x046 => reg fun r => { r with mround := v }
  | 0x050 => reg fun r => { r with npeps := v }
  | 0x060 => modCore s n fun c => { c with htable := v }
  | _ => s

end Sys2Proof.Machine
end

