-- ==== Sys2Proof/Machine/Streams.lean ====
section
/-! DEFINITION. Stream engines (spec/11 R218, R219; spec/14 R252-R254): beats of local and virtual streams,
popping and pushing, and the vector write that pushes to a bound register; plain accesses to TCM and
scratchpad (spec/09 R150, R151; spec/05 R97). -/

namespace Sys2Proof.Machine

/-- The XB boundary in bytes (R96). -/
def boundary (s : State) (core : Nat) : Nat := bits (coreAt s core).xb 3 17 * 8
/-- R97: the fault of a tcm: data access (DEDUCED, log 60). -/
def tcmFault (s : State) (core off size : Nat) : Option Nat :=
  if off < boundary s core then some 4
  else if Config.tcmSize core < off + size then some 6 else none
/-- R151: the fault of an spm: access (DEDUCED, log 60). -/
def spmFault (core off size : Nat) : Option Nat :=
  if Config.spmSize < off + size then some 6 else if Config.isHome core then some 7 else none
def tcmRead (s : State) (core off n : Nat) : Nat := readBytes (coreAt s core).tcm off n
def tcmWrite (s : State) (core off n v : Nat) : State :=
  modCore s core fun c => { c with tcm := writeBytes c.tcm off n v }

/-- The engine and stream bound to a vector register. -/
def boundTo (c : Ctx) (vd : Nat) : Option (Nat × Stream) := c.streams.find? fun e => e.2.vd == vd
def streamDone (st : Stream) : Bool := decide (beatCount st.bound ≤ st.count)
def streamAddr (st : Stream) (e : Nat) : Nat := elemAddr st.base st.stride st.bound e
/-- The fault of an element before it is accessed (R201, R252): ALIGN, or its space's range. -/
def elemFault (s : State) (core : Nat) (st : Stream) (a : Nat) : Option Nat :=
  let n := elemSize st.elem
  match st.space with
  | 0 => if badVa a n then some 0x19 else if a % n != 0 then some 3 else none
  | 1 => match tcmFault s core a n with | some f => some f | none => if a % n != 0 then some 3 else none
  | _ => match spmFault core a n with | some f => some f | none => if a % n != 0 then some 3 else none
/-- The elements of a beat: lane and address. -/
def beatElems (st : Stream) (b : Nat) : List (Nat × Nat) :=
  ((List.range 256).filter fun i => 256 * b + i < elemCount st.bound).map fun i => (i, streamAddr st (256 * b + i))
/-- The first faulting element of a beat. -/
def beatFault (s : State) (core : Nat) (st : Stream) (b : Nat) : Option VaFault :=
  (beatElems st b).findSome? fun e =>
    match elemFault s core st e.2 with | some f => some { cause := f, sub := 0, va := e.2 } | none => none

/-- A beat of a TCM stream as its memory stands: lanes, lane mask, fault. What lanes the bundle reads that pops a
beat with a fault the spec does not say: zeros, with the beat's own lane mask (DESIGN CHOICE, log 119). -/
def beatRead (s : State) (core : Nat) (st : Stream) (b : Nat) : Vec × Pred × Option VaFault :=
  match beatFault s core st b with
  | some f => (0, beatMask st.bound b, some f)
  | none =>
    let n := elemSize st.elem
    let lanes := vecOf fun i =>
      if 256 * b + i < elemCount st.bound then
        elemRead st.elem (tcmRead s core (streamAddr st (256 * b + i)) n) else 0
    (lanes, beatMask st.bound b, none)
/-- The ready beat of a read stream with its fault (R218, R254): one read ahead, or one of TCM read when it is popped,
which is always ready (DESIGN CHOICE, log 119). A done stream reads zero with no lane. -/
def beatNow (s : State) (core : Nat) (st : Stream) : Option (Vec × Pred × Option VaFault) :=
  if streamDone st then some (0, 0, none)
  else match ffind st.ready st.count with
    | some b => some b
    | none => if st.space = 1 then some (beatRead s core st st.count) else none

/-- The first beat of the eight from the next on that the engine has neither read nor asked for (R218). -/
def nextBeat (s : State) (n k eng : Nat) (st : Stream) : Option Nat :=
  if st.write then none
  else ((List.range 8).map (st.count + ·)).find? fun b =>
    decide (b < beatCount st.bound) && (ffind st.ready b).isNone &&
      !(accessesOf s n k).any fun a => a.kind == .streamRead eng b
/-- The engine reads a beat ahead (R218): of TCM at once, of virtual memory and of the scratchpad by an access of its
context (R151, R152). -/
def readBeat (s : State) (n k eng : Nat) (st : Stream) (b : Nat) : State :=
  let keep (x : Vec × Pred × Option VaFault) : State :=
    modCtx s n k fun c => { c with streams := fset c.streams eng { st with ready := fset st.ready b x } }
  if st.space = 1 then keep (beatRead s n st b)
  else match beatFault s n st b with
    | some f => keep (0, beatMask st.bound b, some f)
    | none =>
      let w := elemSize st.elem
      let ps := (beatElems st b).map fun e => ({ va := e.2, size := w, pos := e.1 * w, write := false } : Piece)
      submit s { kind := .streamRead eng b, core := n, ctx := k, part := partOf s n, pc := (ctxAt s n k).pc, word := 0,
                 pieces := ps, data := 0, spm := st.space == 2 }
/-- (DEDUCED, log 65) -/
def aheadOn (s : State) (n k eng : Nat) : State :=
  match ffind (ctxAt s n k).streams eng with
  | none => s
  | some st => match nextBeat s n k eng st with
    | some b => readBeat s n k eng st b
    | none => s
/-- A virtual stream asks for its next beat as soon as it can (DEDUCED, log 51). -/
def readAhead (s : State) (eng : Nat) : State :=
  match ffind (cur s).streams eng with
  | none => s
  | some st => if st.space = 0 then aheadOn s s.core s.ctx eng else s
/-- A read in a bundle pops the beat, once (R83, R254); a beat that holds a fault refuses the popping bundle
(R218) (DEDUCED, log 51). -/
def popBeat (s : State) (eng : Nat) : State :=
  match ffind (cur s).streams eng with
  | none => s
  | some st =>
    if streamDone st then
      let st' := { st with mask := 0 }
      modCur s fun c => { c with streams := fset c.streams eng st' }
    else
      let fault := match beatNow s s.core st with | some (_, _, f) => f | none => none
      let st' := { st with count := st.count + 1, ready := fdel st.ready st.count, mask := beatMask st.bound st.count }
      let s := modCur s fun c =>
        { c with streams := fset c.streams eng st',
                 refusals := match fault with
                   | some f => c.refusals ++ [{ cause := f.cause, sub := f.sub, tval := dn f.va, rpc := c.pc }]
                   | none => c.refusals }
      readAhead s eng

/-- The random value of stochastic rounding for a lane of the issuing context (R249) (DEDUCED, log 61). -/
def srLane (s : State) (row col : Nat) : Nat := srHash (gOf s.core s.ctx) (cur s).icount row col

/-- The stored parts of a pushed beat: lane, address, element; and their flags (R253, R254). -/
def pushParts (s : State) (st : Stream) (mask : Pred) (v : Vec) : List (Nat × Nat × Nat × Flags) :=
  let rm := rmOf (match s.latch with | some r => r | none => (cur s).regs)
  ((beatElems st st.count).filter fun e => mask.getLsbD e.1).map fun e =>
    let x := elemWrite st.elem rm (srLane s 0 e.1) (lane v e.1)
    (e.1, e.2, x.1, x.2)
/-- A write of a bound register pushes one beat (R254): enabled lanes whose element exists are stored in
element order; an element fault is a refusal of the pushing bundle. -/
def pushLocal (s : State) (st : Stream) : List (Nat × Nat × Nat × Flags) → State
  | [] => s
  | (_, a, w, _) :: l =>
    match elemFault s s.core st a with
    | some f => modCur s fun c => { c with refusals := c.refusals ++ [{ cause := f, sub := 0, tval := dn a, rpc := c.pc }] }
    | none =>
      let n := elemSize st.elem
      pushLocal (tcmWrite s s.core a n w) st l
def pushBeat (s : State) (eng : Nat) (st : Stream) (mask : Pred) (v : Vec) : State :=
  let ps := pushParts s st mask v
  let fl := ps.foldl (fun f p => f ||| p.2.2.2) (0 : Flags)
  let s := modCur s fun c =>
    orFlags { c with streams := fset c.streams eng { st with count := st.count + 1 } } fl
  if st.space = 1 then pushLocal s st ps
  else
    let n := elemSize st.elem
    let good := ps.takeWhile fun p => (elemFault s s.core st p.2.1).isNone
    let data := good.foldl (fun d p => d + p.2.2.1 % 2 ^ (8 * n) * 2 ^ (8 * n * p.1)) 0
    let a := accessOf s (.streamWrite eng) 0 (good.map fun p => { va := p.2.1, size := n, pos := p.1 * n, write := true }) data false
    let s := submit s { a with spm := st.space == 2 }
    match ps.drop good.length with
    | [] => s
    | p :: _ => modCur s fun c =>
      { c with refusals := c.refusals ++
          [{ cause := (elemFault s s.core st p.2.1).getD 0, sub := 0, tval := dn p.2.1, rpc := c.pc }] }

/-- A vector write of the issuing context under a mask: a register bound to a write stream pushes, another merges lanes
(R83, R276); one that the bundle's own SBIND has bound to a read stream takes the write itself (DESIGN CHOICE, log 136).
-/
def putLanes (s : State) (vd : Nat) (mask : Pred) (f : Nat → Word) : State :=
  let plain : State := modCur s fun c => writeV c vd (merge mask (rv c.regs vd) f)
  match boundTo (cur s) vd with
  | some (eng, st) => if st.write then pushBeat s eng st mask (vecOf f) else plain
  | none => plain

end Sys2Proof.Machine
end

