-- ==== Sys2Proof/Machine/Operands.lean ====
section
/-! DEFINITION. Operand forms: the register sources and destinations of every instruction (spec/05 R84-R90,
spec/11 R199, R218, R220, spec/07 R129-R131), immediates and memory addresses (spec/05 R85, R86; spec/11
R199). -/

namespace Sys2Proof

/-- A register source: file 0 x, 1 v; `w` is its w bit (R89: sources without one read as w = 1). -/
structure Src where
  file : Nat
  reg  : Nat
  w    : Bool
  deriving DecidableEq, Repr

def sx (r : BitVec 6) (w : BitVec 1) : Src := { file := 0, reg := r.toNat, w := w == 1 }
def sxw (r : BitVec 6) : Src := { file := 0, reg := r.toNat, w := true }
def sxn (n : Nat) : Src := { file := 0, reg := n, w := true }
def sv (r : BitVec 6) (w : BitVec 1) : Src := { file := 1, reg := r.toNat, w := w == 1 }
def svw (r : BitVec 6) : Src := { file := 1, reg := r.toNat, w := true }

/-- x4, x5 and x7 to x10, which SEND and SENDG read besides their fields, and x7 to x10 of the spawns
(R89, R130, R131). -/
def argSrcs : List Src := [sxn 7, sxn 8, sxn 9, sxn 10]

/-- The register sources of an instruction in the order rs1, rs2, rd read as a source, then those beyond the
body fields (R89, R90). -/
def srcs : Instr → List Src
  | .add _ f | .sub _ f | .and _ f | .or _ f | .xor _ f | .sll _ f | .srl _ f | .sra _ f | .slt _ f
  | .sltu _ f | .min _ f | .max _ f | .minu _ f | .maxu _ f | .mul _ f | .mulh _ f | .mulhu _ f
  | .div _ f | .divu _ f | .rem _ f | .remu _ f | .addsh _ f | .bext _ f | .bdep _ f | .sel _ f
  | .fadd _ f | .fsub _ f | .fmul _ f | .fdiv _ f | .fmin _ f | .fmax _ f | .fcmp _ f =>
    [sx f.rs1 f.w1, sx f.rs2 f.w2]
  | .fma _ f => [sx f.rs1 f.w1, sx f.rs2 f.w2, sxw f.rd]
  | .clz _ f | .ctz _ f | .popc _ f | .fsqrt _ f | .fclass _ f | .fcvt _ f | .vbcast _ f | .pset _ f =>
    [sx f.rs1 f.w1]
  | .addi _ f | .andi _ f | .ori _ f | .xori _ f | .slli _ f | .srli _ f | .srai _ f | .slti _ f
  | .sltiu _ f | .jr f | .jrl f => [sx f.rs1 f.w1]
  | .lih _ f => [sxw f.rd]
  | .li _ _ | .br _ | .brl _ | .crrd _ | .crsetb _ | .crclrb _ | .synci _ | .fence _ | .sunbind _ | .cpyq _
  | .take _ | .stealAny _ | .tend _ | .tabort _ | .qdepthIn _ | .gjoin _ | .gleave _ | .gtag _ | .gbar _
  | .garrive _ | .gwait _ | .wfa _ | .semp _ | .semv _ | .semtry _ | .prio _ | .unrope _ | .ropeck _
  | .belay _ | .unbelay _ | .mwait _ | .mstat _ | .mmul _ | .mclr _ | .trap _ | .tret _ | .upcret _
  | .replayall _ | .dbrk _ | .aclr _ _ | .amovFromAcc _ _ | .pand _ _ | .por _ _ | .pxor _ _ | .pnot _ _
  | .pcnt _ _ | .pfirst _ _ | .vnar _ _ => []
  | .bcEq f | .bcNe f | .bcLt f | .bcGe f | .bcLtu f | .bcGeu f => [sx f.rs1 f.w1, sx f.rs2 f.w2]
  | .bcz f => if f.vec == 1 then [] else [sx f.rs f.w1]
  | .loop f => [sx f.rs f.w1]
  | .crwr f => [sx f.x f.w]
  | .waitf f => if f.func == 1 then [sv f.rs1 f.w1] else [sx f.rs1 f.w1]
  | .ldb f | .ldbu f | .ldh f | .ldhu f | .ldw f | .ldwu f | .ldd f | .ldv f => [sx f.rs1 f.w1]
  | .stb f | .sth f | .stw f | .std f => [sx f.rs1 f.w1, sx f.rs2 f.w2]
  | .stv f => [sx f.rs1 f.w1, sv f.rs2 f.w2]
  | .ldaq f => [sx f.rs1 f.w1]
  | .strl f => [sx f.rs1 f.w1, sx f.rs2 f.w2]
  | .ldvx f => [sx f.rs1 f.w1, sv f.rs2 f.w2]
  | .stvx f => [sx f.rs1 f.w1, sv f.rs2 f.w2, svw f.rd]
  | .pref f | .invr f | .wbr f | .regset f | .wsclr f | .publ f | .mgath f | .mscale f | .npred f
  | .ctxsave f | .xinv f => [sx f.rs1 f.w1, sx f.rs2 f.w2]
  | .send f | .sendg f => [sx f.rs1 f.w1, sx f.rs2 f.w2, sxn 4, sxn 5] ++ argSrcs
  | .amoadd f | .amoand f | .amoor f | .amoxor f | .amomin f | .amomax f | .amominu f | .amomaxu f
  | .amoswp f | .amofadd f | .amoaddt f => [sx f.rs1 f.w1, sx f.rs2 f.w2]
  | .amocas f => [sx f.rs1 f.w1, sx f.rs2 f.w2, sxw f.rd]
  | .sigclr f | .regclr f | .retype f | .steal f | .qdepth f | .mldb f | .mmuls f | .mstore f | .npcfg f
  | .ncheck f | .ctxload f => [sx f.rs1 f.w1]
  | .sbind f => (List.range 8).map fun i => sxn (f.rs1.toNat + i)
  | .cpy f | .cpym f | .cpyw f => [sxw f.rdst, sxw f.rsrc, sxw f.rlen]
  | .cpy2 f => [sxw f.rdst, sxw f.rsrc, sxw f.rlen, sxn (f.rlen.toNat + 1)]
  | .spawn f => [sxw f.rb, sxw f.rl] ++ argSrcs
  | .spawnh f => [sxw f.rb, sxw f.rl, sxw f.rt] ++ argSrcs
  | .treel f => [sxw f.rap]
  | .rope _ => [sxn 3]
  | .vadd _ f | .vsub _ f | .vmul _ f | .vmac _ f | .vmin _ f | .vmax _ f | .vand _ f | .vor _ f | .vxor _ f
  | .vsll _ f | .vsrl _ f | .vsra _ f | .vcmp _ f | .vsel _ f | .vperm _ f | .vunpkbZx8 _ f =>
    [sv f.rs1 f.w1, sv f.rs2 f.w2]
  | .vfma _ f => [sv f.rs1 f.w1, sv f.rs2 f.w2, svw f.rd]
  | .vabs _ f | .vneg _ f | .vsllImm _ f | .vsrlImm _ f | .vsraImm _ f | .vred _ f | .vcvt _ f | .vexp2 _ f
  | .vrcp _ f | .vrsq _ f | .vlog2 _ f | .vnzc _ f | .vbmap _ f | .vpackb _ f | .vunpkb _ f =>
    [sv f.rs1 f.w1]
  | .vext _ f => [sv f.rs1 f.w1, sx f.rs2 f.w2]
  | .vidx _ f | .vidxI32 _ f => [sx f.rs2 f.w2]
  | .amovToAcc _ f => if f.func.toNat < 2 then [sv f.rs1 f.w1] else [sv f.rs1 f.w1, sv f.rs2 f.w2]
  | .launchTreeMessage _ | .arrayCommandStart _ | .valueArrival _ _ _ | .refusal _ _ | .budget _ _
  | .enqueue _ | .retirement _ | .inboundDelivery _ | .upcallStart _ | .pageWalk _ _
  | .monitorRewalk _ | .transientTimeout _ | .persistentActivate _ _ | .copyComplete _ _
  | .belayGrant _ | .powerLeaveGrant _ _ | .limitChange _ _ _ | .preemptionRequest _
  | .preemptionLift _ | .consistentCut _ _ | .marker _ _ _ | .cutResume _ | .launchRecord _ _
  | .loadRecord _ _ | .releaseRecord _ _ | .hostRead _ _ _ | .hostWrite _ _ _ | .partitionCreate _
  | .partitionTeardown _ | .coldStart | .warmStart _ | .getVersion _ | .getCapabilities _
  | .negotiateAlgorithms _ | .getDigests _ | .getCertificate _ | .challenge _ _
  | .getMeasurements _ _ _ | .keyExchange _ _ | .finish _ _ | .endSession _
  | .vendorDefinedRequest _ _ | .halt _ | .resume _ | .debugRegisterWrite _ _ _ | .sampleTick _
  | .hbmReadError _ | .hbmRetry _ _ | .lifetimeFlush _ | .counterRead | .overlayFetch _ _
  | .unassignedBundle _ _ | .tdispRequest _ _ | .peerRequest _ | .pcieLinkDown _ | .dumpRequest _ => []

/-- A register destination: file 0 x, 1 v, 2 acc, 3 p. -/
abbrev Dst := Nat × Nat
def dx (r : BitVec 6) : List Dst := [(0, r.toNat)]
def dv (r : BitVec 6) : List Dst := [(1, r.toNat)]
def dacc (r : BitVec 6) : List Dst := [(2, r.toNat)]
def dp (r : BitVec 6) : List Dst := [(3, r.toNat)]

/-- The registers an instruction writes through a body field (R84) (DEDUCED, log 110). -/
def dests : Instr → List Dst
  | .add _ f | .sub _ f | .and _ f | .or _ f | .xor _ f | .sll _ f | .srl _ f | .sra _ f | .slt _ f
  | .sltu _ f | .min _ f | .max _ f | .minu _ f | .maxu _ f | .mul _ f | .mulh _ f | .mulhu _ f
  | .div _ f | .divu _ f | .rem _ f | .remu _ f | .addsh _ f | .bext _ f | .bdep _ f | .sel _ f
  | .fadd _ f | .fsub _ f | .fmul _ f | .fdiv _ f | .fmin _ f | .fmax _ f | .fcmp _ f | .fma _ f
  | .clz _ f | .ctz _ f | .popc _ f | .fsqrt _ f | .fclass _ f | .fcvt _ f => dx f.rd
  | .addi _ f | .andi _ f | .ori _ f | .xori _ f | .slli _ f | .srli _ f | .srai _ f | .slti _ f
  | .sltiu _ f | .jrl f => dx f.rd
  | .li _ f | .lih _ f => dx f.rd
  | .brl f => dx f.rd
  | .loop f => dx f.rs
  | .crrd f => dx f.x
  | .ldb f | .ldbu f | .ldh f | .ldhu f | .ldw f | .ldwu f | .ldd f => dx f.rd
  | .ldv f => dv f.rd
  | .ldaq f => dx f.rd
  | .ldvx f => dv f.rd
  | .amoadd f | .amoand f | .amoor f | .amoxor f | .amomin f | .amomax f | .amominu f | .amomaxu f
  | .amoswp f | .amofadd f | .amoaddt f | .amocas f => dx f.rd
  | .sunbind f => dv f.vd
  | .cpyq f => dx f.rdst
  | .take f | .steal f | .stealAny f | .qdepth f | .qdepthIn f | .wfa f | .mstat f | .npred f | .ncheck f
  | .ctxload f => dx f.rd
  | .semtry f => dx f.rd
  | .vadd _ f | .vsub _ f | .vmul _ f | .vmin _ f | .vmax _ f | .vand _ f | .vor _ f | .vxor _ f
  | .vsll _ f | .vsrl _ f | .vsra _ f | .vsel _ f | .vperm _ f | .vunpkbZx8 _ f | .vfma _ f
  | .vabs _ f | .vneg _ f | .vsllImm _ f | .vsrlImm _ f | .vsraImm _ f | .vcvt _ f | .vexp2 _ f
  | .vrcp _ f | .vrsq _ f | .vlog2 _ f | .vpackb _ f | .vunpkb _ f | .vbcast _ f | .vidx _ f
  | .vidxI32 _ f | .vnar _ f | .amovFromAcc _ f => dv f.rd
  | .vcmp _ f | .vbmap _ f | .pand _ f | .por _ f | .pxor _ f | .pnot _ f | .pset _ f => dp f.rd
  | .vext _ f | .vred _ f | .vnzc _ f | .pcnt _ f | .pfirst _ f => dx f.rd
  | .vmac _ f | .aclr _ f | .amovToAcc _ f => dacc f.rd
  | .br _ | .jr _ | .bcEq _ | .bcNe _ | .bcLt _ | .bcGe _ | .bcLtu _ | .bcGeu _ | .bcz _ | .crwr _
  | .crsetb _ | .crclrb _ | .waitf _ | .synci _ | .stb _ | .sth _ | .stw _ | .std _ | .strl _ | .stv _
  | .stvx _ | .pref _ | .invr _ | .wbr _ | .fence _ | .sigclr _ | .regset _ | .regclr _ | .retype _
  | .wsclr _ | .publ _ | .sbind _ | .cpy _ | .cpy2 _ | .cpym _ | .cpyw _ | .spawn _ | .spawnh _
  | .tend _ | .tabort _ | .send _ | .sendg _ | .gjoin _ | .gleave _ | .gtag _ | .gbar _ | .garrive _
  | .gwait _ | .treel _ | .semp _ | .semv _ | .prio _ | .rope _ | .unrope _ | .ropeck _ | .belay _
  | .unbelay _ | .mwait _ | .mgath _ | .mldb _ | .mmul _ | .mmuls _ | .mscale _ | .mstore _ | .mclr _
  | .npcfg _ | .trap _ | .tret _ | .upcret _ | .ctxsave _ | .xinv _ | .replayall _ | .dbrk _ => []
  | .launchTreeMessage _ | .arrayCommandStart _ | .valueArrival _ _ _ | .refusal _ _ | .budget _ _
  | .enqueue _ | .retirement _ | .inboundDelivery _ | .upcallStart _ | .pageWalk _ _
  | .monitorRewalk _ | .transientTimeout _ | .persistentActivate _ _ | .copyComplete _ _
  | .belayGrant _ | .powerLeaveGrant _ _ | .limitChange _ _ _ | .preemptionRequest _
  | .preemptionLift _ | .consistentCut _ _ | .marker _ _ _ | .cutResume _ | .launchRecord _ _
  | .loadRecord _ _ | .releaseRecord _ _ | .hostRead _ _ _ | .hostWrite _ _ _ | .partitionCreate _
  | .partitionTeardown _ | .coldStart | .warmStart _ | .getVersion _ | .getCapabilities _
  | .negotiateAlgorithms _ | .getDigests _ | .getCertificate _ | .challenge _ _
  | .getMeasurements _ _ _ | .keyExchange _ _ | .finish _ _ | .endSession _
  | .vendorDefinedRequest _ _ | .halt _ | .resume _ | .debugRegisterWrite _ _ _ | .sampleTick _
  | .hbmReadError _ | .hbmRetry _ _ | .lifetimeFlush _ | .counterRead | .overlayFetch _ _
  | .unassignedBundle _ _ | .tdispRequest _ _ | .peerRequest _ | .pcieLinkDown _ | .dumpRequest _ => []

/-- x0 and p0 never conflict (R84). -/
def conflicts (d e : Dst) : Bool := d == e && d != (0, 0) && d != (3, 0)
/-- R84: both instructions write one register (DEDUCED, log 110). -/
def pairDest (c a : Instr) : Bool := (dests c).any fun d => (dests a).any fun e => conflicts d e

/-- The governing predicate's number; C-class instructions have none (R82). -/
def writesP15 (i : Instr) : Bool := (dests i).contains (3, 15)

namespace Machine

/-- A short field sign-extended and scaled, or the literal when it is nonzero (R85, R86, R199) (DEDUCED, log 63). -/
def offset {n : Nat} (lit : Word) (off : BitVec n) (unit : Nat) : Dword :=
  if lit = 0 then BitVec.ofInt 64 (off.toInt * unit) else lit.signExtend 64
/-- An I-format immediate (R104). -/
def immI (f : FmtI) : Dword := offset f.lit f.imm 1
/-- A U-format immediate of LI (R105). -/
def immU (f : FmtU) : Dword := offset f.lit f.imm 1
/-- LIH's 32 bits (R105). -/
def immHigh (f : FmtU) : Word := if f.lit = 0 then f.imm.signExtend 32 else f.lit

/-- The address of an L-format access (R199). -/
def addrL (r : Regs) (f : FmtL) (unit : Nat) : Dword := rx r f.rs1.toNat + offset f.lit f.off unit
def addrS (r : Regs) (f : FmtS) (unit : Nat) : Dword := rx r f.rs1.toNat + offset f.lit f.off unit
def addrLA (r : Regs) (f : FmtLA) : Dword := rx r f.rs1.toNat + offset f.lit f.off 8
def addrSR (r : Regs) (f : FmtSR) : Dword := rx r f.rs1.toNat + offset f.lit f.off 8
/-- The short offset of the AM format is 0 (R86). -/
def addrAM (r : Regs) (f : FmtAM) : Dword := rx r f.rs1.toNat + f.lit.signExtend 64
/-- An element of LDVX or STVX (R207): none for the inactive index. -/
def addrX (r : Regs) (f : FmtR) (i : Nat) : Option Dword :=
  let ix := lane (rv r f.rs2.toNat) i
  if ix = 0xFFFFFFFF then none
  else some (rx r f.rs1.toNat + dn (ix.toNat * 2 ^ (f.func.toNat % 4)))
/-- Active lanes of LDVX or STVX with their addresses. -/
def lanesX (r : Regs) (f : FmtR) : List (Nat × Nat) :=
  (List.range 256).filterMap fun i => match addrX r f i with | some a => some (i, a.toNat) | none => none
/-- spm: of LDVX and STVX (R207). -/
def spmX (f : FmtR) : Bool := f.func.toNat / 4 == 1
/-- A copy's handler number (R220). -/
def handlerOf (f : FmtC) : Nat := if f.lit = 0 then f.h.toNat else f.lit.toNat % 4096
/-- Scope of an atomic, LDAQ or STRL: at core or wider it orders (R210). -/
def scopeOrders (sc : BitVec 3) : Bool := 1 ≤ sc.toNat

end Machine

end Sys2Proof
end

