-- ==== Sys2Proof/Machine/Entry.lean ====
section
/-! DEFINITION. The traps that each instruction's entry lays down at issue (spec/05 R90), judged on the values
the bundle is about to read: `r` holds them. Each follows the rule its clause cites. -/

namespace Sys2Proof.Machine

/-- ILL with subcode STATE (R91). -/
def illState (pc : Nat) (v : Dword) : Option TrapReq := some { cause := 1, sub := 7, val := v, tpc := pc }
def trapAt (pc cause : Nat) (v : Dword) : Option TrapReq := some { cause := cause, val := v, tpc := pc }
/-- The first trap of a list of checks in order. -/
def firstTrap : List (Option TrapReq) → Option TrapReq
  | [] => none
  | some t :: _ => some t
  | none :: l => firstTrap l
/-- A trap when a condition holds. -/
def trapIf (b : Bool) (t : Option TrapReq) : Option TrapReq := if b then t else none

/-- R201 for one access: space 0 virtual, 1 tcm, 2 spm; then R200. -/
def accessTrap (s : State) (pc space : Nat) (a : Dword) (size align : Nat) : Option TrapReq :=
  let range : Option Nat :=
    match space with
    | 0 => if badVa a.toNat size then some 0x19 else none
    | 1 => tcmFault s s.core a.toNat size
    | _ => spmFault s.core a.toNat size
  match range with
  | some c => trapAt pc c a
  | none => trapIf (a.toNat % align != 0) (trapAt pc 3 a)
/-- The space of an L-format field (R87): 0 virtual, 1 tcm, 2 spm. -/
def spaceL (sp : BitVec 2) : Nat := if sp = 2 then 1 else if sp = 3 then 2 else 0

/-- The scalar and vector accesses' addresses, spaces, sizes and alignments (R199, R200, R202, R206). -/
def loadTrap (s : State) (pc : Nat) (r : Regs) (f : FmtL) (unit size align : Nat) : Option TrapReq :=
  accessTrap s pc (spaceL f.sp) (addrL r f unit) size align
def storeTrap (s : State) (pc : Nat) (r : Regs) (f : FmtS) (unit size align : Nat) : Option TrapReq :=
  accessTrap s pc f.sp.toNat (addrS r f unit) size align
/-- LDVX and STVX: every active element, in lane order (R207). -/
def elementTrap (s : State) (pc : Nat) (r : Regs) (f : FmtR) : Option TrapReq :=
  (lanesX r f).findSome? fun e => accessTrap s pc (if spmX f then 2 else 0) (dn e.2) 4 4
/-- A range instruction's test (R208): a length of 0 does nothing. -/
def rangeTrap (pc : Nat) (base len : Dword) : Option TrapReq :=
  trapIf (len != 0 && badVa base.toNat len.toNat) (trapAt pc 0x19 base)

/-- Entry h of a core's handler table (R221): its dword, and whether it is valid. -/
def handlerDword (s : State) (n h : Nat) : Nat :=
  readBytes (coreAt s n).tcm (8 * (bits (coreAt s n).htable.toNat 0 16 + h)) 8
def handlerValid (s : State) (n h : Nat) : Bool :=
  let e := handlerDword s n h
  decide (h ≤ bits (coreAt s n).htable.toNat 16 12) && bitAt e 63 && bits e 18 45 == 0

/-- Sources of a record (R130): body, anchor base and length, destination, and the first register value that
breaks R130. -/
structure Record where
  body : Nat
  base : Dword
  len  : Dword
  dest : Dest
  bad  : Option Dword
  deriving DecidableEq, Repr

def spawnReq (s : State) (r : Regs) (f : FmtT) : Record :=
  let base := rx r f.rb.toNat
  { body := f.body.toNat, base := base, len := rx r f.rl.toNat,
    dest := .home (homeIn s (partOf s s.core) base.toNat), bad := none }
def spawnhReq (s : State) (r : Regs) (f : FmtH) : Record :=
  let t := rx r f.rt.toNat
  let num := bits t.toNat 0 10
  let kind := bits t.toNat 10 2
  let bad := bits t.toNat 12 52 != 0 || decide (2 ≤ kind) || (kind == 0 && !inPart s (partOf s s.core) num) ||
    (kind == 1 && decide (255 < num))
  { body := f.lit.toNat % 1024, base := rx r f.rb.toNat, len := rx r f.rl.toNat,
    dest := if kind = 0 then .core num else .home num, bad := if bad then some t else none }
/-- Where both registers of a SEND or SENDG break R130, TVAL holds the first's (DESIGN CHOICE, log 131). -/
def sendReq (s : State) (r : Regs) (f : FmtR) : Record :=
  let xc := rx r f.rs1.toNat
  let xb := rx r f.rs2.toNat
  let badC := bits xc.toNat 10 54 != 0 || !inPart s (partOf s s.core) (bits xc.toNat 0 10)
  { body := bits xb.toNat 0 10, base := rx r 4, len := rx r 5, dest := .core (bits xc.toNat 0 10),
    bad := if badC then some xc else if bits xb.toNat 10 54 != 0 then some xb else none }
/-- (DESIGN CHOICE, log 131) -/
def sendgReq (s : State) (r : Regs) (f : FmtR) : Record :=
  let xg := rx r f.rs1.toNat
  let xb := rx r f.rs2.toNat
  { body := bits xb.toNat 0 10, base := rx r 4, len := rx r 5,
    dest := .set (fget [] (partAt s (partOf s s.core)).groups (bits xg.toNat 0 8)),
    bad := if bits xg.toNat 8 56 != 0 then some xg else if bits xb.toNat 10 54 != 0 then some xb else none }
/-- The cores a destination names (R131). -/
def destCores : Dest → List Nat
  | .home _ => []
  | .core n => [n]
  | .set l => l
/-- An entry breaks R22 or R23 for some receiving core. -/
def entryBreaks (d : Dest) (e : Nat) : Bool :=
  !bodyValid e || (destCores d).any fun n => if Config.isHome n then !bodyNear e else !bodyFar e
/-- The checks of R131 that need the body entry. -/
def entryTraps (s : State) (pc : Nat) (q : Record) (e : Dword) : Option TrapReq :=
  firstTrap
    [ trapIf (entryBreaks q.dest e.toNat) (illState pc (dn q.body)),
      trapIf ((cur s).sends.length == 64) (trapAt pc 0x0D 64) ]
/-- MakeRecord's checks (R131); those on the entry are made once it is read. -/
def recordTrap (s : State) (pc : Nat) (q : Record) : Option TrapReq :=
  let core := coreAt s s.core
  let base := q.base.toNat
  let len := q.len.toNat
  firstTrap
    [ trapIf (!core.bodytab.getLsbD 0) (illState pc 0),
      match q.bad with | some v => illState pc v | none => none,
      trapIf (bits base 57 7 != 0 || len == 0 || decide (2097152 < len) || decide (2 ^ 57 < base + len))
        (trapAt pc 0x19 q.base),
      match bodyAt core q.body with | some e => entryTraps s pc q e | none => none ]

/-- A group is in the core's slots (R53, R135). -/
def inSlots (s : State) (g : Nat) : Bool := (coreAt s s.core).gslots.contains (some g)
def slotTrap (s : State) (pc g : Nat) : Option TrapReq := trapIf (!inSlots s g) (illState pc (dn g))
/-- The issuing context holds its cluster's lease (R258). -/
def holdsLease (s : State) : Bool := (cluAt s (s.core / 8)).holder == some (s.core, s.ctx)
/-- MatrixIssue's checks (R296): the lease, then each scratchpad operand's alignment. -/
def matrixTrap (s : State) (pc : Nat) (ops : List Dword) : Option TrapReq :=
  firstTrap (trapIf (!holdsLease s) (trapAt pc 0x0F 0) ::
    ops.map fun x => trapIf (x.toNat % 8 != 0) (trapAt pc 3 x))

/-- A copy's ranges, row by row (R220): source and destination addresses. -/
def copyRows (rows : Nat) (dst src : Dword) (ds ss : Dword) : List (Dword × Dword) :=
  (List.range rows).map fun i => (dst + dn i * ds, src + dn i * ss)
/-- R201 for a copy's destination row: tcm: is checked against its `size` alone (R97). -/
def copyDstTrap (s : State) (pc sp size : Nat) (a : Dword) (n : Nat) : Option TrapReq :=
  match sp with
  | 0 => trapIf (badVa a.toNat n) (trapAt pc 0x19 a)
  | 1 => trapIf (decide (size < a.toNat + n)) (trapAt pc 6 a)
  | _ => match spmFault s.core a.toNat n with | some c => trapAt pc c a | none => none
def copySrcTrap (pc : Nat) (a : Dword) (n : Nat) : Option TrapReq :=
  trapIf (badVa a.toNat n) (trapAt pc 0x19 a)
/-- Units that a CPYM mask names (R220): the cluster's cores, or the die's clusters. -/
def maskUnits (s : State) (core sp mask : Nat) : List Nat :=
  if sp = 1 then ((List.range 8).filter fun i => bitAt mask i).map fun i => 8 * clusterFor s core + i
  else ((List.range 16).filter fun i => bitAt mask i).map fun i => 16 * Config.dieOf core + i
/-- (DESIGN CHOICE, log 39) -/
def maskBad (s : State) (sp mask : Nat) : Bool :=
  let p := partOf s s.core
  (sp == 1 && decide (256 ≤ mask)) || mask == 0 ||
  (maskUnits s s.core sp mask).any fun u => if sp = 1 then !inPart s p u else !(partAt s p).clusters.contains u
/-- The checks of a copy (R220): `kind` 0 CPY, 1 CPY2, 2 CPYM, 3 CPYW. x[rlen] and x[rlen+1] are judged
field by field, the strides of a CPY2 among them; a CPYM with a virtual destination traps as a forbidden value of
x[rlen] (DESIGN CHOICE, log 119). -/
def copyTrap (s : State) (pc : Nat) (r : Regs) (f : FmtC) (kind : Nat) : Option TrapReq :=
  let x := rx r f.rlen.toNat
  let y := if kind = 1 then rx r (f.rlen.toNat + 1) else 0
  let w := x.toNat
  let n := bits w 0 32
  let rows := if kind = 1 then bits w 32 16 else 1
  let ds := dw (sext 32 (bits y.toNat 32 32))
  let ss := dw (sext 32 (bits y.toNat 0 32))
  let sp := f.sp.toNat
  let rs := copyRows rows (rx r f.rdst.toNat) (rx r f.rsrc.toNat) ds ss
  let h := handlerOf f
  let tcm := if kind = 2 then Config.tcmSize 0 else Config.tcmSize s.core
  firstTrap
    [ rs.findSome? fun e => copySrcTrap pc e.2 n,
      rs.findSome? fun e => copyDstTrap s pc sp tcm e.1 n,
      trapIf (n == 0 || (kind == 1 && (rows == 0 || bits w 48 16 != 0)) ||
        (kind == 2 && (bits w 32 16 != 0 || sp == 0 || maskBad s sp (bits w 48 16))) ||
        ((kind == 0 || kind == 3) && bits w 32 32 != 0)) (illState pc x),
      trapIf (kind == 1 && (ds == 0 || ss == 0)) (illState pc y),
      trapIf (h != 0 && !handlerValid s s.core h) (illState pc (dn h)) ]

/-- SBIND's specification value that breaks R218, if any; ELEM 8 to 15 break it there, and no stream faults MFORMAT by
them (DESIGN CHOICE, log 119). -/
def bindBad (r : Regs) (f : FmtSB) : Option Dword :=
  let x (i : Nat) := rx r (f.rs1.toNat + i)
  let spec := (x 1).toNat
  if bits spec 8 56 != 0 || bitAt spec 3 || bits spec 0 2 == 3 || decide (7 < bits spec 4 4) then some (x 1)
  else [x 5, x 6, x 7].find? fun v => v.toNat == 0 || decide (2 ^ 32 < v.toNat)

/-- Fields of the 2:4 and conversion entries that need the operands: VIDX (R290). -/
def vidxTrap (pc : Nat) (r : Regs) (f : FmtR) : Option TrapReq :=
  let p := rp r f.rs1.toNat
  let b := rx r f.rs2.toNat
  let top := leastBit (fun i => p.getLsbD (255 - i)) 256
  trapIf (top < 256 && decide (65535 < b.toNat + (255 - top))) (illState pc b)
/-- VMAC's KIND (R255, R293). -/
def vmacTrap (pc : Nat) (r : Regs) (f : FmtR) : Option TrapReq :=
  let k := (racc r f.rd.toNat).kind
  trapIf ((k == .i && f.func == 0) || (k == .f && f.func == 1)) (illState pc (dn f.rd.toNat))
/-- VUNPKB.zx8 (R289). -/
def zx8Trap (pc : Nat) (r : Regs) (f : FmtR) : Option TrapReq :=
  match (zxBlocks (bits (rv r f.rs2.toNat).toNat 0 1024) (rv r f.rs1.toNat).toNat 8 0).2 with
  | some off => trapAt pc 0x12 (dn off)
  | none => none

/-- CTXSAVE's context (R343). -/
def saveBad (s : State) (v : Dword) : Bool :=
  let k := v.toNat
  let c := ctxAt s s.core k
  decide (Config.contexts s.core ≤ k) || c.upcall || k == s.ctx || k == bits (coreAt s s.core).upcvec.toNat 16 3 ||
  !(ctxParked s s.core k) ||
  c.rope != .none || !c.streams.isEmpty ||
  (!Config.isHome s.core && (cluAt s (s.core / 8)).holder == some (s.core, k))

/-- XINV's and the walks' page sizes (R324): size codes 0 to 5. -/
def pageSize : Nat → Nat
  | 0 => 2 ^ 12 | 1 => 2 ^ 16 | 2 => 2 ^ 21 | 3 => 2 ^ 25 | 4 => 2 ^ 30 | _ => 2 ^ 34
/-- XINV's checks (R333). -/
def xinvTrap (pc : Nat) (r : Regs) (f : FmtR) : Option TrapReq :=
  let a := rx r f.rs1.toNat
  let d := rx r f.rs2.toNat
  let all := bitAt d.toNat 7
  firstTrap
    [ trapIf (bits d.toNat 8 56 != 0 || bits d.toNat 3 3 != 0 || decide (5 < bits d.toNat 0 3)) (illState pc d),
      trapIf (!all && bits a.toNat 57 7 != 0) (trapAt pc 0x19 a),
      trapIf (!all && a.toNat % pageSize (bits d.toNat 0 3) != 0) (trapAt pc 3 a) ]
/-- REGSET's checks (R214); the offending value of a range that overlaps another entry or passes 2^57 is x[xd] (DESIGN
CHOICE, log 119). -/
def regsetTrap (s : State) (pc : Nat) (r : Regs) (f : FmtR) : Option TrapReq :=
  let b := rx r f.rs1.toNat
  let d := rx r f.rs2.toNat
  let w := d.toNat
  let lo := b.toNat / 4096
  let hi := lo + bits w 16 45
  let other := (cluAt s (clusterFor s s.core)).regions.any fun e =>
    e.2.v && e.1 != bits w 0 6 && decide (lo ≤ e.2.base.toNat + e.2.lenm1.toNat ∧ e.2.base.toNat ≤ hi)
  firstTrap
    [ trapIf (bits b.toNat 0 12 != 0 || bits b.toNat 57 7 != 0) (illState pc b),
      trapIf (bits w 61 3 != 0 || bitAt w 15 || bits w 10 2 != 0 || bits w 6 2 != 0 || bits w 8 2 == 3)
        (illState pc d),
      trapIf (decide (2 ^ 45 < hi + 1) || other) (illState pc d) ]
/-- The predicates a second's ROPECK compares with: the lead's, as it read them (R143). -/
def leadPred (s : State) (n : Nat) : Option Pred :=
  match (cur s).rope, (cur s).fwd with
  | .second _ _, b :: _ => some (if n = 0 then BitVec.allOnes 256 else fget 0 b.p n)
  | _, _ => none

/-- LDV, LDVX: a bound destination (R206, R207). -/
def boundTrap (s : State) (pc vd : Nat) : Option TrapReq :=
  trapIf (boundTo (cur s) vd).isSome (illState pc (dn vd))

/-- An atomic's checks (R200, R201, R211). -/
def amoTrap (pc : Nat) (r : Regs) (f : FmtAM) (template : Bool) : Option TrapReq :=
  let a := addrAM r f
  firstTrap
    [ trapIf (badVa a.toNat 8) (trapAt pc 0x19 a),
      trapIf (if template then a.toNat % 64 != 0 || bits a.toNat 6 6 == 63 else a.toNat % 8 != 0)
        (trapAt pc 3 a) ]
/-- A second follows its lead's path, whatever its own operands say (R62). -/
def isSecond (c : Ctx) : Bool := match c.rope with | .second _ _ => true | _ => false
/-- JR and JRL (R97, R116). -/
def jumpTrap (s : State) (pc : Nat) (r : Regs) (f : FmtI) : Option TrapReq :=
  let t := rx r f.rs1.toNat + 8 * immI f
  trapIf (t.toNat % 8 != 0 && !isSecond (cur s)) (trapAt pc 3 t)

/-- The trap an instruction's entry lays down, on the values `r` that the bundle reads, at pc `pc`. -/
def ownTrap (s : State) (pc : Nat) (r : Regs) : Instr → Option TrapReq
  | .jr f | .jrl f => jumpTrap s pc r f
  | .crwr f => match crTrap s s.core f.crn.toNat (rx r f.x.toNat) with | some v => illState pc v | none => none
  | .crsetb f =>
    let v := crRead s s.core s.ctx r f.crn.toNat ||| dn (2 ^ f.x.toNat)
    match crTrap s s.core f.crn.toNat v with | some v => illState pc v | none => none
  | .crclrb f =>
    let v := crRead s s.core s.ctx r f.crn.toNat &&& ~~~(dn (2 ^ f.x.toNat))
    match crTrap s s.core f.crn.toNat v with | some v => illState pc v | none => none
  | .ldb f | .ldbu f => loadTrap s pc r f 1 1 1
  | .ldh f | .ldhu f => loadTrap s pc r f 2 2 2
  | .ldw f | .ldwu f => loadTrap s pc r f 4 4 4
  | .ldd f => loadTrap s pc r f 8 8 8
  | .ldv f => firstTrap [boundTrap s pc f.rd.toNat, loadTrap s pc r f 64 1024 64]
  | .stb f => storeTrap s pc r f 1 1 1
  | .sth f => storeTrap s pc r f 2 2 2
  | .stw f => storeTrap s pc r f 4 4 4
  | .std f => storeTrap s pc r f 8 8 8
  | .stv f => storeTrap s pc r f 64 1024 64
  | .ldaq f => accessTrap s pc 0 (addrLA r f) 8 8
  | .strl f => accessTrap s pc 0 (addrSR r f) 8 8
  | .ldvx f => firstTrap [boundTrap s pc f.rd.toNat, elementTrap s pc r f]
  | .stvx f => elementTrap s pc r f
  | .pref f | .invr f | .wbr f => rangeTrap pc (rx r f.rs1.toNat) (rx r f.rs2.toNat)
  | .amoadd f | .amoand f | .amoor f | .amoxor f | .amomin f | .amomax f | .amominu f | .amomaxu f
  | .amoswp f | .amocas f | .amofadd f => amoTrap pc r f false
  | .amoaddt f => amoTrap pc r f true
  | .sigclr f | .retype f =>
    trapIf (badVa (rx r f.rs1.toNat).toNat 1) (trapAt pc 0x19 (rx r f.rs1.toNat))
  | .regset f => regsetTrap s pc r f
  | .regclr f => trapIf (bits (rx r f.rs1.toNat).toNat 6 58 != 0) (illState pc (rx r f.rs1.toNat))
  | .wsclr f =>
    let a := rx r f.rs1.toNat
    let n := rx r f.rs2.toNat
    firstTrap
      [ trapIf (badVa a.toNat n.toNat) (trapAt pc 0x19 a),
        trapIf (a.toNat % 8 != 0) (trapAt pc 3 a),
        trapIf (n.toNat % 8 != 0 || n.toNat == 0 || decide (2 ^ 31 < n.toNat)) (illState pc n) ]
  | .publ f => accessTrap s pc 0 (rx r f.rs1.toNat) 8 8
  | .sbind f =>
    firstTrap
      [ match bindBad r f with | some v => illState pc v | none => none,
        trapIf (ffind (cur s).streams f.eng.toNat).isSome (illState pc (dn f.eng.toNat)),
        boundTrap s pc f.vd.toNat ]
  | .sunbind f => trapIf (boundTo (cur s) f.vd.toNat).isNone (illState pc (dn f.vd.toNat))
  | .cpy f => copyTrap s pc r f 0
  | .cpy2 f => copyTrap s pc r f 1
  | .cpym f => copyTrap s pc r f 2
  | .cpyw f => copyTrap s pc r f 3
  | .spawn f => recordTrap s pc (spawnReq s r f)
  | .spawnh f => recordTrap s pc (spawnhReq s r f)
  | .send f => recordTrap s pc (sendReq s r f)
  | .sendg f => recordTrap s pc (sendgReq s r f)
  | .take _ => trapIf (!Config.isHome s.core) (illState pc 0)
  | .steal f =>
    firstTrap
      [ trapIf (Config.isHome s.core) (illState pc 0),
        trapIf (bits (rx r f.rs1.toNat).toNat 57 7 != 0) (trapAt pc 0x19 (rx r f.rs1.toNat)) ]
  | .stealAny _ => trapIf (Config.isHome s.core) (illState pc 0)
  | .qdepth f => trapIf (bits (rx r f.rs1.toNat).toNat 57 7 != 0) (trapAt pc 0x19 (rx r f.rs1.toNat))
  | .tend _ | .tabort _ => trapIf (cur s).upcall (illState pc 0)
  | .gjoin f =>
    trapIf (!inSlots s f.group.toNat && !(coreAt s s.core).gslots.contains none) (illState pc (dn f.group.toNat))
  | .gleave f | .gtag f | .gbar f | .garrive f | .gwait f => slotTrap s pc f.group.toNat
  | .rope f => trapIf ((cur s).rope != .none) (illState pc (dn f.imm.toNat))
  | .unrope _ => match (cur s).rope with | .lead _ => none | _ => illState pc 0
  | .ropeck f =>
    match leadPred s f.imm.toNat with
    | none => none
    | some q =>
      let d := leastBit (fun i => (rp r f.imm.toNat).getLsbD i != q.getLsbD i) 256
      trapIf (d < 256) (trapAt pc 0x13 (dn (f.imm.toNat + d * 256)))
  | .belay _ => trapIf (holdsLease s) (illState pc (dn (cluAt s (s.core / 8)).remain))
  | .mgath f => matrixTrap s pc [rx r f.rs1.toNat, rx r f.rs2.toNat]
  | .mldb f => matrixTrap s pc [rx r f.rs1.toNat]
  | .mmul _ | .mclr _ => matrixTrap s pc []
  | .mmuls f => matrixTrap s pc [rx r f.rs1.toNat]
  | .mscale f =>
    let n := rx r f.rs2.toNat
    firstTrap
      [ matrixTrap s pc [rx r f.rs1.toNat],
        trapIf (n.toNat % 8 != 0 || n.toNat == 0 || decide (4096 < n.toNat)) (illState pc n) ]
  | .mstore f => matrixTrap s pc [rx r f.rs1.toNat]
  | .npcfg f => trapIf ((rx r f.rs1.toNat).toNat % 64 != 0) (trapAt pc 3 (rx r f.rs1.toNat))
  | .npred f =>
    let t := rx r f.rs1.toNat
    let o := rx r f.rs2.toNat
    firstTrap
      [ trapIf (o.toNat % 8 != 0) (trapAt pc 3 o),
        trapIf (bits t.toNat 32 5 == 0 || decide (16 < bits t.toNat 32 5) || bits t.toNat 37 27 != 0 ||
          bits t.toNat 23 9 != 0) (illState pc t) ]
  | .ncheck f => trapIf ((rx r f.rs1.toNat).toNat % 8 != 0) (trapAt pc 3 (rx r f.rs1.toNat))
  | .tret _ =>
    let c := cur s
    firstTrap
      [ trapIf (!tsActive c.tstat) (illState pc 0),
        trapIf (tsRz c.tstat || tsAbt c.tstat) (trapAt pc 0x14 c.tstat),
        match c.rope with | .lead _ => illState pc 0 | _ => none ]
  | .upcret _ => trapIf (!(cur s).upcall) (illState pc 0)
  | .ctxsave f =>
    firstTrap
      [ trapIf (!(cur s).upcall) (illState pc 0),
        trapIf (saveBad s (rx r f.rs2.toNat)) (illState pc (rx r f.rs2.toNat)),
        trapIf (badVa (rx r f.rs1.toNat).toNat 65536) (trapAt pc 0x19 (rx r f.rs1.toNat)),
        trapIf ((rx r f.rs1.toNat).toNat % 65536 != 0) (trapAt pc 3 (rx r f.rs1.toNat)) ]
  | .ctxload f => accessTrap s pc 0 (rx r f.rs1.toNat) 65536 65536
  | .xinv f => xinvTrap pc r f
  | .semv f =>
    trapIf ((fget {} (cluAt s (clusterFor s s.core)).sems f.sem.toNat).count == 0xFFFF) (illState pc (dn f.sem.toNat))
  | .vext _ f => trapIf (decide (255 < (rx r f.rs2.toNat).toNat)) (illState pc (rx r f.rs2.toNat))
  | .vmac _ f => vmacTrap pc r f
  | .vidx _ f => vidxTrap pc r f
  | .vunpkbZx8 _ f => zx8Trap pc r f
  | .add _ _ | .sub _ _ | .and _ _ | .or _ _ | .xor _ _ | .sll _ _ | .srl _ _ | .sra _ _ | .slt _ _
  | .sltu _ _ | .min _ _ | .max _ _ | .minu _ _ | .maxu _ _ | .mul _ _ | .mulh _ _ | .mulhu _ _
  | .div _ _ | .divu _ _ | .rem _ _ | .remu _ _ | .addsh _ _ | .clz _ _ | .ctz _ _ | .popc _ _
  | .bext _ _ | .bdep _ _ | .sel _ _ | .addi _ _ | .andi _ _ | .ori _ _ | .xori _ _ | .slli _ _
  | .srli _ _ | .srai _ _ | .slti _ _ | .sltiu _ _ | .li _ _ | .lih _ _ | .fadd _ _ | .fsub _ _
  | .fmul _ _ | .fdiv _ _ | .fsqrt _ _ | .fma _ _ | .fmin _ _ | .fmax _ _ | .fcmp _ _ | .fclass _ _
  | .fcvt _ _ | .br _ | .brl _ | .bcEq _ | .bcNe _ | .bcLt _ | .bcGe _ | .bcLtu _ | .bcGeu _ | .bcz _
  | .loop _ | .crrd _ | .waitf _ | .synci _ | .fence _ | .cpyq _ | .qdepthIn _ | .treel _ | .wfa _
  | .semp _ | .semtry _ | .prio _ | .unbelay _ | .mwait _ | .mstat _ | .trap _ | .replayall _
  | .dbrk _ => none
  | .vadd _ _ | .vsub _ _ | .vmul _ _ | .vfma _ _ | .vmin _ _ | .vmax _ _ | .vabs _ _ | .vneg _ _
  | .vand _ _ | .vor _ _ | .vxor _ _ | .vsll _ _ | .vsllImm _ _ | .vsrl _ _ | .vsrlImm _ _ | .vsra _ _
  | .vsraImm _ _ | .vcmp _ _ | .vsel _ _ | .vbcast _ _ | .vred _ _ | .vperm _ _ | .vcvt _ _ | .vexp2 _ _
  | .vrcp _ _ | .vrsq _ _ | .vlog2 _ _ | .vnzc _ _ | .vbmap _ _ | .vpackb _ _ | .vunpkb _ _
  | .vidxI32 _ _ | .vnar _ _ | .aclr _ _ | .amovToAcc _ _ | .amovFromAcc _ _ | .pand _ _ | .por _ _
  | .pxor _ _ | .pnot _ _ | .pcnt _ _ | .pfirst _ _ | .pset _ _ => none
  | .launchTreeMessage _ | .arrayCommandStart _ | .valueArrival _ _ _ | .refusal _ _ | .budget _ _
  | .enqueue _ | .retirement _ | .inboundDelivery _ | .upcallStart _ | .pageWalk _ _
  | .monitorRewalk _ | .transientTimeout _ | .persistentActivate _ _ | .copyComplete _ _
  | .belayGrant _ | .powerLeaveGrant _ _ | .limitChange _ _ _ | .preemptionRequest _
  | .preemptionLift _ | .consistentCut _ _ | .marker _ _ _ | .cutResume _ | .launchRecord _ _
  | .loadRecord _ _ | .releaseRecord _ _ | .hostRead _ _ _ | .hostWrite _ _ _ | .partitionCreate _
  | .partitionTeardown _ | .coldStart | .warmStart _ | .getVersion _ | .getCapabilities _
  | .negotiateAlgorithms _ | .getDigests _ | .getCertificate _ | .challenge _ _
  | .getMeasurements _ _ _ | .keyExchange _ _ | .finish _ _ | .endSession _
  | .vendorDefinedRequest _ _ | .halt _ | .resume _ | .debugRegisterWrite _ _ _ | .sampleTick _
  | .hbmReadError _ | .hbmRetry _ _ | .lifetimeFlush _ | .counterRead | .overlayFetch _ _
  | .unassignedBundle _ _ | .tdispRequest _ _ | .peerRequest _ | .pcieLinkDown _ | .dumpRequest _ => none

/-- Register fields that read a vector register, and those that write one. -/
def vReads (i : Instr) : List Nat := ((srcs i).filter fun x => x.file == 1).map (·.reg)
def vWrites (i : Instr) : List Nat := ((dests i).filter fun d => d.1 == 1).map (·.2)
/-- R254: reading a register bound to a write stream, writing one bound to a read stream, or pushing after the
last beat. SUNBIND ends a binding and pushes nothing. -/
def streamTrap (s : State) (pc : Nat) (i : Instr) : Option TrapReq :=
  let c := cur s
  let reads := (vReads i).findSome? fun v =>
    match boundTo c v with
    | some (_, st) => if st.write then illState pc (dn v) else none
    | none => none
  let writes := (match i with | .sunbind _ => [] | .ldv _ => [] | .ldvx _ => [] | i => vWrites i).findSome? fun v =>
    match boundTo c v with
    | some (_, st) => if !st.write || streamDone st then illState pc (dn v) else none
    | none => none
  firstTrap [reads, writes]
/-- The traps of one instruction of a bundle; `pops`: the bundle pops a beat or reads a done stream, which forbids
a write of p15 (R254). -/
def entryTrap (s : State) (pc : Nat) (r : Regs) (pops : Bool) (i : Instr) : Option TrapReq :=
  firstTrap [streamTrap s pc i, trapIf (pops && writesP15 i) (illState pc 15), ownTrap s pc r i]

end Sys2Proof.Machine
end

