-- ==== Sys2Proof/Machine/Issue.lean ====
section
/-! DEFINITION. Issuing a bundle (spec/05 R83, R84, R89, R90): what holds it, the traps taken at issue, reading
every operand before anything is written, and the end of the bundle. -/

namespace Sys2Proof.Machine

/-- The operands the bundle read (R83). -/
def ops (s : State) : Regs := match s.latch with | some r => r | none => (cur s).regs

/-- What the check of a bundle ends in. -/
inductive Check where
  | go
  | wait
  | trap (t : TrapReq)
  deriving DecidableEq, Repr

/-- A source is empty (R88, R254). -/
def srcEmpty (s : State) (x : Src) : Bool :=
  let c := cur s
  if x.file = 0 then !xFull c.regs x.reg
  else match boundTo c x.reg with
    | some (_, st) => !st.write && (beatNow s s.core st).isNone
    | none => !vFull c.regs x.reg
/-- RegCode (R90). -/
def regCode (x : Src) (word : Nat) : Dword := dn (x.reg + x.file * 2 ^ 8 + word * 2 ^ 16)

/-- Stream writes of an engine on their way (R254). -/
def pushesOut (s : State) (eng : Nat) : Nat :=
  ((accessesOf s s.core s.ctx).filter fun a => match a.kind with | .streamWrite e => e == eng | _ => false).length
/-- A destination waits (R89, R254): a value is pending, or the write stream bound to it holds eight beats. -/
def dstPending (s : State) (d : Dst) : Bool :=
  let c := cur s
  if d.1 = 0 then c.xp.getLsbD d.2
  else if d.1 = 1 then
    match boundTo c d.2 with
    | some (eng, st) => st.write && !streamDone st && decide (8 ≤ pushesOut s eng)
    | none => c.vp.getLsbD d.2
  else false

/-- Instructions that an earlier acquire holds (R204): accesses to virtual memory or the scratchpad, the read of a body
entry among them (R24), atomics, copies, matrix and predictor instructions, and operations at other units, which are not
performed before it (R164, R402). -/
def heldByAcquire : Instr → Bool
  | .ldb f | .ldbu f | .ldh f | .ldhu f | .ldw f | .ldwu f | .ldd f | .ldv f => f.sp != 2
  | .stb f | .sth f | .stw f | .std f | .stv f => f.sp != 1
  | .ldaq _ | .strl _ | .ldvx _ | .stvx _ | .wsclr _ | .publ _ | .ctxsave _ | .ctxload _ => true
  | .amoadd _ | .amoand _ | .amoor _ | .amoxor _ | .amomin _ | .amomax _ | .amominu _ | .amomaxu _
  | .amoswp _ | .amocas _ | .amofadd _ | .amoaddt _ => true
  | .cpy _ | .cpy2 _ | .cpym _ | .cpyw _ => true
  | .mgath _ | .mldb _ | .mmul _ | .mmuls _ | .mscale _ | .mstore _ | .mclr _ | .npcfg _ | .npred _
  | .ncheck _ | .mwait _ | .mstat _ | .belay _ | .unbelay _ => true
  | .take _ | .steal _ | .stealAny _ | .qdepth _ | .semp _ | .semtry _ | .semv _ | .cpyq _ | .invr _ | .wbr _ => true
  | .spawn _ | .spawnh _ | .send _ | .sendg _ | .garrive _ | .gwait _ | .gbar _ | .gjoin _ | .gleave _ | .treel _ => true
  | .retype _ | .xinv _ | .replayall _ | .sigclr _ | .regset _ | .regclr _ => true
  | _ => false
/-- A register operand bound to a stream outside TCM is an access, and so is what a bound stream reads ahead (R218). -/
def streamAccess (s : State) (i : Instr) : Bool :=
  ((vReads i ++ vWrites i).any fun v => match boundTo (cur s) v with | some (_, st) => st.space != 1 | none => false) ||
  match i with | .sbind f => bits (rx (cur s).regs (f.rs1.toNat + 1)).toNat 0 2 != 1 | _ => false
/-- The load of an acquire whose value is not fixed, a SEMTRY's included (R138, R164, R204, R210). -/
def acquiring (s : State) : Bool :=
  (s.reqs.any fun q => q.core == s.core && q.ctx == s.ctx && (match q.ask with | .semtry _ => true | _ => false)) ||
  (accessesOf s s.core s.ctx).any fun a => match a.kind with
    | .ldaq _ _ => true
    | .amo _ sc _ _ _ => decide (1 ≤ sc)
    | _ => false

/-- Accesses of the context, its streams' read-ahead included. -/
def anyAccess (s : State) : Bool :=
  (accessesOf s s.core s.ctx).any fun a => match a.kind with | .copy _ => false | _ => true
/-- An access or predictor instruction of the context is not performed (R166, R230). -/
def ownAccess (s : State) : Bool := !(ownAccesses s s.core s.ctx).isEmpty || predsLeft s s.core s.ctx
/-- A request of the context at a queue or semaphore is not performed: a release is performed after it (R164, R402). -/
def reqsOut (s : State) : Bool :=
  s.reqs.any fun q => q.core == s.core && q.ctx == s.ctx && (match q.ask with
    | .take _ _ | .steal _ | .stealAny _ _ _ | .depth _ | .semtry _ => true
    | .semp _ | .semv _ | .arrive _ _ _ | .unsemp _ => false)
/-- What a release of the context waits for (R164, R166). -/
def ownWork (s : State) : Bool := ownAccess s || reqsOut s
/-- An access that reads, and one that writes, by R212's kinds. -/
def readsMem (a : Access) : Bool :=
  match a.kind with
  | .load _ _ _ _ | .ldaq _ _ | .ldv _ _ | .ldvx _ | .amo _ _ _ _ _ | .streamRead _ _ | .loadCtx _ _ _ => true
  | _ => false
def writesMem (a : Access) : Bool :=
  match a.kind with
  | .store | .strl _ | .stv | .stvx | .amo _ _ _ _ _ | .streamWrite _ | .wsclr | .publ | .save _ => true
  | _ => false
/-- An earlier access of a kind that the FENCE names is not performed (R212). -/
def fenceWaits (s : State) (f : FmtF) : Bool :=
  let on := f.scope != 0
  let r := on && (f.mask.getLsbD 0 || f.mask.getLsbD 1)
  let w := on && (f.mask.getLsbD 2 || f.mask.getLsbD 3)
  ((accessesOf s s.core s.ctx).any fun a => (r && readsMem a) || ((w || f.pt == 1) && writesMem a)) ||
    ((r || w || f.pt == 1) && predsLeft s s.core s.ctx)

/-- The copy an instruction makes (R220): kind 0 CPY, 1 CPY2, 2 CPYM, 3 CPYW. -/
def copyOf (s : State) (r : Regs) (f : FmtC) (kind : Nat) : Copy :=
  let x := (rx r f.rlen.toNat).toNat
  let y := if kind = 1 then (rx r (f.rlen.toNat + 1)).toNat else 0
  { id := s.copyId + 1, core := s.core, ctx := s.ctx, part := partOf s s.core, pc := (cur s).pc, kind := kind,
    sp := f.sp.toNat, h := handlerOf f, dst := (rx r f.rdst.toNat).toNat, src := (rx r f.rsrc.toNat).toNat,
    len := bits x 0 32, rows := if kind = 1 then bits x 32 16 else 1,
    dstride := dw (sext 32 (bits y 32 32)), sstride := dw (sext 32 (bits y 0 32)),
    mask := if kind = 2 then bits x 48 16 else 0 }
/-- An earlier access of the context to a virtual range is not performed (R164). -/
def meetsAccess (s : State) (lo hi : Nat) : Bool :=
  (ownAccesses s s.core s.ctx).any fun a => !a.spm && a.pieces.any fun p => decide (p.va < hi ∧ lo < p.va + p.size)
/-- A copy's issue is a release over its source (R222), and its writes follow the context's earlier accesses to a
virtual destination (R164, R402). -/
def rowsWait (s : State) (f : FmtC) (kind : Nat) : Bool :=
  let c := copyOf s (ops s) f kind
  (copyRowsOf c).any fun r => meetsAccess s r.2 (r.2 + c.len) || (c.sp == 0 && meetsAccess s r.1 (r.1 + c.len))
/-- SIGCLR is ordered after the context's earlier accesses to its line (R213). -/
def lineWaits (s : State) (f : FmtR) : Bool :=
  let a := (rx (ops s) f.rs1.toNat).toNat / 64 * 64
  meetsAccess s a (a + 64)
/-- INVR is ordered after the context's earlier accesses to its range (R208). -/
def rangeWaits (s : State) (f : FmtR) : Bool :=
  let b := (rx (ops s) f.rs1.toNat).toNat
  meetsAccess s b (b + (rx (ops s) f.rs2.toNat).toNat)

/-- What holds the end of a unit of work (R39, R223, R298): accesses, pending values, a refusal that is to be taken in
its place, and for TEND and TABORT copies, commands and a rope's seconds (DEDUCED, log 13). -/
def endHolds (s : State) : Instr → Bool
  | .tend _ | .tabort _ =>
    let c := cur s
    anyAccess s || c.xp != 0 || c.vp != 0 || !c.refusals.isEmpty || copiesLeft s s.core s.ctx ||
      commandsLeft s s.core s.ctx || secondsLag s s.core s.ctx
  | .upcret _ => anyAccess s || (cur s).xp != 0 || (cur s).vp != 0 || !(cur s).refusals.isEmpty
  | _ => false
/-- What an instruction waits for after its issue, before its effect: a release or a wait on the context's own accesses
(R134, R135, R136, R138, R166, R205-R217, R222, R342), a copy on those to its rows, INVR on those to its range and
SIGCLR on those to its line, on its pushes (R219), on its array commands (R308), or on
the rope's seconds (R63) (DEDUCED, log 13). -/
def drains (s : State) : Instr → Bool
  | .strl f => scopeOrders f.scope && ownWork s
  | .amoadd f | .amoand f | .amoor f | .amoxor f | .amomin f | .amomax f | .amominu f | .amomaxu f
  | .amoswp f | .amocas f | .amofadd f | .amoaddt f => scopeOrders f.scope && ownWork s
  | .garrive _ | .gbar _ | .semv _ | .treel _ | .retype _ | .xinv _ | .replayall _ | .regset _ | .regclr _
  | .publ _ => ownWork s
  | .sigclr f => lineWaits s f
  | .cpy f => rowsWait s f 0
  | .cpy2 f => rowsWait s f 1
  | .cpym f => rowsWait s f 2
  | .cpyw f => rowsWait s f 3
  | .invr f => rangeWaits s f
  | .fence f => fenceWaits s f
  | .sunbind f =>
    match boundTo (cur s) f.vd.toNat with
    | some (eng, _) => decide (0 < pushesOut s eng)
    | none => false
  | .unrope _ => secondsLag s s.core s.ctx
  | .mwait _ => matrixLeft s s.core s.ctx
  | _ => false

/-- The sub-state in which it waits (R49). -/
def drainSub : Instr → SubState
  | .garrive _ | .gbar _ | .semv _ | .treel _ | .unrope _ => .barrier
  | .mwait _ => .copy
  | _ => .full
/-- What BUDGET does with that wait (R405): work under way at other units is not withdrawn (DEDUCED, log 14). -/
def drainFate : Instr → BudgetFate
  | .garrive _ | .gbar _ | .semv _ | .treel _ | .unrope _ | .retype _ | .xinv _ | .replayall _ | .invr _ | .wbr _
  | .sigclr _ | .regset _ | .regclr _ | .wsclr _ | .publ _ => .defer
  | _ => .withdraw

/-- A lead withholds its next bundle while its rope is frozen, and after it in the cycle to which the freeze has moved
its latest (R62). -/
def ropeFull (s : State) : Bool :=
  match (cur s).rope with
  | .lead l => decide (ropeClock s s.core s.ctx < s.cycle) || l.any fun e => match (ctxAt s e.1 e.2.1).fwd.getLast? with
    | some b => decide (ropeClock s s.core s.ctx + 2 * e.2.2 ≤ b.due)
    | none => false
  | _ => false
/-- The context waits after an issue, its next bundle waits for an access, or it is parked (R48, R202, R201)
(DEDUCED, log 13). -/
def busy (s : State) : Bool :=
  let c := cur s
  c.wait.isSome || c.starting.isSome || c.trapWait.isSome || c.stopped ||
  (accessesOf s s.core s.ctx).any (·.blocking) || ctxParked s s.core s.ctx

/-- The vector registers whose streams an instruction pops: WAITF's is only waited for (R126), so that a WAITF on a done
read stream has no effect on p15 (DESIGN CHOICE, log 119). -/
def popReads : Instr → List Nat
  | .waitf _ => []
  | i => vReads i
/-- The engines whose beat a bundle pops: every bound read stream that one of its instructions reads (R83, R254). -/
def popped (s : State) (is : List Instr) : List Nat :=
  let regs := (is.map popReads).flatten
  (cur s).streams.filterMap fun e => if !e.2.write && regs.contains e.2.vd then some e.1 else none
/-- p15 after the bundle: the AND of the beats' lane masks (R254). -/
def tailOf (s : State) (is : List Instr) : Option Pred :=
  let ms := (popped s is).filterMap fun e => match ffind (cur s).streams e with
    | some st => match beatNow s s.core st with | some (_, m, _) => some m | none => none
    | none => none
  if ms.isEmpty then none else some (ms.foldl (· &&& ·) (BitVec.allOnes 256))
/-- The registers with each bound read stream's beat in place (R83). -/
def snapshot (s : State) : Regs :=
  let c := cur s
  c.streams.foldl (fun r e => if e.2.write then r else
    match beatNow s s.core e.2 with
    | some (v, _, _) => { r with v := fset r.v e.2.vd v }
    | none => r) c.regs

/-- The first source with w = 0 that is empty (R90). -/
def emptyTrap (s : State) (pc : Nat) : List (Instr × Nat) → Option TrapReq
  | [] => none
  | (i, word) :: l =>
    match (srcs i).find? fun x => !x.w && srcEmpty s x with
    | some x => trapAt pc 2 (regCode x word)
    | none => emptyTrap s pc l
/-- SBIND waits for a value pending for the register it binds (R88) (DEDUCED, log 12). -/
def bindWaits (s : State) : Instr → Bool
  | .sbind f => (cur s).vp.getLsbD f.vd.toNat
  | _ => false
/-- Nothing holds the bundle (R89, R204) (DEDUCED, log 12). -/
def ready (s : State) (is : List Instr) : Bool :=
  !(is.any fun i => (srcs i).any (srcEmpty s)) && !(is.any fun i => (dests i).any (dstPending s)) &&
  !(is.any (bindWaits s)) &&
  !(acquiring s && is.any fun i => heldByAcquire i || streamAccess s i)
/-- The traps of the entries, C-class first (R90). -/
def entryTrapOf (s : State) (pc : Nat) (is : List Instr) : Option TrapReq :=
  let r := snapshot s
  let pops := (tailOf s is).isSome
  is.findSome? fun i => entryTrap s pc r pops i
/-- SEMV's trap on a full count comes after its release (R138). -/
def semvFull (s : State) (pc : Nat) (is : List Instr) : Bool :=
  is.any fun i => match i with | .semv _ => (entryTrap s pc (snapshot s) false i).isSome | _ => false
/-- IssueBundle after its decode (R90): EMPTY, the waits, the entries' traps, then what holds the end of a unit of work
(DEDUCED, log 12). -/
def check (s : State) (is : List (Instr × Nat)) : Check :=
  let pc := (cur s).pc
  if busy s then .wait
  else match emptyTrap s pc is with
    | some t => .trap t
    | none =>
      let l := is.map (·.1)
      if !ready s l || ropeFull s then .wait
      else match entryTrapOf s pc l with
        | some t => if semvFull s pc l && ownAccess s then .wait else .trap t
        | none => if l.any (endHolds s) then .wait else .go

/-- Instructions whose bundle a lead does not forward (R141) (DEDUCED, log 76). -/
def notForwarded : Instr → Bool
  | .rope _ | .unrope _ | .tend _ | .tabort _ => true
  | _ => false
/-- The lead forwards the bundle it issues to every second (R62, R141) (DEDUCED, log 76). -/
def forward (s : State) (is : List Instr) : State :=
  let c := cur s
  match c.rope with
  | .lead l =>
    if is.any notForwarded then s
    else
      let t := ropeClock s s.core s.ctx
      l.foldl (fun s e => modCtx s e.1 e.2.1 fun x =>
        { x with fwd := x.fwd ++ [{ pc := c.pc, instrs := is, p := c.regs.p, due := t + 2 * e.2.2 }] }) s
  | _ => s
/-- Every operand is read (R83). -/
def begin (s : State) (is : List Instr) : State :=
  let s' := forward (modCur s fun c => { c with npc := c.pc + 8 }) is
  { s' with latch := some (snapshot s), tail := tailOf s is }
/-- The bundle's beats are popped (R83, R254). -/
def popAll (s : State) (is : List Instr) : State := (popped s is).foldl popBeat s
/-- A context at the end of a bundle: p15, the next pc, the count of bundles (R249, R254). -/
def endCtx (tail : Option Pred) (c : Ctx) : Ctx :=
  let c := match tail with | some m => writeP c 15 m | none => c
  { c with pc := c.npc, icount := c.icount + 1 }
/-- The end of a bundle (DEDUCED, log 61). -/
def endBundle (s : State) : State :=
  let s' := modCur s (endCtx s.tail)
  { s' with latch := none, tail := none }

/-- Virtual addresses that an instruction accesses, with whether it reads and writes there (R371). -/
def watchSpan (r : Regs) : Instr → List (Nat × Nat) × Bool × Bool
  | .ldb f | .ldbu f => spanL f (addrL r f 1) 1
  | .ldh f | .ldhu f => spanL f (addrL r f 2) 2
  | .ldw f | .ldwu f => spanL f (addrL r f 4) 4
  | .ldd f => spanL f (addrL r f 8) 8
  | .ldv f => spanL f (addrL r f 64) 1024
  | .stb f => spanS f (addrS r f 1) 1
  | .sth f => spanS f (addrS r f 2) 2
  | .stw f => spanS f (addrS r f 4) 4
  | .std f => spanS f (addrS r f 8) 8
  | .stv f => spanS f (addrS r f 64) 1024
  | .ldaq f => ([((addrLA r f).toNat, 8)], true, false)
  | .strl f => ([((addrSR r f).toNat, 8)], false, true)
  | .ldvx f => (if spmX f then [] else (lanesX r f).map fun e => (e.2, 4), true, false)
  | .stvx f => (if spmX f then [] else (lanesX r f).map fun e => (e.2, 4), false, true)
  | .amoadd f | .amoand f | .amoor f | .amoxor f | .amomin f | .amomax f | .amominu f | .amomaxu f
  | .amoswp f | .amocas f | .amofadd f | .amoaddt f => ([((addrAM r f).toNat, 8)], true, true)
  | .wsclr f => ([((rx r f.rs1.toNat).toNat, (rx r f.rs2.toNat).toNat)], false, true)
  | .publ f => ([((rx r f.rs1.toNat).toNat, 8)], false, true)
  | .ctxsave f => ([((rx r f.rs1.toNat).toNat, 65536)], false, true)
  | .ctxload f => ([((rx r f.rs1.toNat).toNat, 65536)], true, false)
  | _ => ([], false, false)
where
  spanL (f : FmtL) (a : Dword) (n : Nat) : List (Nat × Nat) × Bool × Bool :=
    (if f.sp.toNat < 2 then [(a.toNat, n)] else [], true, false)
  spanS (f : FmtS) (a : Dword) (n : Nat) : List (Nat × Nat) × Bool × Bool :=
    (if f.sp = 0 then [(a.toNat, n)] else [], false, true)
/-- Watchpoint i of a core matches (R371) (DEDUCED, log 89). -/
def watchHits (c : Core) (x : List (Nat × Nat) × Bool × Bool) (i : Nat) : Bool :=
  let w := (c.wpc.getD i 0).toNat
  let base := (c.wpa.getD i 0).toNat
  let len := 2 ^ bits w 0 6
  bitAt w 63 && ((bitAt w 60 && x.2.1) || (bitAt w 61 && x.2.2)) &&
  x.1.any fun e => decide (e.1 < base + len ∧ base < e.1 + e.2)
/-- A stop for debug (R372): each running context enters the stopped sub-state, which the trace names (R49, R373)
(DEDUCED, log 121). -/
def debugStop (s : State) (n : Nat) : State :=
  if (coreAt s n).halted then s
  else
    let l := (coreAt s n).ctxs.filter fun (e : Nat × Ctx) => e.2.running && !e.2.stopped
    modCore (l.foldl (fun s e => trace s n e.1 6 e.2.pc 0) s) n fun c => { c with halted := true, haltAt := s.cycle }
/-- The watchpoint a bundle's accesses match is taken after its issue (R352, R371), once an instruction of the bundle
that still waits has performed its access (DEDUCED, log 89). -/
def watch (s : State) (pc : Nat) (is : List Instr) (r : Regs) (after : State) : State :=
  let core := coreAt s s.core
  let hit := [0, 1].find? fun i => is.any fun x => watchHits core (watchSpan r x) i
  match hit with
  | none => after
  | some i =>
    if bitAt (core.wpc.getD i 0).toNat 62 then debugStop after s.core
    else
      let t : TrapReq := { cause := 0x16, val := dn (2 * 2 ^ 16 + i), tpc := pc + 8, bpc := some pc }
      if (cur after).wait.isSome then modCur after fun c => { c with trapWait := some t } else takeTrap after t

/-- The instruction waits after its issue and performs its effect again when it can go on (R128). -/
def waitAgain (s : State) (i : Instr) (sub : SubState) (fate : BudgetFate) : State :=
  modCur s fun c => { c with wait := some { instr := i, ops := ops s, pc := c.pc, sub := sub, fate := fate, fin := .again } }
/-- The effect of an instruction that has issued, once what it waits for is over; a GBAR lends its class from its issue
on (R56). -/
def takeEffect (s : State) (i : Instr) (eff : State → State) : State :=
  if drains s i then
    let s := waitAgain s i (drainSub i) (drainFate i)
    match i with
    | .gbar _ => refreshInh s (partOf s s.core)
    | _ => s
  else eff s
/-- The trap of a bundle at its issue, after the release that SEMV makes first (R138). -/
def trapIssue (s : State) (is : List Instr) (t : TrapReq) : State :=
  takeTrap (if semvFull s (cur s).pc is && entryTrapOf s (cur s).pc is == some t then releaseAll s s.core else s) t
/-- An instruction of a bundle: one whose bundle has read its operands performs its effect; one that stands alone
issues (R90) (DEDUCED, log 11). -/
def issue (s : State) (i : Instr) (eff : State → State) : Host.Outcome State Fault Refusal :=
  match s.latch with
  | some _ => .next (takeEffect s i eff)
  | none =>
    match check s [(i, 0)] with
    | .wait => .next s
    | .trap t => .next (trapIssue s [i] t)
    | .go => .next (watch s (cur s).pc [i] (snapshot s) (endBundle (takeEffect (popAll (begin s [i]) [i]) i eff)))
/-- The instruction waits after its issue until another unit releases the context. -/
def waitRelease (s : State) (i : Instr) (sub : SubState) (fate : BudgetFate) : State :=
  modCur s fun c => { c with wait := some { instr := i, ops := ops s, pc := c.pc, sub := sub, fate := fate, fin := .release } }

end Sys2Proof.Machine
end

