-- ==== Sys2Proof/Machine/Flags.lean ====
section
/-! DEFINITION. The writes of A-class instructions under a governing predicate and the flags they OR into FRM
(spec/05 R83; spec/06 R99, R107, R114; spec/15 R275). -/

namespace Sys2Proof.Machine

/-- The governing predicate as the bundle read it (R82, R83). -/
def gpOf (s : State) (gp : BitVec 2) : Pred := rp (ops s) gp.toNat
/-- A scalar A-class instruction takes effect (R83). -/
def gpOn (s : State) (gp : BitVec 2) : Bool := (gpOf s gp).getLsbD 0
/-- Writes x[rd] under the governing predicate. -/
def putX (s : State) (gp : BitVec 2) (rd : BitVec 6) (v : Dword) : State :=
  if gpOn s gp then modCur s fun c => writeX c rd.toNat v else s
/-- Writes x[rd] and ORs flags into FRM (R114). -/
def putXF (s : State) (gp : BitVec 2) (rd : BitVec 6) (v : Nat × Flags) : State :=
  if gpOn s gp then modCur s fun c => orFlags (writeX c rd.toNat (dn v.1)) v.2 else s
/-- Writes the bits of p[pd] that the governing predicate enables (R275). -/
def putP (s : State) (gp : BitVec 2) (pd : BitVec 6) (v : Pred) : State :=
  let g := gpOf s gp
  modCur s fun c => writeP c pd.toNat ((rp c.regs pd.toNat &&& ~~~g) ||| (v &&& g))
/-- Writes the enabled bits of p[pd] and ORs the flags of the lanes written. -/
def putPF (s : State) (gp : BitVec 2) (pd : BitVec 6) (v : Pred) (fl : Flags) : State :=
  modCur (putP s gp pd v) fun c => orFlags c fl
/-- The flags of the lanes a predicate enables (R275). -/
def laneFlags (g : Pred) (f : Nat → Flags) : Flags :=
  (List.range 256).foldl (fun a i => if g.getLsbD i then a ||| f i else a) 0
/-- Writes the enabled lanes of v[vd] (R275, R276). -/
def putV (s : State) (gp : BitVec 2) (vd : BitVec 6) (f : Nat → Word) : State := putLanes s vd.toNat (gpOf s gp) f
/-- Writes the enabled lanes of v[vd] and ORs their flags. -/
def putVF (s : State) (gp : BitVec 2) (vd : BitVec 6) (f : Nat → Word) (fl : Nat → Flags) : State :=
  let g := gpOf s gp
  modCur (putLanes s vd.toNat g f) fun c => orFlags c (laneFlags g fl)

/-- FRM as the bundle read it: mode, flush, and the random value of R249. -/
def envOf (s : State) (col : Nat) : Env :=
  { mode := rmOf (ops s), fz := fzOf (ops s), r := srLane s 0 col }
/-- The same under a rounding modifier (R113, R286): 6 is the mode in FRM. -/
def envRnd (s : State) (rnd col : Nat) : Env :=
  let e := envOf s col
  if rnd = 6 then e else { e with mode := rnd }

end Sys2Proof.Machine
end

