-- ==== Sys2Proof/Machine/Memory.lean ====
section
/-! DEFINITION. Loads, stores, acquire and release, vector accesses, cache range instructions, atomics, FENCE and
the binding of streams (spec/11 R199-R212, R218, R219). -/

namespace Sys2Proof.Machine

/-- An access in a space: 2 is the scratchpad's (R151). -/
def inSpace (a : Access) (space : Nat) : Access := { a with spm := space == 2 }
/-- A scalar load (R202): rd is empty from the issue on; a value of TCM is read now (R150), another by an access. -/
def loadEff (s : State) (f : FmtL) (unit size : Nat) (signed : Bool) : State :=
  let a := (addrL (ops s) f unit).toNat
  let rd := f.rd.toNat
  let s := modCur s fun c => emptyX c rd
  match spaceL f.sp with
  | 1 => sendX s s.core s.ctx rd (loadValue size signed (tcmRead s s.core a size))
  | n => submit s (inSpace (accessOf s (.load size signed (f.sp == 1) rd) 0 (pieces a size false 0 1) 0 false) n)
/-- A scalar store (R202): a virtual one holds the next bundle until its home has answered, unless an L1 line
takes it at once. -/
def storeEff (s : State) (f : FmtS) (unit size : Nat) : State :=
  let a := (addrS (ops s) f unit).toNat
  let v := (rx (ops s) f.rs2.toNat).toNat
  match f.sp.toNat with
  | 1 => tcmWrite s s.core a size v
  | n => submit s (inSpace (accessOf s .store 0 (pieces a size true 0 1) v (n == 0)) n)

def execLdb (f : FmtL) (s : State) := issue s (.ldb f) fun s => loadEff s f 1 1 true
def execLdbu (f : FmtL) (s : State) := issue s (.ldbu f) fun s => loadEff s f 1 1 false
def execLdh (f : FmtL) (s : State) := issue s (.ldh f) fun s => loadEff s f 2 2 true
def execLdhu (f : FmtL) (s : State) := issue s (.ldhu f) fun s => loadEff s f 2 2 false
def execLdw (f : FmtL) (s : State) := issue s (.ldw f) fun s => loadEff s f 4 4 true
def execLdwu (f : FmtL) (s : State) := issue s (.ldwu f) fun s => loadEff s f 4 4 false
def execLdd (f : FmtL) (s : State) := issue s (.ldd f) fun s => loadEff s f 8 8 false
def execStb (f : FmtS) (s : State) := issue s (.stb f) fun s => storeEff s f 1 1
def execSth (f : FmtS) (s : State) := issue s (.sth f) fun s => storeEff s f 2 2
def execStw (f : FmtS) (s : State) := issue s (.stw f) fun s => storeEff s f 4 4
def execStd (f : FmtS) (s : State) := issue s (.std f) fun s => storeEff s f 8 8

/-- LDAQ (R204): the load; its acquire follows when it is performed. -/
def execLdaq (f : FmtLA) (s : State) : Host.Outcome State Fault Refusal :=
  issue s (.ldaq f) fun s =>
    let a := (addrLA (ops s) f).toNat
    let s := modCur s fun c => emptyX c f.rd.toNat
    submit s (accessOf s (.ldaq f.scope.toNat f.rd.toNat) 0 (pieces a 8 false 0 1) 0 false)
/-- The writeback of a release at a scope (R166, R183). -/
def releaseAt (s : State) (sc : BitVec 3) : State := if 2 ≤ sc.toNat then releaseAll s s.core else s
/-- A release's store or atomic is sent with the core's signature, which is cleared as it is sent (R166, R183). -/
def withSig (s : State) (sc : BitVec 3) (a : Access) : State × Access :=
  if 2 ≤ sc.toNat && !Config.isHome s.core then
    (modCore s s.core fun c => { c with sig := 0 }, { a with sig := (coreAt s s.core).sig })
  else (s, a)
/-- The release at a scope, then the access that it goes with. -/
def submitRel (s : State) (sc : BitVec 3) (a : Access) : State :=
  let (s, a) := withSig (releaseAt s sc) sc a
  submit s a
/-- STRL (R205): the release, then the store. -/
def execStrl (f : FmtSR) (s : State) : Host.Outcome State Fault Refusal :=
  issue s (.strl f) fun s =>
    let a := (addrSR (ops s) f).toNat
    let v := (rx (ops s) f.rs2.toNat).toNat
    submitRel s f.scope (accessOf s (.strl f.scope.toNat) 0 (pieces a 8 true 0 1) v true)

/-- LDV (R206). -/
def execLdv (f : FmtL) (s : State) : Host.Outcome State Fault Refusal :=
  issue s (.ldv f) fun s =>
    let a := (addrL (ops s) f 64).toNat
    let rd := f.rd.toNat
    let s := modCur s fun c => emptyV c rd
    match spaceL f.sp with
    | 1 => sendV s s.core s.ctx rd (BitVec.ofNat 8192 (tcmRead s s.core a 1024))
    | 0 => submit s (accessOf s (.ldv (f.sp == 1) rd) 0 (pieces a 64 false 0 16) 0 false)
    | n => submit s (inSpace (accessOf s (.ldv false rd) 0 (pieces a 8 false 0 128) 0 false) n)
/-- STV (R206): each aligned dword is one write. -/
def execStv (f : FmtS) (s : State) : Host.Outcome State Fault Refusal :=
  issue s (.stv f) fun s =>
    let a := (addrS (ops s) f 64).toNat
    let v := (rv (ops s) f.rs2.toNat).toNat
    match f.sp.toNat with
    | 1 => tcmWrite s s.core a 1024 v
    | n => submit s (inSpace (accessOf s .stv 0 (pieces a 8 true 0 128) v (n == 0)) n)
/-- The pieces of a gather or scatter: lane i at place 4i (R207). -/
def piecesX (write : Bool) (l : List (Nat × Nat)) : List Piece :=
  l.map fun e => { va := e.2, size := 4, pos := 4 * e.1, write := write }
/-- LDVX (R207): inactive lanes receive 0. -/
def execLdvx (f : FmtR) (s : State) : Host.Outcome State Fault Refusal :=
  issue s (.ldvx f) fun s =>
    let l := lanesX (ops s) f
    let rd := f.rd.toNat
    let s := modCur s fun c => emptyV c rd
    submit s (inSpace (accessOf s (.ldvx rd) 0 (piecesX false l) 0 false) (if spmX f then 2 else 0))
/-- STVX (R207): the highest of several lanes with one address is written last. -/
def execStvx (f : FmtR) (s : State) : Host.Outcome State Fault Refusal :=
  issue s (.stvx f) fun s =>
    let l := lanesX (ops s) f
    let v := rv (ops s) f.rd.toNat
    submit s (inSpace (accessOf s .stvx 0 (piecesX true l) v.toNat (!spmX f)) (if spmX f then 2 else 0))

/-- The access that stands for a prefetch of the core that issues. -/
def prefAccess (s : State) : Access := accessOf s (.load 64 false true 0) 0 [] 0 false
/-- A prefetch of one line for the counters from `b` on (R208, R378): a far core's L1, or a home core's slice, asks for
it, unless it holds the line or has asked already (DEDUCED, log 26; DEDUCED, log 112). -/
def fetchLine (s : State) (b va : Nat) : State :=
  let s := bump s s.core b
  let a := prefAccess s
  let k := lineKey a.part va
  let held := if isFar a then (l1Line s s.core k).isSome else (homeLine s k).isSome
  if held || (ffind (coreAt s s.core).inflight k).isSome then s
  else modCore s s.core fun c => { c with inflight := fset c.inflight k b }
/-- A prefetch parks nowhere: what its walk has found stays (R315, R316), and no monitor is armed for it (R208). -/
def oldMonitors (s t : State) : State :=
  { t with slices := t.slices.map fun (e : Nat × Slice) => (e.1, { e.2 with monitors := (sliceAt s e.1).monitors }) }
/-- The state that a skipped prefetch leaves (R208). -/
def prefLeft (s : State) : PRes → State
  | .done t _ _ | .stall t _ | .refuse t _ _ | .refuseVal t _ _ _ => t
  | .park t _ _ _ _ => oldMonitors s t
/-- A line that a home core's prefetch has asked for comes to its slice under its type (R208, R378). -/
def prefHome (s : State) (g : Go) (a : Access) (k : Nat) : State :=
  match locate s g a (keyVa k) false with
  | .no r => prefLeft s r
  | .ok t _ u =>
    if u.hw || u.dup || (homeLine t k).isSome then t
    else match fillHome t k (leafPa u 0 (keyVa k) / 64 * 64) u.w u.ct with
      | .ok t => modHome t k fun h => { h with pref := some a.core }
      | _ => t
/-- A line that a prefetch has asked for comes, or is skipped: one that would fault, park or wait, for a walker among
them (R208, R322, R378). -/
def prefCome (s : State) (n k : Nat) : State :=
  match ffind (coreAt s n).inflight k with
  | none => s
  | some b =>
    let s := modCore s n fun c => { c with inflight := fdel c.inflight k }
    let a := prefAccess { s with core := n }
    let g : Go := { walk := walkerFree s a.part (keyVa k), grant := true, pref := true }
    if !isFar a then prefHome s g a k
    else
      let r := performRead s g a (keyVa k) 64 true false
      match r, l1Line (prefLeft s r) n k with
      | .done t _ _, some l => setL1 t n k { l with pref := some b }
      | r, _ => prefLeft s r
/-- A PREF of one line (R208). -/
def prefLine (s : State) (va : Nat) : State := fetchLine s 4 va
/-- The line that a stride prefetcher may ask for next: the latest three lines that the core demanded lie one stride
apart, and it is further ahead by a multiple of that stride, which the spec leaves open (DEDUCED, log 26). -/
def strideLine (l : List Nat) (m : Nat) : Option Nat :=
  match l with
  | [a, b, c] =>
    let d : Int := (a : Int) - b
    let n : Int := a + d * (m + 1)
    if d != 0 && (b : Int) - c == d && decide (0 ≤ n ∧ n < 2 ^ 51) then some n.toNat else none
  | _ => none
/-- The stride prefetcher of a core's L1 asks for a line (R378) (DEDUCED, log 26). -/
def stridePrefetch (s : State) (n : Nat) : State :=
  let (v, s) := freeDword s
  match strideLine (coreAt s n).seen (v.toNat % 64) with
  | none => s
  | some line =>
    let t := fetchLine { s with core := n } 0 (64 * line)
    { t with core := s.core }
/-- The lines that a range meets, at most 2 MiB from the base. -/
def rangeLines (base len : Nat) : List Nat :=
  let n := min len (2 ^ 21)
  if n = 0 then [] else (List.range ((base + n - 1) / 64 - base / 64 + 1)).map fun i => (base / 64 + i) * 64
/-- (DEDUCED, log 112) -/
def execPref (f : FmtR) (s : State) : Host.Outcome State Fault Refusal :=
  issue s (.pref f) fun s =>
    (rangeLines (rx (ops s) f.rs1.toNat).toNat (rx (ops s) f.rs2.toNat).toNat).foldl prefLine s
/-- The range of a cache instruction; empty when its length is 0. -/
def inRange (s : State) (f : FmtR) (k : Nat) : Bool :=
  let b := (rx (ops s) f.rs1.toNat).toNat
  let n := (rx (ops s) f.rs2.toNat).toNat
  n != 0 && keyIn (partOf s s.core) b (b + n) k
/-- INVR (R208). -/
def execInvr (f : FmtR) (s : State) : Host.Outcome State Fault Refusal :=
  issue s (.invr f) fun s => dropWhere s s.core fun k _ => inRange s f k
/-- WBR (R208). -/
def execWbr (f : FmtR) (s : State) : Host.Outcome State Fault Refusal :=
  issue s (.wbr f) fun s => cleanWhere s s.core fun k l => (l.ct == ctRC || l.ct == ctPV) && inRange s f k

/-- An atomic (R209): its release, then the access, whose acquire ends it. -/
def amoEff (s : State) (f : FmtAM) (op : Nat) : State :=
  let r := ops s
  let a := (addrAM r f).toNat
  let rd := f.rd.toNat
  let s := modCur s fun c => emptyX c rd
  submitRel s f.scope (accessOf s (.amo op f.scope.toNat rd (rx r f.rs2.toNat) (rx r rd)) 0 (pieces a 8 false 0 1) 0 false)
def execAmoadd (f : FmtAM) (s : State) := issue s (.amoadd f) fun s => amoEff s f 0
def execAmoand (f : FmtAM) (s : State) := issue s (.amoand f) fun s => amoEff s f 1
def execAmoor (f : FmtAM) (s : State) := issue s (.amoor f) fun s => amoEff s f 2
def execAmoxor (f : FmtAM) (s : State) := issue s (.amoxor f) fun s => amoEff s f 3
def execAmomin (f : FmtAM) (s : State) := issue s (.amomin f) fun s => amoEff s f 4
def execAmomax (f : FmtAM) (s : State) := issue s (.amomax f) fun s => amoEff s f 5
def execAmominu (f : FmtAM) (s : State) := issue s (.amominu f) fun s => amoEff s f 6
def execAmomaxu (f : FmtAM) (s : State) := issue s (.amomaxu f) fun s => amoEff s f 7
def execAmoswp (f : FmtAM) (s : State) := issue s (.amoswp f) fun s => amoEff s f 8
def execAmocas (f : FmtAM) (s : State) := issue s (.amocas f) fun s => amoEff s f 9
def execAmofadd (f : FmtAM) (s : State) := issue s (.amofadd f) fun s => amoEff s f 10
def execAmoaddt (f : FmtAM) (s : State) := issue s (.amoaddt f) fun s => amoEff s f 11

/-- FENCE's cache actions (R168), at scope clus or wider: a writeback when the earlier set holds w, a drop of
every RC line when the later set holds r. MASK bits: 0 r→r, 1 r→w, 2 w→r, 3 w→w (R87). -/
def fenceEff (s : State) (f : FmtF) : State :=
  let m := f.mask
  if f.scope.toNat < 2 then s
  else
    let s := if m.getLsbD 2 || m.getLsbD 3 then releaseAll s s.core else s
    if m.getLsbD 0 || m.getLsbD 2 then acquireAll s s.core else s
/-- FENCE (R212), its waits over. -/
def execFence (f : FmtF) (s : State) : Host.Outcome State Fault Refusal :=
  issue s (.fence f) fun s => fenceEff s f

/-- The stream that SBIND's eight registers describe (R218). -/
def streamOf (r : Regs) (f : FmtSB) : Stream :=
  let x (i : Nat) := rx r (f.rs1.toNat + i)
  { vd := f.vd.toNat, write := (x 1).getLsbD 2, space := bits (x 1).toNat 0 2, elem := bits (x 1).toNat 4 4,
    base := x 0, stride := [x 2, x 3, x 4], bound := [(x 5).toNat, (x 6).toNat, (x 7).toNat] }
/-- SBIND (R218): the binding, and the first read ahead. -/
def execSbind (f : FmtSB) (s : State) : Host.Outcome State Fault Refusal :=
  issue s (.sbind f) fun s =>
    let st := streamOf (ops s) f
    readAhead (modCur s fun c => { c with streams := fset c.streams f.eng.toNat st }) f.eng.toNat
/-- SUNBIND (R219): read-ahead is discarded, and vd is zero and full. -/
def execSunbind (f : FmtSB) (s : State) : Host.Outcome State Fault Refusal :=
  issue s (.sunbind f) fun s =>
    match boundTo (cur s) f.vd.toNat with
    | none => s
    | some (eng, _) =>
      let s := { s with accesses := s.accesses.filter fun a =>
        !(a.core == s.core && a.ctx == s.ctx && !a.host && (match a.kind with | .streamRead e _ => e == eng | _ => false)) }
      modCur s fun c => writeV { c with streams := fdel c.streams eng } f.vd.toNat 0

end Sys2Proof.Machine
end

