-- ==== Sys2Proof/Machine/Pages.lean ====
section
/-! DEFINITION. Signatures, regions, page types, full bits and the cairn (spec/11 R213-R217; spec/09 R169-R173;
spec/10 R184, R187-R189) and XINV (spec/18 R333). -/

namespace Sys2Proof.Machine

/-- SIGCLR (R184, R213). -/
def execSigclr (f : FmtR) (s : State) : Host.Outcome State Fault Refusal :=
  issue s (.sigclr f) fun s => sigClear s (lineKey (partOf s s.core) (rx (ops s) f.rs1.toNat).toNat)

/-- Every L1 of a cluster writes back and drops the lines of an entry's range (R189) (DEDUCED, log 45). -/
def dropRegion (s : State) (clu p : Nat) (r : Region) : State :=
  if !r.v then s
  else
    let lo := r.base.toNat * 4096
    let hi := lo + (r.lenm1.toNat + 1) * 4096
    (List.range 8).foldl (fun s i => dropWhere s (8 * clu + i) fun k _ => keyIn p lo hi k) s
/-- The entry that REGSET writes (R214). -/
def regionOf (b d : Dword) : Region :=
  { v := true, state := BitVec.ofNat 2 (bits d.toNat 8 2), core := BitVec.ofNat 3 (bits d.toNat 12 3),
    lenm1 := BitVec.ofNat 45 (bits d.toNat 16 45), base := BitVec.ofNat 45 (bits b.toNat 12 45) }
def setRegion (s : State) (clu e : Nat) (r : Region) : State :=
  modClu s clu fun c => { c with regions := fset c.regions e r }
/-- Accesses of the cluster's cores that passed under the old entries are not yet performed: they finish under these,
and what they leave in an L1 is dropped too (R189). A read of an empty word is not waited for. -/
def regionWaits (s : State) (clu : Nat) : Bool :=
  s.accesses.any fun a => !a.host && a.core / 8 == clu &&
    (a.loc.isSome || a.checked && (match a.stage with | .word _ => false | _ => true))
/-- REGSET (R189, R214): the lines of the entry replaced and of the new one leave the L1s (DEDUCED, log 45). -/
def execRegset (f : FmtR) (s : State) : Host.Outcome State Fault Refusal :=
  issue s (.regset f) fun s =>
    let d := rx (ops s) f.rs2.toNat
    let new := regionOf (rx (ops s) f.rs1.toNat) d
    let clu := clusterFor s s.core
    let e := bits d.toNat 0 6
    let p := partOf s s.core
    let old := fget {} (cluAt s clu).regions e
    if regionWaits s clu then waitAgain s (.regset f) .full .defer
    else setRegion (dropRegion (dropRegion s clu p old) clu p new) clu e new
/-- REGCLR (R189, R214). -/
def execRegclr (f : FmtR) (s : State) : Host.Outcome State Fault Refusal :=
  issue s (.regclr f) fun s =>
    let e := bits (rx (ops s) f.rs1.toNat).toNat 0 6
    let clu := clusterFor s s.core
    let old := fget {} (cluAt s clu).regions e
    if regionWaits s clu then waitAgain s (.regclr f) .full .defer
    else setRegion (dropRegion s clu (partOf s s.core) old) clu e { old with v := false }

/-- Parts of a range that lie in one granule each, ascending (R216). -/
def granules : Nat → Nat → Nat → Nat → List Piece
  | 0, _, _, _ => []
  | fuel + 1, va, n, pos =>
    if n = 0 then []
    else
      let k := min n (4096 - va % 4096)
      { va := va, size := k, pos := pos, write := true } :: granules fuel (va + k) (n - k) (pos + k)
/-- WSCLR (R186, R216). -/
def execWsclr (f : FmtR) (s : State) : Host.Outcome State Fault Refusal :=
  issue s (.wsclr f) fun s =>
    let a := (rx (ops s) f.rs1.toNat).toNat
    let n := (rx (ops s) f.rs2.toNat).toNat
    submit s (accessOf s .wsclr 0 (granules (n / 4096 + 2) a n 0) 0 true)
/-- PUBL (R146, R197, R217). -/
def execPubl (f : FmtR) (s : State) : Host.Outcome State Fault Refusal :=
  issue s (.publ f) fun s =>
    let a := (rx (ops s) f.rs1.toNat).toNat
    submit s (accessOf s .publ 0 (pieces a 8 true 0 1) (rx (ops s) f.rs2.toNat).toNat true)

/-- A walk that only reads (R170): the state after its fills, and the leaf, or the line an HBM retry keeps. -/
inductive LeafRes where
  | leaf (s : State) (l : Leaf)
  | none (s : State)
  | retry (s : State)
  deriving DecidableEq, Repr
def readLeaf (p va : Nat) : Nat → State → Nat → Nat → LeafRes
  | 0, s, _, _ => .none s
  | fuel + 1, s, lvl, table =>
    let w := partAt s p
    let wva := windowVa w + (table + 8 * bits va (12 + 9 * lvl) 9) % 2 ^ 30
    match fillWindow s p wva with
    | .refuse _ => .none s
    | .retry _ | .busy => .retry s
    | .ok s =>
      let e := scPeek s (lineKey p wva) (wva % 64) 8
      if !bitAt e 0 || bits e 52 12 != 0 || bitAt e 10 then .none s
      else if lvl = 0 || (lvl < 3 && bitAt e 2) then .leaf s { level := lvl, va := wva, entry := e }
      else if lvl ≥ 3 && bitAt e 2 || bitAt e 11 || bits e 30 22 != bits w.ptroot.toNat 30 22 then .none s
      else readLeaf p va fuel s (lvl - 1) (bits e 12 40 * 4096)
def findLeaf (s : State) (p va : Nat) : LeafRes :=
  if inWindow (partAt s p) va then .none s else readLeaf p va 5 s 4 (bits (partAt s p).ptroot.toNat 12 40 * 4096)

/-- Size of the page of a leaf: 16 leaves under C = 1 (R324). -/
def leafSize (l : Leaf) : Nat := 2 ^ (12 + 9 * l.level) * (if bitAt l.entry 5 then 16 else 1)
def leafFrame (l : Leaf) : Nat := bits l.entry 12 40 * 4096 / leafSize l * leafSize l
def leafCt (l : Leaf) : BitVec 2 := BitVec.ofNat 2 (bits l.entry 3 2)
/-- The cluster's table holds one PRIV entry over a whole page (R173). -/
def privWhole (s : State) (core base size : Nat) : Bool :=
  !Config.isHome core && (cluAt s (core / 8)).regions.any fun e =>
    e.2.v && e.2.state == 1 && decide (e.2.base.toNat * 4096 ≤ base ∧
      base + size ≤ (e.2.base.toNat + e.2.lenm1.toNat + 1) * 4096)
/-- R173: RETYPE fails, also where a home holds the page in transition (DEDUCED, log 44). -/
def retypeFails (s : State) (core p base : Nat) (l : Leaf) : Bool :=
  let ct := leafCt l
  let narrow := ct == ctSC || ct == ctPV
  ((partAt s p).transit.any fun t => decide (t.base < base + leafSize l ∧ base < t.base + t.size)) ||
  !bitAt l.entry 11 || bitAt l.entry 9 || (narrow && (bitAt l.entry 8 || isPeer (leafFrame l))) ||
  (ct == ctPV && !privWhole s core base (leafSize l))

/-- Full bits that a line of a retyped page has (R171). -/
def retypeFull (old new : BitVec 2) (b : BitVec 8) : BitVec 8 := if new == ctWS && old != ctWS then 0xFF else b
/-- R171 on one line, by the type recorded with it: every L1 copy comes home, and the home's copy takes the new type. A
line that has it already keeps all. -/
def retypeHome (new : BitVec 2) (s : State) (k : Nat) : State :=
  if homeLine s k |>.any fun h => h.ct == new then s
  else
    let s := recallAll s k
    modHome s k fun h => settleTokens { h with ct := new, full := retypeFull h.ct new h.full }
/-- Keys of a page's lines that any home or L1 holds. -/
def pageKeys (s : State) (p base size : Nat) : List Nat :=
  let inside (k : Nat) : Bool := keyIn p base (base + size) k
  let homes := (s.slices.map fun e => (e.2.lines.map (·.1)).filter inside).flatten
  let l1s := (s.cores.map fun e => (e.2.l1.map (·.1)).filter inside).flatten
  homes ++ l1s.filter fun k => !homes.contains k
/-- The full bits of a page's lines that are in no slice, and those kept for host pages and peer lines, when the
page becomes WS from another type: every word is full (R171). -/
def fillBits (m : FMap (BitVec 8)) : List Nat → FMap (BitVec 8)
  | [] => m
  | k :: l => fillBits (fset m k 0xFF) l
def retypeMeta (s : State) (p base : Nat) (l : Leaf) (old : BitVec 2) : State :=
  let n := leafSize l / 64
  if leafCt l != ctWS || old == ctWS then s
  else if bitAt l.entry 8 then
    (List.range n).foldl (fun s i =>
      let k := lineKey p (base + 64 * i)
      modSlice s (keyHome s k) fun x => { x with hwfull := fset x.hwfull k 0xFF }) s
  else
    let pas := (List.range n).map fun i => leafFrame l / 64 + i
    if isPeer (leafFrame l) then { s with peerFull := fillBits s.peerFull pas }
    else { s with wsMeta := fillBits s.wsMeta pas }
/-- The old type of a page: what its leaf last gave with TR = 0. Of a page that never was mapped otherwise the spec
names no old type (DESIGN CHOICE, log 127). -/
def oldType (s : State) (p : Nat) (l : Leaf) : BitVec 2 × State :=
  match ffind (partAt s p).ptypes l.va with
  | some ct => (ct, s)
  | none =>
    let (v, s) := freeDword s
    (BitVec.ofNat 2 v.toNat, s)
/-- Homes replace their translations of the page (R170). -/
def retypeTlb (s : State) (p base : Nat) (l : Leaf) : State :=
  let f (t : Tlb) : Tlb := if t.fault.isNone && tlbHit p base t then
      { t with ct := leafCt l, frame := leafFrame l, w := bitAt l.entry 1, d := bitAt l.entry 7, hw := bitAt l.entry 8,
               pte := l.va, leaf := l.entry - 2 ^ 11 }
    else t
  { s with slices := s.slices.map fun (e : Nat × Slice) =>
    (e.1, { e.2 with tlb1 := e.2.tlb1.map f, tlb2 := e.2.tlb2.map f }) }
/-- Reads that wait on empty words restart (R171), and so do accesses that a registered copy holds (R190). -/
def restartWords (s : State) (p lo hi : Nat) : State :=
  { s with accesses := s.accesses.map fun a =>
    match a.stage with
    | .word _ | .claimed _ => if a.part == p && a.pieces.any fun x => decide (lo ≤ x.va ∧ x.va < hi) then { a with stage := .ready, checked := false } else a
    | _ => a }
/-- The window addresses of a page's leaf, or of all 16 (R324). -/
def leafVas (l : Leaf) : List Nat :=
  if bitAt l.entry 5 then (List.range 16).map fun i => l.va / 128 * 128 + 8 * i else [l.va]
/-- The homes of the leaf's lines can write them now: none is claimed, or has to wait for its fill (R190, R191, R400). -/
def leavesReady (p : Nat) (s : Option State) (va : Nat) : Option State :=
  s.bind fun s => match fillWindow s p va with
    | .ok t => some t
    | .refuse _ => some s
    | .retry _ | .busy => none
/-- TR = 0 is written in the leaf, or in all 16 (R170); each write fires its line's monitor. -/
def clearTr (s : State) (p : Nat) (l : Leaf) : State :=
  (leafVas l).foldl (fun s a =>
    match fillWindow s p a with
    | .ok s =>
      let e := scPeek s (lineKey p a) (a % 64) 8
      putWindow s p a (if bitAt e 11 then e - 2 ^ 11 else e)
    | _ => s) s
/-- RETYPE past its checks (R170-R172), on a page at `base`. -/
def retypePage (s : State) (p base : Nat) (l : Leaf) : State :=
  let (old, s) := oldType s p l
  let size := leafSize l
  let s := (pageKeys s p base size).foldl (retypeHome (leafCt l)) s
  let s := retypeTlb (retypeMeta s p base l old) p base l
  clearTr (restartWords s p base (base + size)) p l
/-- Accesses that a home has translated, and not yet performed, touch a range (R172, R333). -/
def underWay (a : Access) : Bool :=
  a.loc.isSome || match a.stage with | .token _ _ => true | .hbm _ | .ready | .held | .way => a.checked | _ => false
def translated (s : State) (p lo hi : Nat) : Bool :=
  s.accesses.any fun a =>
    underWay a && a.part == p && (a.pieces.take 1).any fun x => decide (x.va < hi ∧ lo < x.va + x.size)
/-- The page that the issuing context's RETYPE holds in transition. -/
def ownTransit (s : State) : Option Transit :=
  (partAt s (partOf s s.core)).transit.find? fun t => t.core == s.core && t.ctx == s.ctx
/-- RETYPE's end (R170): every home has acted, the leaf is written, the transition is over, Acquire(dev, page). -/
def endRetype (s : State) (t : Transit) : State :=
  let p := partOf s s.core
  let s := modPart s p fun x => { x with transit := x.transit.filter fun u => u != t }
  acquireRange (retypePage s p t.base t.leaf) s.core t.base (t.base + t.size)
/-- It ends once no access under the old type is under way and the leaf can be written; until then it waits (R172). -/
def tryRetype (s : State) (f : FmtR) (t : Transit) : State :=
  let p := partOf s s.core
  let wait (s : State) : State := waitAgain s (.retype f) .full .defer
  if translated s p t.base (t.base + t.size) then wait s
  else match (leafVas t.leaf).foldl (leavesReady p) (some s) with
    | some s => endRetype s t
    | none => wait s
/-- RETYPE (R170-R173, R215): Release(dev, all), the checks, then the page in transition while accesses under the old
type are being performed: new ones park at the homes until it ends. A window address has no leaf (R327) (DEDUCED, log
43). -/
def retypeEff (s : State) (f : FmtR) : State :=
  let va := (rx (ops s) f.rs1.toNat).toNat
  let p := partOf s s.core
  match ownTransit s with
  | some t => tryRetype s f t
  | none =>
    let s := releaseAll s s.core
    let fail (s : State) : State :=
      sendRefusal s s.core s.ctx { cause := 0x0C, sub := 0, tval := dn va, rpc := (cur s).pc, defers := true }
    match findLeaf s p va with
    | .retry s => waitAgain s (.retype f) .full .defer
    | .none s => fail s
    | .leaf s l =>
      let t : Transit := { base := va / leafSize l * leafSize l, size := leafSize l, leaf := l, core := s.core, ctx := s.ctx }
      if retypeFails s s.core p t.base l then fail s
      else tryRetype (modPart s p fun x => { x with transit := x.transit ++ [t] }) f t
def execRetype (f : FmtR) (s : State) : Host.Outcome State Fault Refusal :=
  issue s (.retype f) fun s => retypeEff s f

/-- XINV's range (R333): first address and end. -/
def xinvRange (r : Regs) (f : FmtR) : Nat × Nat :=
  let d := (rx r f.rs2.toNat).toNat
  if bitAt d 7 then (0, 2 ^ 57)
  else ((rx r f.rs1.toNat).toNat, (rx r f.rs1.toNat).toNat + pageSize (bits d 0 3))
def meets (lo hi base size : Nat) : Bool := decide (base < hi ∧ lo < base + size)
/-- XINV waits for the copies registered over its range, with WB, for the walks that run, and for the accesses already
translated through it. -/
def xinvWaits (s : State) (p lo hi : Nat) (wb : Bool) : Bool :=
  (wb && s.slices.any fun e => e.2.ranges.any fun r => r.2.1 == p && decide (r.2.2.1 < hi ∧ lo < r.2.2.2)) ||
  (s.accesses.any fun a => a.part == p && (match a.stage with | .table _ _ | .walkWay _ (some _) => true | _ => false)) || translated s p lo hi
/-- Range of addresses that a walk-cache entry covers. -/
def walkCovers (e : WalkEntry) (lo hi : Nat) : Bool :=
  let size := 2 ^ (12 + 9 * e.level)
  meets lo hi (e.tag * size) size
/-- Translation, fault and walk entries whose range meets the range go (R333). -/
def dropTranslations (s : State) (p lo hi : Nat) : State :=
  let s := dropFaults s p lo hi
  let keep (t : Tlb) : Bool := !(t.part == p && meets lo hi t.base t.size)
  let keepW (e : WalkEntry) : Bool := !(e.part == p && walkCovers e lo hi)
  { s with
    slices := s.slices.map fun (e : Nat × Slice) =>
      (e.1, { e.2 with tlb1 := e.2.tlb1.filter keep, tlb2 := e.2.tlb2.filter keep, walks := e.2.walks.filter keepW })
    dies := s.dies.map fun (e : Nat × Die) => (e.1, { e.2 with poolWalks := e.2.poolWalks.filter keepW }) }
/-- Frame records of the frames a range's home lines stand for are cleared (R176), with the lines written back
and dropped. -/
def flushRange (s : State) (p lo hi : Nat) : State :=
  let s := s.cores.foldl (fun s e => dropWhere s e.1 fun k _ => keyIn p lo hi k) s
  (s.slices.map fun e => (e.2.lines.map (·.1)).filter (keyIn p lo hi)).flatten.foldl evictHome s
/-- The frames owned by a partition's granules in a range. -/
def clearFrames (s : State) (p lo hi : Nat) : State :=
  { s with frames := s.frames.map fun (e : Nat × Frame) =>
    match e.2.owner with
    | some (q, g) => if q == p && decide (g * 4096 < hi ∧ lo < (g + 1) * 4096) then (e.1, { e.2 with owner := none, sealed := 0 }) else e
    | none => e }
/-- Without WB every L1 copy in the range loses its write permission (R321, R333). -/
def dropPermission (s : State) (p lo hi : Nat) : State :=
  { s with cores := s.cores.map fun (e : Nat × Core) =>
    (e.1, { e.2 with l1 := e.2.l1.map fun (x : Nat × L1Line) => if keyIn p lo hi x.1 then (x.1, { x.2 with wr := false }) else x }) }
/-- Duplicated lines held at stand-in slices are named by the same keys; a slice other than the home forgets
them with the range. -/
def dropReplicas (s : State) (p lo hi : Nat) : State :=
  { s with slices := s.slices.map fun (e : Nat × Slice) =>
    (e.1, { e.2 with lines := e.2.lines.filter fun x => !(keyIn p lo hi x.1 && keyHome s x.1 != e.1) }) }
/-- XINV (R333): Release(dev, all), the drops at every slice, Acquire(dev, R) (DEDUCED, log 43). -/
def xinvEff (s : State) (f : FmtR) : State :=
  let p := partOf s s.core
  let (lo, hi) := xinvRange (ops s) f
  let wb := (rx (ops s) f.rs2.toNat).getLsbD 6
  if xinvWaits s p lo hi wb then waitAgain s (.xinv f) .full .defer
  else
    let s := dropTranslations (releaseAll s s.core) p lo hi
    let s := if wb then clearFrames (flushRange (dropReplicas s p lo hi) p lo hi) p lo hi else dropPermission s p lo hi
    acquireRange s s.core lo hi
def execXinv (f : FmtR) (s : State) : Host.Outcome State Fault Refusal :=
  issue s (.xinv f) fun s => xinvEff s f

end Sys2Proof.Machine
end

