-- ==== Sys2Proof/Machine/Copies.lean ====
section
/-! DEFINITION. Copies (spec/11 R220-R224; spec/10 R190-R194): the issue, with its queue place, registration and
power leave, the engine's reads and writes, completion, handler starts, and CPYQ. -/

namespace Sys2Proof.Machine

def copyBytes (c : Copy) : Nat := c.len * c.rows
/-- The virtual bytes a copy writes, from its lowest to the end of its highest; none for a local destination
(DEDUCED, log 33). -/
def copyHull (c : Copy) : Nat × Nat :=
  if c.sp != 0 then (0, 0)
  else
    let ds := (copyRowsOf c).map (·.1)
    ((leastOf ds).getD 0, ds.foldl max 0 + c.len)
/-- The homes that own a granule of the destination (R190). -/
def copyHomes (s : State) (c : Copy) : List Nat :=
  if c.sp != 0 then []
  else
    ((copyRowsOf c).map fun r => (List.range ((r.1 + c.len - 1) / 4096 - r.1 / 4096 + 1)).map fun i =>
      homeIn s c.part ((r.1 / 4096 + i) * 4096)).flatten.foldl (fun l h => if l.contains h then l else h :: l) []
/-- An XINV with WB of the partition waits over the range: a registration that meets it is held (R333). -/
def xinvHolds (s : State) (c : Copy) : Bool :=
  s.cores.any fun e => e.2.part == some c.part && e.2.ctxs.any fun x =>
    match x.2.wait with
    | some w => (match w.instr with
      | .xinv f =>
        let (lo, hi) := xinvRange w.ops f
        (rx w.ops f.rs2.toNat).getLsbD 6 && c.sp == 0 && decide ((copyHull c).1 < hi ∧ lo < (copyHull c).2)
      | _ => false)
    | none => false
/-- The governor of an engine's die, and a copy's request for leave (R399). -/
def copyDie (s : State) (c : Copy) : Nat := clusterFor s c.core / 16
def mine (c : Copy) (r : LeaveReq) : Bool := r.kind == 1 && r.core == c.core && r.ctx == c.ctx && r.copy == 0
def leaveHeld (s : State) (c : Copy) : Bool := (dieAt s (copyDie s c)).holders.any (mine c)
def askLeave (s : State) (c : Copy) : State :=
  modDie s (copyDie s c) fun d =>
    if d.leaveQ.any (mine c) then d
    else { d with leaveQ := d.leaveQ ++ [{ kind := 1, core := c.core, ctx := c.ctx, copy := 0, cycle := s.cycle }] }
/-- A line of a partition that the rows of a copy meet. -/
def rowsMeet (c : Copy) (rows : List Nat) (k : Nat) : Bool := rows.any fun a => keyIn c.part a (a + c.len) k

/-- The copy enters its engine (R190, R192, R222): the release over its source, the registration with its
recall, and the issuing context's note of it. -/
def startCopy (s : State) (i : Instr) (c : Copy) : State :=
  let rows := copyRowsOf c
  let s := cleanWhere s s.core fun k l => l.ct == ctRC && rowsMeet c (rows.map (·.2)) k
  let hull := copyHull c
  let s := (copyHomes s c).foldl (fun s h =>
    modSlice s h fun x => { x with ranges := x.ranges ++ [(c.id, c.part, hull.1, hull.2)] }) s
  let s := if c.sp != 0 then s else s.cores.foldl (fun s e =>
    dropWhere s e.1 fun k l => l.ct != ctRC && rowsMeet c (rows.map (·.1)) k) s
  let s := modDie s (copyDie s c) fun d =>
    { d with holders := d.holders.map fun r => if mine c r then { r with copy := c.id } else r }
  let s := modClu { s with copyId := c.id } (clusterFor s s.core) fun x => { x with copies := x.copies ++ [c] }
  let s := modCur s fun x => { x with copies := x.copies ++ [{ id := c.id, lo := hull.1, hi := hull.2 }] }
  if c.kind = 3 then waitRelease s i .copy .defer else s
/-- A copy at issue (R190, R220, R399): it waits for a queue place, for its registrations and for power leave. -/
def copyEff (s : State) (i : Instr) (f : FmtC) (kind : Nat) : State :=
  let c := copyOf s (ops s) f kind
  if decide (64 ≤ (cluAt s (clusterFor s s.core)).copies.length) ||
      (copyHomes s c).any (fun h => decide (64 ≤ (sliceAt s h).ranges.length)) || xinvHolds s c then
    waitAgain s i .copy .withdraw
  else if decide (2 ^ 20 < copyBytes c) && !leaveHeld s c then waitAgain (askLeave s c) i .copy .withdraw
  else startCopy s i c
def execCpy (f : FmtC) (s : State) := issue s (.cpy f) fun s => copyEff s (.cpy f) f 0
def execCpy2 (f : FmtC) (s : State) := issue s (.cpy2 f) fun s => copyEff s (.cpy2 f) f 1
def execCpym (f : FmtC) (s : State) := issue s (.cpym f) fun s => copyEff s (.cpym f) f 2
def execCpyw (f : FmtC) (s : State) := issue s (.cpyw f) fun s => copyEff s (.cpyw f) f 3

/-- CPYQs whose copies have all completed give their counts, and acquire the destinations (R224) (DEDUCED, log 33). -/
def settleCpyq (s : State) (n k : Nat) : State :=
  let done := (ctxAt s n k).cpyq.filter fun w => w.notes.all (·.done)
  let s := modCtx s n k fun c => { c with cpyq := c.cpyq.filter fun w => !w.notes.all (·.done) }
  done.foldl (fun s w =>
    let s := w.notes.foldl (fun s x => if x.lo < x.hi then acquireRange s n x.lo x.hi else s) s
    sendX s n k w.rd (dn w.notes.length)) s
/-- CPYQ (R224). -/
def execCpyq (f : FmtC) (s : State) : Host.Outcome State Fault Refusal :=
  issue s (.cpyq f) fun s =>
    let s := modCur s fun c =>
      { emptyX c f.rdst.toNat with cpyq := c.cpyq ++ [{ rd := f.rdst.toNat, notes := c.copies }], copies := [] }
    settleCpyq s s.core s.ctx

/-- The access that stands for an engine's read or write. -/
def copyAccess (c : Copy) : Access :=
  { kind := .copy c.id, core := c.core, ctx := c.ctx, part := c.part, pc := c.pc, word := 0, pieces := [] }
/-- The engine's write of n bytes of one line that it has claimed (R190) (DEDUCED, log 37). -/
def copyWrite (s : State) (c : Copy) (va n v : Nat) : PRes :=
  let a := copyAccess c
  let k := lineKey c.part va
  let off := va % 64
  match locate s {} a va true with
  | .no r => r
  | .ok s slice t =>
    let need := dwordMask off n
    let full (s : State) : Bool := wsFull s slice k t va &&& need != 0
    let set (s : State) : State := wakeWord (setWsFull s slice k t va (wsFull s slice k t va ||| need)) k
    if t.ct == ctWS && (n % 8 != 0 || off % 8 != 0) then .refuse s 7 0
    else if t.hw then
      if t.ct == ctWS then
        (if hwAreaFull s slice k then .refuse s 7 0
         else if full s then .refuse s 0x0A 0
         else .done (set (hostStore s slice c.part (leafPa t 0 va) n v)) 0 t.ct)
      else .done (hostStore s slice c.part (leafPa t 0 va) n v) 0 t.ct
    else
      match t.ct.toNat with
      | 0 => .done (fireMonitor (putHome s k off n v) c.part (va / 64)) 0 t.ct
      | 1 => .done (putHome s k off n v) 0 t.ct
      | 2 => if full s then .refuse s 0x0A 0 else .done (set (putHome s k off n v)) 0 t.ct
      | _ => .done (putHome s k off n v) 0 t.ct

/-- The cores whose TCM, or clusters whose scratchpad, a copy writes (R194, R220) (DEDUCED, log 37). -/
def copyUnits (s : State) (c : Copy) : List Nat :=
  if c.kind = 2 then maskUnits s c.core c.sp c.mask
  else if c.sp = 1 then [c.core] else [clusterFor s c.core]
/-- The writes that a piece still makes to local destinations: to each core's TCM whole, to each scratchpad by its
8-byte words (R151, R194). -/
def cutWords (u : Nat) : Nat → Nat → Nat → Nat → List (Nat × Nat × Nat × Nat)
  | 0, _, _, _ => []
  | fuel + 1, off, n, v =>
    if n = 0 then []
    else
      let k := min n (8 - off % 8)
      (u, off, k, v % 2 ^ (8 * k)) :: cutWords u fuel (off + k) (n - k) (v / 2 ^ (8 * k))
def localWords (s : State) (c : Copy) (dst n v : Nat) : List (Nat × Nat × Nat × Nat) :=
  if c.sp = 1 then (copyUnits s c).map fun u => (u, dst, n, v)
  else ((copyUnits s c).map fun u => cutWords u 10 dst n v).flatten
/-- One of them. -/
def putWord (s : State) (c : Copy) (x : Nat × Nat × Nat × Nat) : State :=
  if c.sp = 1 then tcmWrite s x.1 x.2.1 x.2.2.1 x.2.2.2 else spmWrite s x.1 x.2.1 x.2.2.1 x.2.2.2
/-- The engine's claim of a piece's line (R190). -/
def copyClaim (s : State) (c : Copy) (dst : Nat) : PRes :=
  if c.sp = 0 then claimLine s {} (copyAccess c) c.id dst else .done s 0 ctRC
/-- The value of a piece, read line by line (R192), or the part that stopped it. -/
def copyValue (s : State) (c : Copy) (x : Nat × Nat × Nat) : PRes × Piece :=
  let (_, src, n) := x
  let n1 := min n (64 - src % 64)
  let p1 : Piece := { va := src, size := n1, pos := 0, write := false }
  match copyRead s {} (copyAccess c) c src n1 with
  | .done s v ct =>
    let p2 : Piece := { va := src + n1, size := n - n1, pos := 0, write := false }
    let r2 := if n1 = n then PRes.done s 0 ctRC else copyRead s {} (copyAccess c) c (src + n1) (n - n1)
    (match r2 with
    | .done s w _ => (.done s (v % 2 ^ (8 * n1) + w * 2 ^ (8 * n1)) ct, p1)
    | r => (r, p2))
  | r => (r, p1)
/-- The claim on a line ends once the engine has written it, and its tokens return to the home (R190). -/
def freeLine (id : Nat) (h : HomeLine) : HomeLine := if h.claim == some id then settleTokens { h with claim := none } else h
def unclaimLine (s : State) (c : Copy) (va : Nat) : State := modHome s (lineKey c.part va) (freeLine c.id)
/-- What one piece of a copy ends in, with the part that stopped it: its claim, its read and its write. -/
def copyPiece (s : State) (c : Copy) (x : Nat × Nat × Nat) (rest : List (Nat × Nat × Nat)) : PRes × Piece :=
  let w : Piece := { va := x.1, size := x.2.2, pos := 0, write := true }
  match copyClaim s c x.1 with
  | .done s _ _ =>
    (match copyValue s c x with
    | (.done s v ct, _) =>
      if c.sp != 0 then (.done ((localWords s c x.1 x.2.2 v).foldl (fun s y => putWord s c y) s) 0 ct, w)
      else match copyWrite s c x.1 x.2.2 v with
        | .done s _ ct =>
          let more := match rest with | y :: _ => y.1 / 64 == x.1 / 64 | [] => false
          (.done (if more then s else unclaimLine s c x.1) 0 ct, w)
        | r => (r, w)
    | r => r)
  | r => (r, w)
/-- The state after the pieces that can be copied now, how many they were, and what stopped the next. -/
def runCopy (c : Copy) : List (Nat × Nat × Nat) → State → Nat → State × Nat × Option (PRes × Piece)
  | [], s, n => (s, n, none)
  | x :: l, s, n =>
    match copyPiece s c x l with
    | (.done s _ _, _) => runCopy c l s (n + 1)
    | (r, p) => (s, n, some (r, p))

def setCopy (s : State) (clu : Nat) (c : Copy) : State :=
  modClu s clu fun x => { x with copies := x.copies.map fun y => if y.id == c.id then c else y }
/-- A registration is released whole, and the accesses it held go on (R190). -/
def releaseRange (s : State) (id : Nat) : State :=
  { s with
    slices := s.slices.map fun (e : Nat × Slice) =>
      (e.1, { e.2 with
        ranges := e.2.ranges.filter fun (r : Nat × Nat × Nat × Nat) => !(r.1 == id)
        lines := e.2.lines.map fun (x : Nat × HomeLine) => (x.1, freeLine id x.2) })
    accesses := s.accesses.map fun a => match a.stage with | .claimed _ => { a with stage := .ready } | _ => a }
/-- Bytes a copy has written. -/
def copyWritten (c : Copy) : Nat := ((copyPieces c).take c.done).foldl (fun n x => n + x.2.2) 0
/-- The cores that receive a handler start (R223). -/
def copyReceivers (s : State) (c : Copy) : List Nat :=
  if c.h = 0 then [] else if c.kind = 2 && c.sp = 1 then copyUnits s c else [c.core]
def copyStart (c : Copy) : InBody :=
  .handler c.h (dn c.dst) (dn (copyWritten c)) (match c.fault with | some f => dn f.cause | none => 0)
    (match c.fault with | some f => dn f.va | none => 0) (dn (copyBytes c))
def copyStarted (s : State) (clu : Nat) (c : Copy) (n : Nat) : Bool := (cluAt s clu).starts.contains (c.id, n)
/-- A core's handler start is enqueued, once; one that finds the core's queue full waits (R27, R223). -/
def sendStart (clu : Nat) (c : Copy) (s : State) (n : Nat) : State :=
  if copyStarted s clu c n || decide (4096 ≤ inboundUsed (coreAt s n)) then s
  else
    receive (modClu s clu fun x => { x with starts := (c.id, n) :: x.starts })
      { src := unitEngine clu, body := .inbound n c.part (copyStart c) }
/-- Completion, faulted or whole (R222-R224): handler starts, the issuing context's notes, CPYW's wait, the
fault's report. A full inbound queue holds its core's start back, and with it the completion (R27). -/
def endCopy (s : State) (clu : Nat) (c : Copy) : State :=
  let s := (copyReceivers s c).foldl (sendStart clu c) (releaseRange s c.id)
  if (copyReceivers s c).any fun n => !copyStarted s clu c n then s
  else
    let s := modClu s clu fun x =>
      { x with copies := x.copies.filter fun y => !(y.id == c.id), starts := x.starts.filter fun y => !(y.1 == c.id) }
    let s := modDie s (copyDie s c) fun d => { d with holders := d.holders.filter fun r => !(r.kind == 1 && r.copy == c.id) }
    let mark (l : List CopyNote) : List CopyNote := l.map fun x => if x.id == c.id then { x with done := true } else x
    let s := modCtx s c.core c.ctx fun x =>
      { x with copies := mark x.copies, cpyq := x.cpyq.map fun w => { w with notes := mark w.notes } }
    let s := settleCpyq s c.core c.ctx
    let s := match c.fault with
      | some f =>
        if c.h = 0 || c.kind = 3 then
          sendRefusal s c.core c.ctx { cause := f.cause, sub := f.sub, tval := dn f.va, rpc := c.pc, defers := c.kind == 3 }
        else s
      | none => s
    if c.kind = 3 then
      let hull := copyHull c
      let s := if hull.1 < hull.2 then acquireRange s c.core hull.1 hull.2 else s
      modCtx s c.core c.ctx fun x => { x with wait := none }
    else s
/-- The accesses that a registration held try again (R190). -/
def unclaim (s : State) : State :=
  { s with accesses := s.accesses.map fun a => match a.stage with | .claimed _ => { a with stage := .ready } | _ => a }
/-- What the engine does after a step that ended in a stall, a park or a refusal at a part: the access that waits for
it, or the copy's end with its fault (R223). -/
def copyStopped (s : State) (clu : Nat) (c : Copy) (r : PRes) (p : Piece) : State :=
  let stop (s : State) : State := { unclaim (setCopy s clu c) with accessId := s.accessId + 1 }
  let a : Access := { copyAccess c with id := s.accessId, cycle := s.cycle, pieces := [p] }
  match r with
  | .stall s st => keepAccess (stop s) (stalled s a st)
  | .park s l cause lv w =>
    let (s, x) := parkAccess (stop s) a l cause lv w p
    keepAccess s x
  | .refuse s cause sub | .refuseVal s cause sub _ =>
    let c := { c with fault := some { cause := cause, sub := sub, va := p.va } }
    endCopy (unclaim (setCopy s clu c)) clu c
  | .done s _ _ => unclaim (setCopy s clu c)
/-- The engine has read a piece for local destinations. -/
def readPiece (s : State) (clu : Nat) (c : Copy) (ws : List (Nat × Nat × Nat × Nat)) : State :=
  setCopy s clu { c with words := ws, readAt := s.cycle, got := [] }
def writesLeft (c : Copy) : Bool := !c.words.isEmpty || !c.waits.isEmpty
/-- The engine goes on with a copy (R222): with as many of its pieces as it can, then its completion or its stall. A
scratchpad's words wait for grants of its banks (R152): the engine reads the next piece once they are written. -/
def copyGo (s : State) (clu : Nat) (c : Copy) : State :=
  if c.fault.isSome then endCopy s clu c
  else match copyLeft c with
    | [] => endCopy s clu c
    | x :: _ =>
      if c.sp = 2 then
        (if writesLeft c then s
        else match copyValue s c x with
          | (.done s v _, _) => readPiece s clu c (localWords s c x.1 x.2.2 v)
          | (r, p) => copyStopped s clu c r p)
      else
        let s := c.words.foldl (fun s y => putWord s c y) s
        let c := if c.words.isEmpty then c else { c with words := [], done := c.done + 1 }
        let (s, n, r) := runCopy c (copyLeft c) s 0
        let c := { c with done := c.done + n, got := if n = 0 then c.got else [] }
        match r with
        | none => endCopy (unclaim (setCopy s clu c)) clu c
        | some (r, p) => copyStopped s clu c r p
/-- An access of the copy waits, or a cut has recorded its engine. -/
def copyHeld (s : State) (clu : Nat) (c : Copy) : Bool :=
  (s.accesses.any fun a => a.kind == .copy c.id) || cutDone s c.part (unitEngine clu)
/-- A line that the copy has claimed at its home. -/
def claimed (s : State) (c : Copy) (va : Nat) : Bool :=
  match homeLine s (lineKey c.part va) with
  | some h => h.claim == some c.id
  | none => false
/-- The engine takes one step of the copy at place n (R190, R194, R222): it claims the line of its next piece, or
reads and writes that piece; the writes of a local destination follow one by one. -/
def copyNext (s : State) (clu n : Nat) : State :=
  match (cluAt s clu).copies[n]? with
  | none => s
  | some c =>
    if c.fault.isSome || copyHeld s clu c || writesLeft c then s
    else match copyLeft c with
      | [] => s
      | x :: l =>
        if c.sp != 0 then
          (match copyValue s c x with
          | (.done s v _, _) => readPiece s clu c (localWords s c x.1 x.2.2 v)
          | (r, p) => copyStopped s clu c r p)
        else if !claimed s c x.1 then
          (match copyClaim s c x.1 with
          | .done t _ _ =>
            if claimed t c x.1 then t
            else (match copyPiece s c x l with
              | (.done s _ _, _) => unclaim (setCopy s clu { c with done := c.done + 1, got := [] })
              | (r, p) => copyStopped s clu c r p)
          | r => copyStopped s clu c r { va := x.1, size := x.2.2, pos := 0, write := true })
        else match copyPiece s c x l with
          | (.done s _ _, _) => unclaim (setCopy s clu { c with done := c.done + 1, got := [] })
          | (r, p) => copyStopped s clu c r p
/-- Its last write of a piece makes the piece whole. -/
def wholePiece (c : Copy) : Copy := if writesLeft c then c else { c with done := c.done + 1 }
/-- A core whose own destination is written whole, while others' are not, has its handler start enqueued (R223). -/
def ownWhole (s : State) (clu : Nat) (c : Copy) (n : Nat) : State :=
  if (copyReceivers s c).contains n && (copyLeft c).length == 1 && !(c.words.any fun x => x.1 == n) then
    sendStart clu { c with done := c.done + 1 } s n
  else s
/-- The write at place j of those that a copy has still to make to its local destinations (R194: in no fixed order): to
a TCM, or, on its way to a scratchpad, it reaches its bank (R152). -/
def copyWord (s : State) (clu n j : Nat) : State :=
  match (cluAt s clu).copies[n]? with
  | none => s
  | some c => match c.words[j]? with
    | none => s
    | some x =>
      let c' := { c with words := c.words.eraseIdx j }
      if c.sp = 2 then setCopy s clu { c' with waits := c.waits ++ [(x, s.cycle)] }
      else
        let s := setCopy (putWord s c x) clu (wholePiece c')
        if c'.words.isEmpty then s else ownWhole s clu c' x.1
/-- A bank writes the word at place j of those that wait there (R152). -/
def bankWord (s : State) (clu n j : Nat) : State :=
  match (cluAt s clu).copies[n]? with
  | none => s
  | some c => match c.waits[j]? with
    | none => s
    | some x => setCopy (putWord s c x.1) clu (wholePiece { c with waits := c.waits.eraseIdx j })
/-- COPY_COMPLETE: the copy at place n of a cluster's engine goes on; one that waits for an access does
nothing. -/
def execCopyComplete (cluster n : Nat) (s : State) : Host.Outcome State Fault Refusal :=
  if 64 ≤ cluster then .fault .noSuchUnit
  else
    match (cluAt s cluster).copies[n]? with
    | none => .next s
    | some c =>
      .next (if copyHeld s cluster c then s else copyGo s cluster c)

end Sys2Proof.Machine
end

