-- ==== Sys2Proof/Machine/Tasks.lean ====
section
/-! DEFINITION. Tasks, messages, groups, launch trees, semaphores, class and ropes (spec/07 R128-R143; spec/02
R25-R43; spec/03 R46-R63). -/

namespace Sys2Proof.Machine

/-- The record of R131, from its sources and the body's entry. -/
def makeRecord (r : Regs) (q : Record) (e : Nat) : TaskRecord :=
  { body := BitVec.ofNat 10 q.body, cls := BitVec.ofNat 2 (bits e 44 2), near := bodyNear e, far := bodyFar e,
    alenm1 := BitVec.ofNat 21 (q.len.toNat - 1), thresh := BitVec.ofNat 10 (bits e 34 10),
    abase := BitVec.ofNat 57 q.base.toNat, arg0 := rx r 7, arg1 := rx r 8, arg2 := rx r 9, arg3 := rx r 10 }
/-- The access that reads a body's entry (R24). -/
def entryAccess (s : State) (b : Nat) : Access :=
  let va := bodyVa (coreAt s s.core).bodytab b
  accessOf s (.body va) 0 (pieces va 8 false 0 1) 0 true
/-- The read of a body entry that the context's body cache misses (R24): the next bundle waits for it
(DEDUCED, log 115). -/
def fetchBody (s : State) (b : Nat) : State :=
  if (accessesOf s s.core s.ctx).any fun a => a.kind == (entryAccess s b).kind then s else submit s (entryAccess s b)
/-- The body of a spawning instruction (R130). -/
def spawnBody (s : State) : Instr → Option Nat
  | .spawn f => some (spawnReq s (ops s) f).body
  | .spawnh f => some (spawnhReq s (ops s) f).body
  | .send f => some (sendReq s (ops s) f).body
  | .sendg f => some (sendgReq s (ops s) f).body
  | _ => none
/-- The body whose entry the C-class half of a bundle misses, when its checks have passed as far as the entry (R131). -/
def missed (s : State) (is : List (Instr × Nat)) : Option Nat :=
  match is with
  | (i, w) :: _ =>
    match spawnBody s i with
    | some b =>
      if (bodyAt (coreAt s s.core) b).isNone && s.latch.isNone && (emptyTrap s (cur s).pc is).isNone && check s is != .wait &&
        check s [(i, w)] == .go then some b
      else none
    | none => none
  | [] => none
/-- A spawn reads its body's entry when it issues (R23): a read that nothing holds, parks or refuses is performed before
the entry's checks, which then leave the bundle with no effect (R90) (DEDUCED, log 115). -/
def readEntry (s : State) (is : List (Instr × Nat)) : State :=
  match missed s is with
  | some b =>
    let a := entryAccess s b
    let go : Go := { walk := walkerFree s a.part (headVa a), grant := true }
    (match runAll { s with accessId := s.accessId + 1 } go { a with id := s.accessId, cycle := s.cycle } with
    | .fin t a => finishAccess t a
    | _ => s)
  | none => s
/-- MakeRecord (R131) past the checks made at issue; on a miss it waits for the entry, with SENDG's member set fixed,
and a check that fails on an entry read after the bundle has performed is a refusal (R90) (DEDUCED, log 115). -/
def recordEff (s : State) (i : Instr) (q : Record) : State :=
  match bodyAt (coreAt s s.core) q.body with
  | none => fetchBody (modCur (waitAgain s i .barrier .defer) fun c =>
      { c with wait := c.wait.map fun w => { w with mem := destCores q.dest } }) q.body
  | some e =>
    match entryTraps s (cur s).pc q e with
    | some t =>
      sendRefusal s s.core s.ctx { cause := t.cause, sub := t.sub, tval := t.val, rpc := (cur s).pc, defers := true }
    | none =>
      let x : SendEntry := { record := makeRecord (ops s) q e.toNat, dest := q.dest }
      modCur s fun c => { c with sends := c.sends ++ [x] }
def execSpawn (f : FmtT) (s : State) :=
  issue (readEntry s [(.spawn f, 0)]) (.spawn f) fun s => recordEff s (.spawn f) (spawnReq s (ops s) f)
def execSpawnh (f : FmtH) (s : State) :=
  issue (readEntry s [(.spawnh f, 0)]) (.spawnh f) fun s => recordEff s (.spawnh f) (spawnhReq s (ops s) f)
def execSend (f : FmtR) (s : State) :=
  issue (readEntry s [(.send f, 0)]) (.send f) fun s => recordEff s (.send f) (sendReq s (ops s) f)
def execSendg (f : FmtR) (s : State) :=
  issue (readEntry s [(.sendg f, 0)]) (.sendg f) fun s => recordEff s (.sendg f) (sendgReq s (ops s) f)

/-- Sends a request that rd waits for (R132, R133). -/
def ask (s : State) (rd : Nat) (res : Option Nat) (a : Ask) : State :=
  { s with reqs := s.reqs ++ [{ core := s.core, ctx := s.ctx, rd := rd, res := res, ask := a }] }
/-- TakeSteal (R46, R132): a context is reserved before the request leaves the core. -/
def takeSteal (s : State) (i : Instr) (rd : Nat) (a : Ask) : State :=
  let s := modCur s fun c => emptyX c rd
  match reservable s s.core with
  | none => waitAgain s i .barrier .withdraw
  | some k => ask (modCtx s s.core k fun c => { c with reserved := true }) rd (some k) a
/-- Queues delegated to a home core, in order from its pointer (R28); the order is fixed when the TAKE issues
(DESIGN CHOICE, log 119). -/
def delegated (s : State) (core : Nat) : List Nat :=
  let p := partOf s core
  ((List.range 256).map fun i => ((coreAt s core).takePtr + i) % 256).filter fun q =>
    q != core - 512 && delegate s p q == core
/-- TAKE (R132); which queues it consults, and from where, is fixed when it issues (DESIGN CHOICE, log 119). -/
def execTake (f : FmtR) (s : State) : Host.Outcome State Fault Refusal :=
  issue s (.take f) fun s =>
    takeSteal s (.take f) f.rd.toNat (.take none ((s.core - 512) :: delegated s s.core))
def execSteal (f : FmtR) (s : State) : Host.Outcome State Fault Refusal :=
  issue s (.steal f) fun s =>
    takeSteal s (.steal f) f.rd.toNat (.steal (homeIn s (partOf s s.core) (rx (ops s) f.rs1.toNat).toNat))
def execStealAny (f : FmtR) (s : State) : Host.Outcome State Fault Refusal :=
  issue s (.stealAny f) fun s =>
    let d := Config.dieOf s.core
    takeSteal s (.stealAny f) f.rd.toNat (.stealAny none [d, d ^^^ 1, d ^^^ 2, d ^^^ 3] 1)

/-- The answer of a request: the reservation ends, and rd receives the value (R14, R132) (DEDUCED, log 25). -/
def answerReq (s : State) (q : QReq) (v : Dword) : State :=
  let s := match q.res with
    | some k => modCtx s q.core k fun c => { c with reserved := false }
    | none => s
  sendX s q.core q.ctx q.rd v
/-- QDEPTH (R133). -/
def execQdepth (f : FmtR) (s : State) : Host.Outcome State Fault Refusal :=
  issue s (.qdepth f) fun s =>
    let slice := homeIn s (partOf s s.core) (rx (ops s) f.rs1.toNat).toNat
    ask (modCur s fun c => emptyX c f.rd.toNat) f.rd.toNat none (.depth slice)
def execQdepthIn (f : FmtR) (s : State) : Host.Outcome State Fault Refusal :=
  issue s (.qdepthIn f) fun s =>
    sendX (modCur s fun c => emptyX c f.rd.toNat) s.core s.ctx f.rd.toNat (dn (coreAt s s.core).inbound.length)

/-- The end of a unit of work (R39, R43, R134, R357): a rope ends, the release, the sends, and the retirement,
which an aborted task's handler does not send. -/
def endUnit (s : State) (i : Instr) (abort : Bool) : State :=
  let n := s.core
  let k := s.ctx
  let c := ctxAt s n k
  let s := trace s n k 2 c.pc c.msgid
  let s := releaseAll (endRope s n k) n
  let s := if abort then modCtx s n k fun c => { c with sends := [] } else flushSends s n k
  let s := if tsActive c.tstat && tsAbt c.tstat then s else retirement s n k
  endOrWait s n k i
/-- TEND and TABORT, which look again for accesses that their bundle's other half has issued. -/
def tendEff (s : State) (i : Instr) (abort : Bool) : State :=
  if endHolds s i then waitAgain s i .full .withdraw else endUnit s i abort
def execTend (f : FmtR) (s : State) := issue s (.tend f) fun s => tendEff s (.tend f) false
def execTabort (f : FmtR) (s : State) := issue s (.tabort f) fun s => tendEff s (.tabort f) true

/-- Group state of a partition (R52, R135). -/
def members (s : State) (p g : Nat) : List Nat := fget [] (partAt s p).groups g
def barrierOf (s : State) (p g : Nat) : Barrier := fget {} (spAt s g p).barriers g
def setBarrier (s : State) (p g : Nat) (b : Barrier) : State :=
  modSP s g p fun q => { q with barriers := fset q.barriers g b }
def setMembers (s : State) (p g : Nat) (l : List Nat) : State :=
  modPart s p fun x => { x with groups := fset x.groups g l }
/-- Adds a core to an ascending list. -/
def insertCore (n : Nat) : List Nat → List Nat
  | [] => [n]
  | m :: l => if n < m then n :: m :: l else if n = m then m :: l else m :: insertCore n l
/-- The first slot that is not valid takes a group (R53). -/
def fillSlot (g : Nat) : List (Option Nat) → List (Option Nat)
  | [] => []
  | none :: l => some g :: l
  | x :: l => x :: fillSlot g l
/-- A phase completes when every member has arrived (R54). -/
def settlePhase (s : State) (p g : Nat) : State :=
  let b := barrierOf s p g
  let m := members s p g
  if !b.arrived.isEmpty && m.all b.arrived.contains then setBarrier s p g { phase := b.phase + 1, arrived := [] } else s

/-- An arrival of the core at a group is on its way, and one of a context. -/
def arriving (s : State) (core g : Nat) (ctx : Option Nat) : Bool :=
  s.reqs.any fun q => q.core == core && match q.ask with
    | .arrive x _ note => x == g && (match ctx with | some k => q.ctx == k && note | none => true)
    | _ => false
/-- The core has an arrival outstanding: a second in one phase is held until the phase completes (R54). -/
def heldBack (s : State) (g : Nat) : Bool :=
  (barrierOf s (partOf s s.core) g).arrived.contains s.core || arriving s s.core g none
/-- GJOIN (R53). -/
def execGjoin (f : FmtG) (s : State) : Host.Outcome State Fault Refusal :=
  issue s (.gjoin f) fun s =>
    let g := f.group.toNat
    let p := partOf s s.core
    if inSlots s g then s
    else
      let s := modCore s s.core fun c => { c with gslots := fillSlot g c.gslots }
      refreshInh (setMembers s p g (insertCore s.core (members s p g))) p
/-- GLEAVE (R53, R54): it waits while the core has an arrival outstanding. -/
def execGleave (f : FmtG) (s : State) : Host.Outcome State Fault Refusal :=
  issue s (.gleave f) fun s =>
    let g := f.group.toNat
    let p := partOf s s.core
    if heldBack s g then waitAgain s (.gleave f) .barrier .withdraw
    else
      let s := modCore s s.core fun c => { c with gslots := c.gslots.map fun x => if x == some g then none else x }
      let s := setMembers s p g ((members s p g).filter fun n => n != s.core)
      refreshInh (settlePhase s p g) p
/-- GTAG (R56). -/
def execGtag (f : FmtG) (s : State) : Host.Outcome State Fault Refusal :=
  issue s (.gtag f) fun s => refreshInh (modCur s fun c => { c with tag := some f.group.toNat }) (partOf s s.core)
/-- A GBAR that waits has its arrival recorded: from here on BUDGET withdraws it (R405). -/
def recorded (g : Nat) (w : Wait) : Wait :=
  match w.instr with
  | .gbar f => if f.group.toNat == g then { w with fate := .withdrawAfter } else w
  | _ => w
/-- A core's arrival is recorded at the group's slice in the current phase (R54): its context keeps it as outstanding.
-/
def arriveAt (s : State) (core ctx g : Nat) (bar note : Bool) : State :=
  let p := partOf s core
  let b := barrierOf s p g
  let s := if note then modCtx s core ctx fun c =>
      { c with arrivals := fset c.arrivals g (b.phase, bar), wait := if bar then c.wait.map (recorded g) else c.wait }
    else s
  settlePhase (setBarrier s p g { b with arrived := insertCore core b.arrived }) p g
/-- The release before an arrival, then the arrival's message, or the wait for the phase that holds it back (R55). -/
def sendArrival (s : State) (i : Instr) (g : Nat) (bar : Bool) : State :=
  let s := releaseAll s s.core
  if heldBack s g then waitAgain s i .barrier .defer
  else { s with reqs := s.reqs ++ [{ core := s.core, ctx := s.ctx, rd := 0, ask := .arrive g bar true }] }
/-- GARRIVE (R55, R135) (DEDUCED, log 34). -/
def execGarrive (f : FmtG) (s : State) : Host.Outcome State Fault Refusal :=
  issue s (.garrive f) fun s => sendArrival s (.garrive f) f.group.toNat false
/-- The wait for the phase of the context's outstanding arrival, one on its way before an older one, and its acquire
(R54, R55). -/
def waitPhase (s : State) (i : Instr) (g : Nat) (fate : BudgetFate) : State :=
  let p := partOf s s.core
  if arriving s s.core g (some s.ctx) then refreshInh (waitAgain s i .barrier fate) p
  else match ffind (cur s).arrivals g with
  | none => acquireAll s s.core
  | some (ph, _) =>
    if ph < (barrierOf s p g).phase then
      refreshInh (acquireAll (modCur s fun c => { c with arrivals := fdel c.arrivals g }) s.core) p
    else refreshInh (waitAgain s i .barrier fate) p
/-- GWAIT (R135). -/
def execGwait (f : FmtG) (s : State) : Host.Outcome State Fault Refusal :=
  issue s (.gwait f) fun s => waitPhase s (.gwait f) f.group.toNat .withdraw
/-- GBAR (R135): GARRIVE, then GWAIT. It lends its class from the wait for its arrival on (R56) (DEDUCED, log 34). -/
def execGbar (f : FmtG) (s : State) : Host.Outcome State Fault Refusal :=
  issue s (.gbar f) fun s =>
    let g := f.group.toNat
    let arrived := match ffind (cur s).arrivals g with | some (_, b) => b | none => false
    if arrived then waitPhase s (.gbar f) g .withdrawAfter
    else
      let s := if arriving s s.core g (some s.ctx) then s else sendArrival s (.gbar f) g true
      refreshInh (waitAgain s (.gbar f) .barrier .defer) (partOf s s.core)

/-- TREEL (R60, R136). -/
def execTreel (f : FmtTL) (s : State) : Host.Outcome State Fault Refusal :=
  issue s (.treel f) fun s =>
    let n := s.core
    let p := partOf s n
    let m := members s p f.group.toNat
    let s := releaseAll s n
    let dst := treeChildren n m n ++ (if m.contains n then [n] else [])
    let ms := launchMsgs n p (8 * bits f.lit.toNat 0 16) (rx (ops s) f.rap.toNat) (cur s).base (n, s.ctx) n m dst
    modCur { s with msgs := s.msgs ++ ms } fun c => { c with treel := c.treel + m.length }
/-- WFA (R137) (DEDUCED, log 77). -/
def execWfa (f : FmtR) (s : State) : Host.Outcome State Fault Refusal :=
  issue s (.wfa f) fun s =>
    let s := modCur s fun c => emptyX c f.rd.toNat
    if (cur s).treel = 0 then
      let v := (cur s).wfa
      sendX (modCur s fun c => { c with wfa := 0 }) s.core s.ctx f.rd.toNat (dn v)
    else waitAgain s (.wfa f) .barrier .withdraw

/-- SEMP (R138, R139) (DEDUCED, log 23). -/
def execSemp (f : FmtQ) (s : State) : Host.Outcome State Fault Refusal :=
  issue s (.semp f) fun s => ask (waitRelease s (.semp f) .barrier .withdraw) 0 none (.semp f.sem.toNat)
/-- SEMV (R138): its release, then the request that its context waits for (DEDUCED, log 23). -/
def execSemv (f : FmtQ) (s : State) : Host.Outcome State Fault Refusal :=
  issue s (.semv f) fun s =>
    ask (waitRelease (releaseAll s s.core) (.semv f) .barrier .defer) 0 none (.semv f.sem.toNat)
/-- SEMTRY (R138). -/
def execSemtry (f : FmtQ) (s : State) : Host.Outcome State Fault Refusal :=
  issue s (.semtry f) fun s => ask (modCur s fun c => emptyX c f.rd.toNat) f.rd.toNat none (.semtry f.sem.toNat)

/-- PRIO (R51, R140). -/
def execPrio (f : FmtU) (s : State) : Host.Outcome State Fault Refusal :=
  issue s (.prio f) fun s =>
    refreshInh (modCur s fun c => { c with base := BitVec.ofNat 2 f.imm.toNat }) (partOf s s.core)

/-- The cores a mask names as seconds with their hops (R61). -/
def ropeCores (lead mask : Nat) : List (Nat × Nat) :=
  let l := ((List.range 7).map fun i => (lead % 8 + 1 + i) % 8).filter fun b => bitAt mask b
  (l.zipIdx).map fun e => (lead / 8 * 8 + e.1, e.2 + 1)
/-- Starts a second (R61): x3 receives the lead's x3. -/
def startSecond (s : State) (n k hop : Nat) (x3 : Dword) : State :=
  let me := cur s
  let s := beginCtx s n k me.pc me.base
  let s := modCtx s n k fun c => { writeX c 3 x3 with rope := .second s.core s.ctx }
  modCur s fun c => { c with rope := match c.rope with
    | .lead l => .lead (l ++ [(n, k, hop)])
    | _ => .lead [(n, k, hop)] }
/-- The seconds the lead already has. -/
def seconds (c : Ctx) : List (Nat × Nat × Nat) := match c.rope with | .lead l => l | _ => []
/-- Starts a second on every core given that has a dormant context; the cores that it could not yet start. -/
def startSeconds : List (Nat × Nat) → State → Dword → State × List Nat
  | [], s, _ => (s, [])
  | (n, hop) :: l, s, x3 =>
    match freeCtx s n with
    | none => let r := startSeconds l s x3; (r.1, n :: r.2)
    | some k => startSeconds l (startSecond s n k hop x3) x3
/-- ROPE's effect, with the cores on which it has started a second already: it waits until it has started one on each
(R61, R141). -/
def ropeEff (s : State) (f : FmtU) (started : List Nat) : State :=
  let want := ropeCores s.core f.imm.toNat
  let (s, left) := startSeconds (want.filter fun e => !started.contains e.1) s (rx (ops s) 3)
  if left.isEmpty then s
  else modCur (waitAgain s (.rope f) .barrier .withdraw) fun c =>
    { c with wait := c.wait.map fun w => { w with mem := (want.map (·.1)).filter fun n => !left.contains n } }
def execRope (f : FmtU) (s : State) : Host.Outcome State Fault Refusal := issue s (.rope f) fun s => ropeEff s f []
/-- UNROPE (R63, R142): its completion is Acquire(dev, all). -/
def execUnrope (f : FmtR) (s : State) : Host.Outcome State Fault Refusal :=
  issue s (.unrope f) fun s => acquireAll (endRope s s.core s.ctx) s.core
/-- ROPECK (R143) past its check. -/
def execRopeck (f : FmtU) (s : State) : Host.Outcome State Fault Refusal := issue s (.ropeck f) fun s => s

end Sys2Proof.Machine
end

