-- ==== Sys2Proof/Machine/Controllers.lean ====
section
/-! DEFINITION. The controllers of the home queues and the semaphores, cycle by cycle (spec/02 R28, R34-R37; spec/07
R138, R139): what waits at each, which operation it serves, and what a request and its answer do. -/

namespace Sys2Proof.Machine

def reasonWord (r : Nat) : Dword := dn (2 ^ 63 + r)
/-- A selection at a queue for a request (R34, R35): the task that it removes starts in the reserved context, or the
reason. -/
def selectAt (s : State) (q : QReq) (take : Bool) (slice : Nat) : State × Option Nat :=
  let p := partOf s q.core
  match select (spAt s slice p) take with
  | .reason r => (s, some r)
  | .task t =>
    let s := modSP s slice p fun x => removeTask x t
    let k := q.res.getD 0
    let s := deliver s q.core k t.record
    (answerReq s q (ctxAt s q.core k).msgid, none)
/-- The pointer over requesting cores moves past the core served (R34). -/
def pointPast (s : State) (q : QReq) (slice : Nat) : State :=
  modSP s slice (partOf s q.core) fun x => { x with stealPtr := q.core + 1 }

/-- A semaphore of a cluster. -/
def semAt (s : State) (clu k : Nat) : Sem := fget {} (cluAt s clu).sems k
def setSemAt (s : State) (clu k : Nat) (x : Sem) : State := modClu s clu fun c => { c with sems := fset c.sems k x }
/-- A context's wait at a semaphore ends. -/
def unwait (s : State) (n k : Nat) : State := modCtx s n k fun c => { c with wait := none }
/-- A SEMP is served (R138): it takes a count that nobody waits for, its completion an acquire, or joins those that
wait. -/
def serveP (s : State) (clu k n c : Nat) : State :=
  let x := semAt s clu k
  if x.count != 0 && x.queue.isEmpty then unwait (acquireAll (setSemAt s clu k { x with count := x.count - 1 }) n) n c
  else setSemAt s clu k { x with queue := x.queue ++ [(n, c)] }
/-- A SEMV's wait ends: its bundle performs its other half, if it has one. -/
def endSemv (s : State) (n k : Nat) : State :=
  modCtx s n k fun c => { c with wait := c.wait.bind fun w => if w.half.isSome then some { w with fin := .half } else none }
/-- A SEMV whose count is full traps in place of its bundle, of which nothing else has been performed (R83, R90, R138). -/
def trapSemv (s : State) (n c k : Nat) : State :=
  let pc := match (ctxAt s n c).wait with | some w => w.pc | none => (ctxAt s n c).pc
  takeTrapAt (modCtx s n c fun x => { x with wait := none, icount := x.icount - 1 }) n c
    { cause := 1, sub := 7, val := dn k, tpc := pc }
/-- A SEMV is served (R138, R139): the longest waiting SEMP takes its count; a full count traps at the SEMV
(DEDUCED, log 23). -/
def serveV (s : State) (clu k n c : Nat) : State :=
  let x := semAt s clu k
  if x.count == 0xFFFF then trapSemv s n c k
  else match x.queue with
    | [] => endSemv (setSemAt s clu k { x with count := x.count + 1 }) n c
    | (m, d) :: l => endSemv (unwait (acquireAll (setSemAt s clu k { x with queue := l }) m) m d) n c
/-- A SEMP that BUDGET withdraws waits still: its request, or its place at the semaphore, goes, and the trap is taken
(R405). One that has been served stands. -/
def awaitsSemp (c : Ctx) (k : Nat) : Bool :=
  c.wait.any fun w => w.fate == .defer && (match w.instr with | .semp f => f.sem.toNat == k | _ => false)
def dropSemp (s : State) (clu k n c : Nat) : State :=
  let s := { s with reqs := s.reqs.filter fun q => !(q.core == n && q.ctx == c && q.ask == .semp k) }
  let x := semAt s clu k
  unwait (setSemAt s clu k { x with queue := x.queue.filter fun e => !(e == (n, c)) }) n c
/-- BUDGET's trap: the BUDGET that the context owes, if any, is taken with it (R405). -/
def budgetTrap (s : State) (n k pc : Nat) : State :=
  takeTrapAt (modCtx s n k fun c => { c with owed := false }) n k { cause := 0x0E, val := dn (budgetCount s n k), tpc := pc }
def serveUnsemp (s : State) (clu k n c : Nat) : State :=
  if awaitsSemp (ctxAt s n c) k then
    budgetTrap (dropSemp s clu k n c) n c (match (ctxAt s n c).wait with | some w => w.pc | none => 0)
  else s

/-- A request at the controller, bitmap or semaphore that it has reached, or its answer (R28, R34, R35, R37, R133,
R138): what is left of it, if it goes on. STEAL.any moves its die's pointer past the slice that it chooses, whether or
not there was a tie and before the STEAL there is served (DESIGN CHOICE, log 119). -/
def serveAsk (s : State) (q : QReq) : State × Option Ask :=
  match q.ask with
  | .take own [] => (answerReq s q (reasonWord (own.getD 1)), none)
  | .take own (x :: l) =>
    (match selectAt s q true x with
    | (s, none) => (if x = q.core - 512 then s else modCore s q.core fun c => { c with takePtr := (x + 1) % 256 }, none)
    | (s, some r) => (s, some (.take (some (own.getD r)) l)))
  | .steal x =>
    (match selectAt (pointPast s q x) q false x with
    | (s, none) => (s, none)
    | (s, some r) => (answerReq s q (reasonWord r), none))
  | .stealAny _ [] r => (answerReq s q (reasonWord r), none)
  | .stealAny none (d :: l) r =>
    (match bestSlice s (partOf s q.core) d with
    | none => (s, some (.stealAny none l r))
    | some x => (modDie s d fun y => { y with stealPtr := (x + 1) % 64 }, some (.stealAny (some x) (d :: l) r)))
  | .stealAny (some x) (_ :: l) _ =>
    (match selectAt (pointPast s q x) q false x with
    | (s, none) => (s, none)
    | (s, some r) => (s, some (.stealAny none l r)))
  | .depth x => (answerReq (pointPast s q x) q (dn (depth (spAt s x (partOf s q.core)))), none)
  | .semp k => (serveP s (clusterFor s q.core) k q.core q.ctx, none)
  | .semv k => (serveV s (clusterFor s q.core) k q.core q.ctx, none)
  | .unsemp k => (serveUnsemp s (clusterFor s q.core) k q.core q.ctx, none)
  | .semtry k =>
    let clu := clusterFor s q.core
    let x := semAt s clu k
    if x.count != 0 && x.queue.isEmpty then
      (answerReq (acquireAll (setSemAt s clu k { x with count := x.count - 1 }) q.core) q (dn x.count.toNat), none)
    else (answerReq s q 0, none)
  | .arrive g bar note =>
    let p := partOf s q.core
    if (barrierOf s p g).arrived.contains q.core then (s, some q.ask) else (arriveAt s q.core q.ctx g bar note, none)

/-- A controller that serves one operation in a cycle: a home queue's, by slice and partition, each partition's queue of
a slice by itself (DESIGN CHOICE, log 128), or a semaphore, by cluster and number. -/
inductive Ctl where
  | queue (slice part : Nat)
  | sem (cluster k : Nat)
  deriving DecidableEq, Repr
/-- The controller that a request asks next, and the one that a message is bound for. -/
def askCtl (s : State) (q : QReq) : Option Ctl :=
  match q.ask with
  | .take _ (x :: _) | .steal x | .depth x | .stealAny (some x) (_ :: _) _ => some (.queue x (partOf s q.core))
  | .semp k | .semv k | .semtry k | .unsemp k => some (.sem (clusterFor s q.core) k)
  | .take _ [] | .stealAny _ _ _ | .arrive _ _ _ => none
def msgCtl (m : Msg) : Option Ctl :=
  match m.body with
  | .enqueue x p _ | .retire x p _ => some (.queue x p)
  | .inbound _ _ _ | .launch _ _ _ _ _ _ _ _ => none
/-- A request that its core keeps waiting: a TAKE of a home core stopped for debug (R372), and one that would start a
context while a pre-emption request is pending (R64) (DEDUCED, log 24). -/
def reqHeld (s : State) (q : QReq) : Bool :=
  (coreAt s q.core).halted && (match q.ask with | .take _ _ => true | _ => false) ||
  (coreAt s q.core).preempt && q.res.isSome
/-- Arrived in an earlier cycle, so that the controller has it before it in this one (DESIGN CHOICE, log 21). -/
def before (now : Nat) (arr : Option Nat) : Bool := match arr with | some t => decide (t < now) | none => false
/-- The earliest of some numbered arrivals, the first of those in one cycle. -/
def earliest : List (Nat × Option Nat) → Option (Nat × Nat)
  | [] => none
  | (i, arr) :: l =>
    let t := arr.getD 0
    match earliest l with
    | some (j, u) => if u < t then some (j, u) else some (i, t)
    | none => some (i, t)
/-- An operation at a controller: of the message, or of the request, at a place. -/
inductive CtlOp where
  | msg (i : Nat)
  | req (i : Nat)
  deriving DecidableEq, Repr
/-- No earlier message of the same channel is under way (R362). A retirement that has reached its controller, where it
arrived in order, is applied past what waits there for other contexts' work: only its own context's records go before it
(R34, R39). -/
def channelHead (s : State) (i : Nat) (m : Msg) : Bool :=
  let ownsOne (x : Msg) : Bool := match m.ends with | some k => x.ctx == some k || x.ends == some k | none => true
  !(s.msgs.take i).any fun x => x.src == m.src && msgTo x == msgTo m && ownsOne x
/-- The messages and requests that wait at a controller. -/
def msgsAt (s : State) (c : Ctl) (f : Nat → Msg → Bool) : List (Nat × Option Nat) :=
  (s.msgs.zipIdx.filter fun e => msgCtl e.1 == some c && before s.cycle e.1.arr && channelHead s e.2 e.1 && f e.2 e.1).map
    fun e => (e.2, e.1.arr)
def reqsAt (s : State) (c : Ctl) (f : QReq → Bool) : List (Nat × QReq) :=
  (s.reqs.zipIdx.filter fun e => askCtl s e.1 == some c && before s.cycle e.1.arr && !reqHeld s e.1 && f e.1).map
    fun e => (e.2, e.1)
def isTake (q : QReq) : Bool := match q.ask with | .take _ _ => true | _ => false
/-- The request that the pointer over requesting cores picks (R34). -/
def picked (ptr : Nat) (l : List (Nat × QReq)) : Option Nat :=
  let from_ (l : List (Nat × QReq)) : Option Nat :=
    match leastOf (l.map fun e => e.2.core) with
    | some n => (earliest ((l.filter fun e => e.2.core == n).map fun e => (e.1, e.2.arr))).map (·.1)
    | none => none
  match from_ (l.filter fun e => ptr ≤ e.2.core) with
  | some i => some i
  | none => from_ l
/-- The operation besides retirements that a queue's controller serves now (R34): an enqueue that has waited four
cycles, a TAKE, a STEAL or QDEPTH by the pointer, an enqueue. -/
def queueOp (s : State) (x p : Nat) : Option CtlOp :=
  let enq := earliest (msgsAt s (.queue x p) fun _ m => (match m.body with | .enqueue _ _ _ => true | _ => false) && !msgBlocked s m)
  let old := match enq with | some (i, t) => if t + 4 < s.cycle then some i else none | none => none
  let take := (earliest ((reqsAt s (.queue x p) isTake).map fun e => (e.1, e.2.arr))).map (·.1)
  let steal := picked (spAt s x p).stealPtr (reqsAt s (.queue x p) fun q => !isTake q)
  match old, take, steal, enq with
  | some i, _, _, _ => some (.msg i)
  | none, some i, _, _ => some (.req i)
  | none, none, some i, _ => some (.req i)
  | none, none, none, some (i, _) => some (.msg i)
  | none, none, none, none => none
/-- The retirement that it applies first. -/
def queueRet (s : State) (x p : Nat) : Option Nat :=
  (earliest (msgsAt s (.queue x p) fun _ m => match m.body with | .retire _ _ _ => true | _ => false)).map (·.1)
/-- The order of operations that reach a semaphore in one cycle (R139): SEMV, then the others by core and context. -/
def semRank (q : QReq) : Nat := (match q.ask with | .semv _ => 0 | _ => 1) * 2 ^ 20 + q.core * 8 + q.ctx
def semOp (s : State) (clu k : Nat) : Option CtlOp :=
  let l := reqsAt s (.sem clu k) fun _ => true
  match earliest (l.map fun e => (e.1, e.2.arr)) with
  | none => none
  | some (_, t) =>
    let now := l.filter fun e => e.2.arr == some t
    match leastOf (now.map fun e => semRank e.2) with
    | some r => (now.find? fun e => semRank e.2 == r).map fun e => .req e.1
    | none => none
/-- What a controller does now, if it has something left to do in this cycle (R34, R139). -/
def dueAt (s : State) : Ctl → Option CtlOp
  | .queue x p =>
    let q := spAt s x p
    let op := if q.lastOp == some s.cycle then none else queueOp s x p
    if q.lastRet == some s.cycle then op
    else match queueRet s x p with | some i => some (.msg i) | none => op
  | .sem clu k => if (semAt s clu k).last == some s.cycle then none else semOp s clu k
/-- The operations that controllers do now: no other work is done, and no cycle passes, before them. -/
def dueOps (s : State) : List CtlOp :=
  ((s.msgs.filterMap msgCtl ++ s.reqs.filterMap (askCtl s)).filterMap (dueAt s)).eraseDups

/-- The controller has served an operation in this cycle; its queue's change is on its way to the bitmap (R34, R36). -/
def noteOp (s : State) : Ctl → State
  | .queue x p => modSP s x p fun q => noteAdvert s.cycle { q with lastOp := some s.cycle }
  | .sem clu k => setSemAt s clu k { semAt s clu k with last := some s.cycle }
def noteRet (s : State) (x p : Nat) : State := modSP s x p fun q => noteAdvert s.cycle { q with lastRet := some s.cycle }
/-- A request is served where it is: what is left of it goes on its way (R34). -/
def serveReq (s : State) (i : Nat) : State :=
  match s.reqs[i]? with
  | none => s
  | some q =>
    match serveAsk { s with reqs := s.reqs.eraseIdx i } q with
    | (s, none) => s
    | (s, some a) => { s with reqs := s.reqs.insertIdx i { q with ask := a, arr := none } }
/-- A request goes on: one on its way to a controller reaches it; another is answered, reads a bitmap, or has its
arrival recorded (R28, R37, R54). -/
def reqOn (s : State) (i : Nat) : State :=
  match s.reqs[i]? with
  | none => s
  | some q =>
    match askCtl s q with
    | none => if reqHeld s q then s else serveReq s i
    | some _ => if q.arr.isSome || reqHeld s q then s else { s with reqs := s.reqs.set i { q with arr := some s.cycle } }
/-- A message reaches its queue's controller, behind those of its channel. -/
def reachMsg (s : State) (i : Nat) (m : Msg) : State :=
  if (s.msgs.take i).any fun x => x.src == m.src && msgTo x == msgTo m && x.arr.isNone then s
  else { s with msgs := s.msgs.set i { m with arr := some s.cycle } }
/-- A controller does an operation. -/
def doOp (s : State) : CtlOp → State
  | .msg i =>
    (match s.msgs[i]? with
    | none => s
    | some m =>
      let s' := receive { s with msgs := s.msgs.eraseIdx i } m
      match m.body with
      | .enqueue x p _ => noteOp s' (.queue x p)
      | .retire x p _ => noteRet s' x p
      | _ => s')
  | .req i =>
    (match s.reqs[i]? with
    | none => s
    | some q => match askCtl s q with
      | some c => noteOp (serveReq s i) c
      | none => s)
/-- A message bound for a home queue: it reaches the controller, or is served there when its turn has come (R25, R34).
-/
def homeMsg (s : State) (i : Nat) (m : Msg) : State :=
  match m.arr, msgCtl m with
  | none, some _ => reachMsg s i m
  | some _, some c => if dueAt s c == some (.msg i) then doOp s (.msg i) else s
  | _, none => s

end Sys2Proof.Machine
end

