-- ==== Sys2Proof/Machine/Matrix.lean ====
section
/-! DEFINITION. The matrix array (spec/12 R225-R227; spec/14 R257-R270; spec/16 R296-R310; spec/13 R243-R250): the
lease, the issue of commands, and each command as the array performs it. -/

namespace Sys2Proof.Machine

/-- BELAY (R225, R257, R299): it waits for the cluster's grant and for power leave. -/
def execBelay (f : FmtU) (s : State) : Host.Outcome State Fault Refusal :=
  issue s (.belay f) fun s =>
    let b : Belay := { core := s.core, ctx := s.ctx, n := f.imm.toNat }
    waitRelease (modClu s (s.core / 8) fun c => { c with belays := c.belays ++ [b] }) (.belay f) .barrier .withdraw
/-- UNBELAY (R258, R300). -/
def execUnbelay (f : FmtR) (s : State) : Host.Outcome State Fault Refusal :=
  issue s (.unbelay f) fun s => endLease s s.core s.ctx
/-- MWAIT (R227), its wait over. -/
def execMwait (f : FmtR) (s : State) : Host.Outcome State Fault Refusal :=
  issue s (.mwait f) fun s => acquireAll s s.core
/-- MSTAT's word (R309). QUEUED reaches 128, which does not fit its seven bits: its eighth bit then stands in bit 39
(DESIGN CHOICE, log 137). -/
def statWord (s : State) (n k : Nat) : Nat :=
  let c := cluAt s (n / 8)
  let hold := c.holder == some (n, k)
  let queued := (c.cmds.filter fun m => m.core == n && m.ctx == k && !m.zeroing).length
  (ctxAt s n k).aflags.toNat + (match c.last with | some l => 2 ^ 27 + l % 8 * 2 ^ 24 | none => 0) +
    bit01 hold * 2 ^ 31 + queued * 2 ^ 32 + (if hold then c.remain else 0) * 2 ^ 40
/-- MSTAT (R309): the flags are read and cleared. -/
def execMstat (f : FmtR) (s : State) : Host.Outcome State Fault Refusal :=
  issue s (.mstat f) fun s =>
    let v := statWord s s.core s.ctx
    sendLate (modCur s fun c => { emptyX c f.rd.toNat with aflags := 0 }) s.core s.ctx f.rd.toNat (dn v) 20

/-- MatrixIssue past its checks (R296): the command takes a queue place and counts against the lease. One that waits for
a place when its context's lease ends by a fault is behind the command that faulted, and discarded with the others there
(R269) (DEDUCED, log 53). -/
def commandEff (s : State) (i : Instr) (a b : Dword) : State :=
  let clu := s.core / 8
  let c := cluAt s clu
  if !holdsLease s then s
  else if 128 ≤ (c.cmds.filter fun m => !m.zeroing).length then waitAgain s i .copy .withdraw
  else
    let m : MCmd := { core := s.core, ctx := s.ctx, instr := i, pc := (cur s).pc, a := a.toNat, b := b.toNat,
                      regs := ops s, icount := (cur s).icount, before := s.accessId }
    let s := modClu s clu fun c => { c with cmds := c.cmds ++ [m], remain := c.remain - 1 }
    if c.remain ≤ 1 then endLease s s.core s.ctx else s
def execMgath (f : FmtR) (s : State) : Host.Outcome State Fault Refusal :=
  issue s (.mgath f) fun s => commandEff s (.mgath f) (rx (ops s) f.rs1.toNat) (rx (ops s) f.rs2.toNat)
def execMldb (f : FmtR) (s : State) : Host.Outcome State Fault Refusal :=
  issue s (.mldb f) fun s => commandEff s (.mldb f) (rx (ops s) f.rs1.toNat) 0
def execMmul (f : FmtR) (s : State) : Host.Outcome State Fault Refusal :=
  issue s (.mmul f) fun s => commandEff s (.mmul f) 0 0
def execMmuls (f : FmtR) (s : State) : Host.Outcome State Fault Refusal :=
  issue s (.mmuls f) fun s => commandEff s (.mmuls f) (rx (ops s) f.rs1.toNat) 0
def execMscale (f : FmtR) (s : State) : Host.Outcome State Fault Refusal :=
  issue s (.mscale f) fun s => commandEff s (.mscale f) (rx (ops s) f.rs1.toNat) (rx (ops s) f.rs2.toNat)
def execMstore (f : FmtR) (s : State) : Host.Outcome State Fault Refusal :=
  issue s (.mstore f) fun s => commandEff s (.mstore f) (rx (ops s) f.rs1.toNat) 0
def execMclr (f : FmtR) (s : State) : Host.Outcome State Fault Refusal :=
  issue s (.mclr f) fun s => commandEff s (.mclr f) 0 0

/-- A fault of the array: cause and TVAL (R269). -/
abbrev MFault := Nat × Nat
def mformat (v : Nat) : MFault := (0x12, v)
def mrange (off : Nat) : MFault := (6, off)

/-- The per-tensor scale (R243, R262). -/
def tensorScale (w scl : Dword) : FVal :=
  if w.getLsbD 9 then decodeF f32 (bits scl.toNat 32 32) else .exact false 1 0
/-- n bytes of a cluster's scratchpad, and whether they lie in it. -/
def inSpm (off n : Nat) : Bool := decide (off + n ≤ Config.spmSize)
def badScale (mode b : Nat) : Bool := mode == 2 && decide (128 ≤ b)

/-- The 256 codes of a row read at an offset: raw codes, FP16 codes of CB4, E4M3 codes of ZX8 (R239-R242); or
the fault. -/
def readRow (s : State) (clu : Nat) (f : OpFmt) (tables off : Nat) : Except MFault Vec :=
  let img := spmRead s clu off (rowBytes f.fmt)
  match f.fmt with
  | 12 => .ok (vecOf fun e => BitVec.ofNat 32 (cb4Code img e))
  | 13 =>
    (match zxBlocks tables img 8 0 with
    | (_, some o) => .error (mformat (off + o))
    | (bs, none) => .ok (vecOf fun e => BitVec.ofNat 32 (bs.getD e 0)))
  | k => .ok (vecOf fun e => BitVec.ofNat 32 (codeAt k img e))
/-- The rows of a fill, in latch order from row i (R264). -/
def readRows (s : State) (clu : Nat) (f : OpFmt) (tables : Nat) : List Nat → Nat → Except MFault (FMap Vec)
  | [], _ => .ok []
  | off :: l, i =>
    match readRow s clu f tables off with
    | .error e => .error e
    | .ok v => match readRows s clu f tables l (i + 1) with
      | .error e => .error e
      | .ok m => .ok ((i, v) :: m)
/-- A fill of a buffer from source rows (R264, R265, R301, R302): the rows and the scales pushed. TVAL of MFORMAT for a
format or a scale byte is 0 (DESIGN CHOICE, log 135). -/
def fillRows (s : State) (clu : Nat) (fmtw scl : Dword) (base : Nat) (ents : List Nat) :
    Except MFault (ArrayBuf × List Byte) :=
  match opFmt fmtw with
  | none => .error (mformat 0)
  | some f =>
    let rb := rowBytes f.fmt
    let unit := scaleBytes f.smode
    let sb := scaleBase f scl
    let feed := scl.getLsbD 23
    let rows := ents.map fun e => base + e * rb
    let tbl := bits scl.toNat 0 23
    match rows.find? fun o => !inSpm o rb with
    | some o => .error (mrange o)
    | none =>
      let srcs := if feed || unit = 0 then [] else ents.map fun e => sb + unit * e
      match srcs.find? fun o => !inSpm o unit with
      | some o => .error (mrange o)
      | none =>
        let pushed := (srcs.map fun o => toBytes (spmRead s clu o unit) unit).flatten
        if pushed.any fun b => badScale f.smode b.toNat then .error (mformat 0)
        else if f.fmt = 13 && !inSpm tbl 128 then .error (mrange tbl)
        else match readRows s clu f (spmRead s clu tbl 128) rows 0 with
          | .error e => .error e
          | .ok m => .ok ({ rows := m, k := ents.length, fmt := some (f.fmt, f.planes) }, pushed)
/-- The first entry that does not exceed the one before it. -/
def notRising : List Nat → Nat → Option Nat
  | a :: b :: l, i => if b ≤ a then some (i + 1) else notRising (b :: l) (i + 1)
  | _, _ => none
/-- MGATH's index vector (R264, R301). -/
def indexVector (s : State) (clu xi : Nat) : Except MFault (List Nat) :=
  if !inSpm xi 8 then .error (mrange xi)
  else
    let count := spmRead s clu xi 8
    let k := min count 256
    if 65536 < count then .error (mformat 65536)
    else if !inSpm (xi + 8) (2 * k) then .error (mrange (xi + 8))
    else
      let es := (List.range k).map fun j => spmRead s clu (xi + 8 + 2 * j) 2
      match notRising es 0 with
      | some j => .error (mformat j)
      | none => .ok es

/-- An element's exact value (R234-R239). -/
def elemVal (f : OpFmt) (code : Nat) : FVal :=
  match f.fmt with
  | 12 => decodeF f16 code
  | 13 => decodeF e4m3 code
  | k => match fmtOf k with
    | some t => decodeF t code
    | none => .ofInt (intVal k f.planes code)
/-- A scaled element: its value after FZ (R243, R245), and whether a NaN was carried into it. -/
structure Scaled where
  v       : FVal
  carried : Bool
  deriving DecidableEq, Repr
def scaled (fz : Bool) (e sc ts : FVal) : Scaled :=
  let p := mulF (mulF e sc) ts
  let z := fz && (match p with | .fin _ m _ _ => m != 0 | _ => false) && p.below (-126)
  { v := if z then .exact p.neg 0 0 else p, carried := e.isNan || sc.isNan || ts.isNan }
/-- The block scale of element k of row r in a FIFO (R243, R265). -/
def blockScale (mode : Nat) (fifo : List Byte) (r k : Nat) : FVal :=
  match mode with
  | 0 => .exact false 1 0
  | 1 => scaleVal 1 ((fifo.getD (8 * r + k / 32) 0).toNat)
  | _ => scaleVal 2 ((fifo.getD (16 * r + k / 16) 0).toNat)

/-- A block's exact sum (R244, R250): a NaN carried in, a NaN that arises, or a value. -/
inductive BlockSum where
  | carried
  | arises
  | val (v : FVal)
  deriving DecidableEq, Repr
/-- (DEDUCED, log 54) -/
def blockSum (l : List (Scaled × Scaled)) : BlockSum :=
  if l.any fun x => x.1.carried || x.2.carried then .carried
  else
    let v := l.foldl (fun a x => addF false a (mulF x.1.v x.2.v)) (.exact false 0 0)
    if v.isNan then .arises else .val v
/-- A value rounded into an FP32 accumulator (R245, R250, R307) (DEDUCED, log 54). -/
def accRound (fz : Bool) (v : FVal) : Nat × Flags :=
  match v with
  | .nan _ => (canonNan f32, 0)
  | .inf s => (signBit f32 s + infBits f32, 0)
  | .fin s m x a =>
    let y := roundFin f32 0 0 s m x a
    if fz && bits y.bits 23 8 == 0 && bits y.bits 0 23 != 0 then (signBit f32 s, fUF ||| fNX)
    else (y.bits, fIf y.of fOF ||| fIf y.nx fNX ||| fIf (y.tiny && y.nx) fUF)
/-- One block added to an accumulator element (R250, R307). -/
def accStep (fz : Bool) (acc : Nat) (b : BlockSum) : Nat × Flags :=
  let a := decodeF f32 acc
  match b with
  | .carried => (canonNan f32, 0)
  | .arises => (canonNan f32, fNV)
  | .val v =>
    if a.isNan then (canonNan f32, 0)
    else
      let t := addF false a v
      if t.isNan then (canonNan f32, fNV) else accRound fz t
/-- The eight blocks of one element, from pairs listed by position; masked positions are absent. -/
def accElem (fz : Bool) (acc : Nat) (pairs : Nat → List (Scaled × Scaled)) : Nat × Flags :=
  (List.range 8).foldl (fun a b =>
    let r := accStep fz a.1 (blockSum (pairs b))
    (r.1, a.2 ||| r.2)) (acc, 0)

/-- Metadata of a 2:4 row (R268): source place of each of 256 expanded positions, none where masked; or the
first bad group. -/
def sparseMap (meta24 : Nat) : Except Nat (List (Option Nat)) :=
  match (List.range 64).find? fun g => decide (bits meta24 (4 * g + 2) 2 ≤ bits meta24 (4 * g) 2) with
  | some g => .error g
  | none => .ok ((List.range 256).map fun e =>
      let g := e / 4
      if bits meta24 (4 * g) 2 = e % 4 then some (2 * g)
      else if bits meta24 (4 * g + 2) 2 = e % 4 then some (2 * g + 1) else none)
/-- The places that row i of the latch gives each position (R244, R268): none where masked. -/
def rowPlaces (s : State) (clu k : Nat) (sparse : Bool) (xm i : Nat) : Except MFault (List (Option Nat)) :=
  if k ≤ i then .ok (List.replicate 256 none)
  else if !sparse || i % 2 == 0 then .ok ((List.range 256).map some)
  else
    let off := xm + 32 * (i / 2)
    if !inSpm off 32 then .error (mrange off)
    else match sparseMap (spmRead s clu off 32) with
      | .error g => .error (0x11, 64 * (i / 2) + g)
      | .ok l => .ok l
def allPlaces (s : State) (clu k : Nat) (sparse : Bool) (xm : Nat) : List Nat → Except MFault (List (List (Option Nat)))
  | [] => .ok []
  | i :: l => match rowPlaces s clu k sparse xm i with
    | .error e => .error e
    | .ok p => match allPlaces s clu k sparse xm l with
      | .error e => .error e
      | .ok ps => .ok (p :: ps)

def isIntFmt (k : Nat) : Bool := 8 ≤ k && k ≤ 11
/-- MMUL's and MMULS's checks that precede the arithmetic (R304). -/
def mmulFault (c : Cluster) (r : Regs) (sparse : Bool) (fa fb : OpFmt) : Option MFault :=
  let differs (b : ArrayBuf) (f : OpFmt) : Bool := match b.fmt with | some x => x != (f.fmt, f.planes) | none => false
  if differs c.latch fa || differs c.btile fb then some (mformat 0)
  else if isIntFmt fa.fmt != isIntFmt fb.fmt then
    some (mformat (bits r.fmta.toNat 0 4 * 2 ^ 32 + bits r.fmtb.toNat 0 4))
  else if sparse && !(fa.fmt == 3 || fa.fmt == 4 || fa.fmt == 7 || fa.fmt == 9) then some (mformat 0)
  else none
/-- The count check of R265, which any FIFO filled under another SMODE fails, and the scales of R243 (DEDUCED, log
53), with TVAL 0 for a bad one (DESIGN CHOICE, log 135). -/
def scaleFault (mode k : Nat) (fifo : List Byte) : Option MFault :=
  let need := k * scaleBytes mode
  if need != fifo.length then some (0x10, need * 2 ^ 32 + fifo.length)
  else if fifo.any fun b => badScale mode b.toNat then some (mformat 0) else none
/-- The new tile (R250, R304) and its flags; a zeroed buffer holds +0 whatever the format. -/
def mmulTile (c : Cluster) (r : Regs) (fa fb : OpFmt) (places : List (List (Option Nat))) (t : Nat) : FMap Vec × Flags :=
  let fz := fzOf r
  let ta := tensorScale r.fmta r.scla
  let tb := tensorScale r.fmtb r.sclb
  let old : FMap Vec := fget [] c.tiles t
  let zero : FVal := .exact false 0 0
  let a (i k src : Nat) : Scaled :=
    scaled fz (if c.latch.fmt.isNone then zero else elemVal fa (lane (fget 0 c.latch.rows i) src).toNat) (blockScale fa.smode c.fifoA i k) ta
  let b (n k : Nat) : Scaled :=
    scaled fz (if c.btile.fmt.isNone then zero else elemVal fb (lane (fget 0 c.btile.rows n) k).toNat) (blockScale fb.smode c.fifoB n k) tb
  let elem (i n : Nat) : Nat × Flags :=
    let p := places.getD i []
    accElem fz (lane (fget 0 old i) n).toNat fun blk =>
      (List.range 32).filterMap fun x =>
        let k := 32 * blk + x
        match p.getD k none with
        | some src => some (a i k src, b n k)
        | none => none
  let rows := (List.range 256).map fun i => ((List.range 256).map fun n => elem i n)
  (((rows.zipIdx).map fun e => (e.2, vecOf fun n => BitVec.ofNat 32 (e.1.getD n (0, 0)).1)),
    rows.foldl (fun f l => l.foldl (fun f x => f ||| x.2) f) 0)

/-- MSTORE's conversion of an accumulator (R245, R305, R307). A result that FZ flushes, in any floating format, sets NX
alone (DESIGN CHOICE, log 134). -/
def storeCode (fo mode r : Nat) (fz : Bool) (x : Nat) : Nat × Flags :=
  let v := decodeF f32 x
  match fmtOf fo with
  | none => let y := roundToInt 8 mode r v; ((BitVec.ofInt 8 y.1).toNat, y.2)
  | some f =>
    let y := roundTo f mode r v
    let z := decodeF f y.1
    if fz && (match z with | .fin _ m _ _ => m != 0 | _ => false) && z.below (-126) then
      (signBit f z.neg, y.2 ||| fNX)
    else y
/-- The rows that MSTORE writes: offset, bytes, value (R305). -/
def storeTile (s : State) (m : MCmd) (clu t xd : Nat) : Except MFault (List (Nat × Nat × Nat) × Flags) :=
  let fo := bits m.regs.fmto.toNat 0 4
  let rb := rowBytes fo
  if 8 < fo then .error (mformat 0)
  else if !inSpm xd (256 * rb) then .error (mrange xd)
  else
    let tile : FMap Vec := fget [] (cluAt s clu).tiles t
    let mode := bits m.regs.mround.toNat 0 3
    let code (i n : Nat) : Nat × Flags :=
      storeCode fo mode (srHash (gOf m.core m.ctx) m.icount i n) (fzOf m.regs) (lane (fget 0 tile i) n).toNat
    .ok ((List.range 256).map fun i => (xd + i * rb, rb, pack (elemBits fo) (fun n => (code i n).1) 256), (List.range 256).foldl (fun f i => (List.range 256).foldl (fun f n => f ||| (code i n).2) f) 0)

/-- The four array flags of a command's rounding flags (R307, R309): FNV, FOF, FUF, FNX. -/
def arrayFlags (f : Flags) : BitVec 4 :=
  BitVec.ofNat 4 (bit01 (f.getLsbD 0) + bit01 (f.getLsbD 1) * 2 + bit01 (f.getLsbD 2) * 4 + bit01 (f.getLsbD 4) * 8)
/-- What performing a command ends in: the state with its flags, the rows an MSTORE goes on to write, or the state a
fault leaves. -/
inductive MRes where
  | ok (s : State) (fl : Flags)
  | rows (l : List (Nat × Nat × Nat)) (fl : Flags)
  | fault (s : State) (f : MFault)
  deriving DecidableEq, Repr
def setLatch (s : State) (clu : Nat) (b : ArrayBuf) (q : List Byte) : State :=
  modClu s clu fun c => { c with latch := b, fifoA := q }
def setBtile (s : State) (clu : Nat) (b : ArrayBuf) (q : List Byte) : State :=
  modClu s clu fun c => { c with btile := b, fifoB := q }
/-- A command at the head of the array's queue (R301-R306). -/
def perform (s : State) (clu : Nat) (m : MCmd) : MRes :=
  let c := cluAt s clu
  let r := m.regs
  let mul (t : Nat) (sparse : Bool) : MRes :=
    match opFmt r.fmta, opFmt r.fmtb with
    | some fa, some fb =>
      (match mmulFault c r sparse fa fb with
      | some e => .fault s e
      | none => match allPlaces s clu c.latch.k sparse m.a (List.range 256) with
        | .error e => .fault s e
        | .ok places =>
          match scaleFault fa.smode c.latch.k c.fifoA with
          | some e => .fault s e
          | none => match scaleFault fb.smode 256 c.fifoB with
            | some e => .fault s e
            | none =>
              let x := mmulTile c r fa fb places t
              .ok (modClu s clu fun c => { c with tiles := fset c.tiles t x.1 }) x.2)
    | _, _ => .fault s (mformat 0)
  match m.instr with
  | .mgath _ =>
    (match opFmt r.fmta, indexVector s clu m.b with
    | none, _ => .fault (setLatch s clu {} []) (mformat 0)
    | some _, .error e => .fault (setLatch s clu {} []) e
    | some _, .ok es => match fillRows s clu r.fmta r.scla m.a es with
      | .error e => .fault (setLatch s clu {} []) e
      | .ok x => .ok (setLatch s clu x.1 x.2) 0)
  | .mldb _ =>
    (match fillRows s clu r.fmtb r.sclb m.a (List.range 256) with
    | .error e => .fault (setBtile s clu {} []) e
    | .ok x => .ok (setBtile s clu x.1 x.2) 0)
  | .mscale f =>
    let held := if f.rd = 0 then c.fifoA.length else c.fifoB.length
    if !inSpm m.a m.b then .fault s (mrange m.a)
    else if 4096 < held + m.b then .fault s (0x10, 4096 * 2 ^ 32 + held)
    else
      let bs := toBytes (spmRead s clu m.a m.b) m.b
      .ok (modClu s clu fun c => if f.rd = 0 then { c with fifoA := c.fifoA ++ bs } else { c with fifoB := c.fifoB ++ bs }) 0
  | .mmul f => mul f.rd.toNat false
  | .mmuls f => mul f.rd.toNat true
  | .mstore f =>
    (match storeTile s m clu f.rd.toNat m.a with
    | .error e => .fault s e
    | .ok x => .rows x.1 x.2)
  | .mclr f => .ok (modClu s clu fun c => { c with tiles := fdel c.tiles f.rd.toNat }) 0
  | _ => .ok s 0
/-- The zeroing of a grant (R257). -/
def zeroArray (s : State) (clu : Nat) : State :=
  modClu s clu fun c => { c with tiles := [], latch := {}, btile := {}, fifoA := [], fifoB := [] }
/-- A scratchpad store that the context issued before a command, or the write of a predictor instruction of its, is not
yet performed (R230, R267, R310). -/
def storesBefore (s : State) (m : MCmd) : Bool :=
  (s.accesses.any fun a => a.spm && a.core == m.core && a.ctx == m.ctx && storesKind a.kind && decide (a.id < m.before)) ||
  (cluAt s (m.core / 8)).npq.any fun q => q.core == m.core && q.ctx == m.ctx && writesN q.instr && decide (q.before < m.before)
/-- Words of a list of ranges at each bank (R151): the gather unit reads each once for each range that holds it. -/
def bankWords (l : List Range) : List Nat :=
  (List.range 384).map fun b => l.foldl (fun n r =>
    let lo := r.1 / 8
    let hi := (min (r.1 + r.2) Config.spmSize + 7) / 8
    n + ((hi + 383 - b) / 384 - (lo + 383 - b) / 384)) 0
/-- The next step of a fill at the head of the queue (R266): MGATH locks its index vector and the gather unit reads it;
then either fill locks its rows and scales, and the gather unit reads these. None once it has read all (DEDUCED, log
140). -/
def lockRows (s : State) (clu : Nat) (m : MCmd) : MCmd := { m with gather := some (true, bankWords (rowRanges s clu m)) }
def gatherNext (s : State) (clu : Nat) (m : MCmd) : Option MCmd :=
  match m.instr, m.gather with
  | .mgath _, none => some { m with gather := some (false, bankWords (indexRanges s clu m)) }
  | .mldb _, none => some (lockRows s clu m)
  | _, none => none
  | _, some (rows, l) => if l.any (· != 0) then some m else if rows then none else some (lockRows s clu m)
/-- The head of the queue, all that it reads being read, is performed (R267, R269, R298): an MSTORE goes on to write its
rows; a fault is a refusal of its context, discards that context's commands behind it and ends its lease (DEDUCED, log
53). -/
def flagArray (s : State) (m : MCmd) (fl : BitVec 4) : State :=
  modCtx s m.core m.ctx fun c => { c with aflags := c.aflags ||| fl }
def setHead (s : State) (clu : Nat) (m : MCmd) : State := modClu s clu fun c => { c with cmds := m :: c.cmds.drop 1 }
def endCommand (s : State) (clu : Nat) (m : MCmd) : State :=
  match perform (modClu s clu fun c => { c with cmds := c.cmds.drop 1 }) clu m with
  | .ok s fl => flagArray s m (arrayFlags fl)
  | .rows l fl => setHead s clu { m with out := some l, flags := arrayFlags fl }
  | .fault s e =>
    let s := modClu s clu fun c => { c with cmds := c.cmds.filter fun x => x.zeroing || !(x.core == m.core && x.ctx == m.ctx) }
    let s := sendRefusal s m.core m.ctx { cause := e.1, sub := 0, tval := dn e.2, rpc := m.pc }
    endLease s m.core m.ctx
/-- ARRAY_COMMAND_START (R266, R267, R298, R299, R310): the head of the queue begins after the context's earlier stores,
a fill in its steps; an MSTORE ends once its rows are written. -/
def startCommand (s : State) (clu : Nat) : State :=
  match (cluAt s clu).cmds with
  | [] => s
  | m :: rest =>
    let gone := modClu s clu fun c => { c with cmds := rest }
    if m.zeroing then zeroArray gone clu
    else match m.out with
    | some [] => flagArray gone m m.flags
    | some _ => s
    | none =>
      if m.gather.isNone && storesBefore s m then s
      else match gatherNext s clu m with
      | some m' => setHead s clu m'
      | none => endCommand s clu m
/-- A bank gives the gather unit a word of the fill at the head of the queue (R152). -/
def gatherWord (s : State) (clu bank : Nat) : State :=
  match (cluAt s clu).cmds with
  | [] => s
  | m :: _ => match m.gather with
    | none => s
    | some (rows, l) => setHead s clu { m with gather := some (rows, l.set bank (l.getD bank 0 - 1)) }
/-- The gather unit still reads (R152): it is the engine side of its cluster's banks. -/
def gathering (c : Cluster) : Option (List Nat) :=
  c.cmds.head?.bind fun m => m.gather.bind fun g => if g.2.any (· != 0) then some g.2 else none
/-- The head of the queue, an MSTORE that has begun, writes the row at place i of those left (R305, R310). -/
def writeRow (s : State) (clu i : Nat) : State :=
  match (cluAt s clu).cmds with
  | [] => s
  | m :: rest =>
    match m.out with
    | none => s
    | some l =>
      match l[i]? with
      | none => s
      | some x =>
        modClu (spmWrite s clu x.1 x.2.1 x.2.2) clu fun c => { c with cmds := { m with out := some (l.eraseIdx i) } :: rest }
/-- (DEDUCED, log 53) -/
def execArrayCommandStart (cluster : Nat) (s : State) : Host.Outcome State Fault Refusal :=
  if 64 ≤ cluster then .fault .noSuchUnit else .next (startCommand s cluster)

/-- The BELAY that the arbiter picks (R257): the highest effective class, then the core next from the pointer,
then the lower context. -/
def pickBelay (s : State) (clu : Nat) : Option Belay :=
  let c := cluAt s clu
  let top := (c.belays.map fun b => effClass s b.core b.ctx).foldl max 0
  let l := c.belays.filter fun b => effClass s b.core b.ctx == top
  let core := ((List.range 8).map fun i => (c.arb + i) % 8).find? fun i => l.any fun b => b.core % 8 == i
  match core with
  | none => none
  | some i =>
    let m := l.filter fun b => b.core % 8 == i
    match leastOf (m.map (·.ctx)) with
    | none => none
    | some k => m.find? fun b => b.ctx == k
def dropFirst (b : Belay) : List Belay → List Belay
  | [] => []
  | x :: l => if x == b then l else x :: dropFirst b l
/-- BELAY_GRANT: the arbiter chooses, and the chosen context asks for power leave (R257, R399). -/
def grantBelay (s : State) (clu : Nat) : State :=
  let c := cluAt s clu
  if c.holder.isSome || c.chosen.isSome then s
  else match pickBelay s clu with
    | none => s
    | some b =>
      let s := modClu s clu fun c =>
        { c with belays := dropFirst b c.belays, chosen := some b, arb := (b.core % 8 + 1) % 8 }
      modDie s (clu / 16) fun d =>
        { d with leaveQ := d.leaveQ ++ [{ kind := 0, core := b.core, ctx := b.ctx, copy := 0, cycle := s.cycle }] }
def execBelayGrant (cluster : Nat) (s : State) : Host.Outcome State Fault Refusal :=
  if 64 ≤ cluster then .fault .noSuchUnit else .next (grantBelay s cluster)
/-- A lease begins with its power leave (R225, R257, R299): a core other than the last holder finds the array zeroed, in
lease order; a withdrawn BELAY returns its lease at once (R405). -/
def beginLease (s : State) (b : Belay) : State :=
  let clu := b.core / 8
  let zero : MCmd := { core := b.core, ctx := b.ctx, instr := .replayall { func := 0, w2 := 0, w1 := 0, rs2 := 0, rs1 := 0, rd := 0 },
                       pc := 0, a := 0, b := 0, regs := {}, icount := 0, zeroing := true }
  let s := modClu s clu fun c =>
    { c with holder := some (b.core, b.ctx), remain := b.n, chosen := none, last := some b.core,
             cmds := if c.last == some b.core then c.cmds else c.cmds ++ [zero] }
  if b.dead then endLease s b.core b.ctx else modCtx s b.core b.ctx fun c => { c with wait := none }

end Sys2Proof.Machine
end

