-- ==== Sys2Proof/Machine/Banks.lean ====
section
/-! DEFINITION. The banks of the scratchpads (spec/09 R151, R152; spec/14 R266): what waits at each, and whom it
serves. -/

namespace Sys2Proof.Machine

/-- The bank of an offset (R151). -/
def bankOf (off : Nat) : Nat := off / 8 % 384
/-- What a bank grants: a part of an access of a core, a word of a copy of a cluster's engine, or one that the gather
unit reads. -/
inductive Grant where
  | core (core id part : Nat)
  | engine (cluster copy word : Nat)
  | gather
  deriving DecidableEq, Repr
/-- A far core's outstanding requests, at most 32, in order: an access, and the place of its part (R152). -/
def coreRequests (s : State) (n : Nat) : List (Access × Nat) :=
  ((s.accesses.filter fun a => a.spm && a.core == n).flatMap fun a => (List.range a.pieces.length).map fun i => (a, i)).take 32
/-- One of them has still to reach its bank (R8). -/
def farFromBank (x : Access × Nat) : Bool :=
  x.1.stage == .ready && (match x.1.pieces[x.2]? with | some p => (ffind x.1.there p.pos).isNone | none => false)
/-- A request reaches its bank, at any time after its issue (R8, R152). -/
def reachBank (s : State) (id i : Nat) : State :=
  { s with accesses := s.accesses.map fun a =>
    if a.id == id then
      (match a.pieces[i]? with
      | some p => { a with there := fset a.there p.pos s.cycle }
      | none => a)
    else a }
/-- One of them waits at its bank since an earlier cycle, and nothing of its context holds it (R164) (DESIGN CHOICE,
log 20). -/
def atBank (s : State) (x : Access × Nat) : Bool :=
  match x.1.pieces[x.2]? with
  | none => false
  | some p =>
    before s.cycle (ffind x.1.there p.pos) && (unordered x.1 || x.2 == 0) && !(x.1.pieces.take x.2).any (overlaps p) &&
    x.1.stage == .ready && spmFree s x.1 p && !behind s x.1 p
def bankOfPart (x : Access × Nat) : Nat := match x.1.pieces[x.2]? with | some p => bankOf p.va | none => 0
/-- The requests of cores at a bank of a cluster's scratchpad, by the core's number in it. -/
def coresAt (s : State) (clu bank : Nat) : List (Nat × Grant) :=
  (List.range 8).flatMap fun j =>
    ((coreRequests s (8 * clu + j)).filter fun x => atBank s x && bankOfPart x == bank).map fun x =>
      (j, .core (8 * clu + j) x.1.id x.2)
/-- The words that copies write into a cluster's scratchpad, with their banks, but for those that a fill has locked
(R152, R194, R266). -/
def copyWords (s : State) (clu : Nat) : List (Nat × Grant) :=
  s.clusters.flatMap fun e => e.2.copies.zipIdx.flatMap fun c =>
    (c.1.waits.zipIdx.filter fun w => w.1.1.1 == clu && decide (w.1.2 < s.cycle) &&
      !lockHolds s clu w.1.1.2.1 (w.1.1.2.1 + w.1.1.2.2.1)).map fun w => (bankOf w.1.1.2.1, .engine e.1 c.2 w.2)
/-- The requests of the engine side of a cluster's banks (R152): the gather unit's while it reads, and otherwise those of
the copy engines (DEDUCED, log 140). -/
def engineWords (s : State) (clu : Nat) : List (Nat × Grant) :=
  match gathering (cluAt s clu) with
  | some l => (l.zipIdx.filter fun e => e.1 != 0).map fun e => (e.2, .gather)
  | none => copyWords s clu
/-- What a bank grants now, and its state after it (R152): the engine side, unless it won the last grant and a core
waits; else the core that the pointer names next (DEDUCED, log 126). -/
def bankGrant (s : State) (clu bank : Nat) : Option (Grant × Bank) :=
  let k := fget {} (cluAt s clu).banks bank
  let cores := coresAt s clu bank
  let core := (cores.find? fun x => k.ptr ≤ x.1).or cores.head?
  if k.last == some s.cycle then none
  else match (engineWords s clu).find? fun x => x.1 == bank, core with
    | some (_, g), none => some (g, { k with eng := true, last := some s.cycle })
    | some (_, g), some (j, h) =>
      if k.eng then some (h, { ptr := (j + 1) % 8, eng := false, last := some s.cycle })
      else some (g, { k with eng := true, last := some s.cycle })
    | none, some (j, h) => some (h, { ptr := (j + 1) % 8, eng := false, last := some s.cycle })
    | none, none => none
/-- The banks at which something waits, by cluster. -/
def busyBanks (s : State) : List (Nat × Nat) :=
  ((s.accesses.filter (·.spm)).flatMap fun a => a.pieces.map fun p => (a.core / 8, bankOf p.va)).eraseDups ++
  (s.clusters.flatMap fun e => (engineWords s e.1).map fun x => (e.1, x.1)).eraseDups
/-- The banks that grant now. -/
def dueBanks (s : State) : List (Nat × Nat) := (busyBanks s).filter fun b => (bankGrant s b.1 b.2).isSome
/-- A bank performs the request that it grants. -/
def grantBank (s : State) (clu bank : Nat) : State :=
  match bankGrant s clu bank with
  | none => s
  | some (g, k) =>
    let s := modClu s clu fun c => { c with banks := fset c.banks bank k }
    match g with
    | .core _ id i =>
      (match s.accesses.find? fun a => a.id == id with
      | some a => runPart s { bank := true } a i
      | none => s)
    | .engine c n j => bankWord s c n j
    | .gather => gatherWord s clu bank

end Sys2Proof.Machine
end

