-- ==== Sys2Proof/Machine/Legal.lean ====
section
/-! DEFINITION. What a legal encoding is (spec/05 R85-R87, R92, R93 and the entries of the instructions):
the func values assigned to each row, the reserved fields and values (subcode RSVD), the ranges of
registers and constants (subcode OPERAND), the rows with no long form (subcode LONGW), and the rows a
home core lacks (subcode NOT_HERE). -/

namespace Sys2Proof

/-- The func values that the opcode maps assign to a row (R92, R93; R87, ENC). -/
def funcOk : Instr → Bool
  | .gjoin f => f.func == 0
  | .gleave f => f.func == 1
  | .gtag f => f.func == 2
  | .gbar f => f.func == 3
  | .garrive f => f.func == 4
  | .gwait f => f.func == 5
  | .semp f => f.func == 0
  | .semv f => f.func == 1
  | .semtry f => f.func == 2
  | .add _ f | .slt _ f | .mul _ f | .clz _ f | .synci f | .pref f | .invr f | .wbr f | .sigclr f
  | .regset f | .regclr f | .retype f | .wsclr f | .take f | .tend f | .qdepth f | .send f
  | .sendg f | .wfa f | .unrope f | .unbelay f | .mgath f | .mldb f | .mmul f | .npcfg f | .npred f
  | .ncheck f | .tret f | .upcret f | .ctxsave f | .ctxload f | .xinv f | .replayall f | .vand _ f
  | .vor _ f | .vxor _ f | .vsll _ f | .vsrl _ f | .vsra _ f | .vbcast _ f | .vperm _ f | .vexp2 _ f
  | .vrcp _ f | .vrsq _ f | .vlog2 _ f | .vnzc _ f | .vbmap _ f | .vidx _ f | .aclr _ f | .pand _ f
  | .por _ f | .pxor _ f | .pnot _ f | .pcnt _ f | .pfirst _ f | .pset _ f => f.func == 0
  | .sub _ f | .sltu _ f | .mulh _ f | .ctz _ f | .steal f | .tabort f | .qdepthIn f | .mwait f
  | .mmuls f | .vsllImm _ f | .vsrlImm _ f | .vsraImm _ f | .vidxI32 _ f => f.func == 1
  | .and _ f | .min _ f | .mulhu _ f | .popc _ f | .stealAny f | .mstat f | .mscale f => f.func == 2
  | .or _ f | .max _ f | .div _ f | .bext _ f | .mstore f => f.func == 3
  | .xor _ f | .minu _ f | .divu _ f | .bdep _ f | .mclr f | .vunpkbZx8 _ f => f.func == 4
  | .sll _ f | .maxu _ f | .rem _ f => f.func == 5
  | .srl _ f | .remu _ f => f.func == 6
  | .sra _ f => f.func == 7
  | .fadd _ f | .fsub _ f | .fmul _ f | .fdiv _ f | .fsqrt _ f | .fma _ f | .fmin _ f | .fmax _ f
  | .fcmp _ f | .fclass _ f | .fcvt _ f => f.func &&& 3 != 3
  | .vred _ f => f.func.toNat / 2 != 3
  | .amovToAcc _ f => f.func.toNat < 4
  | .amovFromAcc _ f => 6 ≤ f.func.toNat
  | .vpackb _ f => f.func.toNat < 3
  | .vunpkb _ f => f.func.toNat < 4
  | .waitf f | .vext _ f => f.func.toNat < 2
  | .addsh _ _ | .sel _ _ | .addi _ _ | .andi _ _ | .ori _ _ | .xori _ _ | .slli _ _ | .srli _ _
  | .srai _ _ | .slti _ _ | .sltiu _ _ | .li _ _ | .lih _ _ | .br _ | .brl _ | .jr _ | .jrl _
  | .bcEq _ | .bcNe _ | .bcLt _ | .bcGe _ | .bcLtu _ | .bcGeu _ | .bcz _ | .loop _ | .crrd _
  | .crwr _ | .crsetb _ | .crclrb _ | .ldb _ | .ldbu _ | .ldh _ | .ldhu _ | .ldw _ | .ldwu _
  | .ldd _ | .stb _ | .sth _ | .stw _ | .std _ | .ldaq _ | .strl _ | .ldv _ | .stv _ | .ldvx _
  | .stvx _ | .amoadd _ | .amoand _ | .amoor _ | .amoxor _ | .amomin _ | .amomax _ | .amominu _
  | .amomaxu _ | .amoswp _ | .amocas _ | .amofadd _ | .amoaddt _ | .fence _ | .publ _ | .sbind _
  | .sunbind _ | .cpy _ | .cpy2 _ | .cpym _ | .cpyw _ | .cpyq _ | .spawn _ | .spawnh _ | .treel _
  | .prio _ | .rope _ | .ropeck _ | .belay _ | .trap _ | .dbrk _ | .vadd _ _ | .vsub _ _ | .vmul _ _
  | .vfma _ _ | .vmac _ _ | .vmin _ _ | .vmax _ _ | .vabs _ _ | .vneg _ _ | .vcmp _ _ | .vsel _ _
  | .vcvt _ _ | .vnar _ _ | .launchTreeMessage _ | .arrayCommandStart _ | .valueArrival _ _ _
  | .refusal _ _ | .budget _ _ | .enqueue _ | .retirement _ | .inboundDelivery _ | .upcallStart _
  | .pageWalk _ _ | .monitorRewalk _ | .transientTimeout _ | .persistentActivate _ _
  | .copyComplete _ _ | .belayGrant _ | .powerLeaveGrant _ _ | .limitChange _ _ _
  | .preemptionRequest _ | .preemptionLift _ | .consistentCut _ _ | .marker _ _ _ | .cutResume _
  | .launchRecord _ _ | .loadRecord _ _ | .releaseRecord _ _ | .hostRead _ _ _ | .hostWrite _ _ _
  | .partitionCreate _ | .partitionTeardown _ | .coldStart | .warmStart _ | .getVersion _
  | .getCapabilities _ | .negotiateAlgorithms _ | .getDigests _ | .getCertificate _ | .challenge _ _
  | .getMeasurements _ _ _ | .keyExchange _ _ | .finish _ _ | .endSession _
  | .vendorDefinedRequest _ _ | .halt _ | .resume _ | .debugRegisterWrite _ _ _ | .sampleTick _
  | .hbmReadError _ | .hbmRetry _ _ | .lifetimeFlush _ | .counterRead | .overlayFetch _ _
  | .unassignedBundle _ _ | .tdispRequest _ _ | .peerRequest _ | .pcieLinkDown _ | .dumpRequest _ => true

/-- R95: the rows a home core lacks, C-class opcodes 0x6B to 0x6D and 0x70 to 0x77. -/
def farOnly : Instr → Bool
  | .rope _ | .unrope _ | .ropeck _ | .belay _ | .unbelay _ | .mwait _ | .mstat _ | .mgath _
  | .mldb _ | .mmul _ | .mmuls _ | .mscale _ | .mstore _ | .mclr _ | .npcfg _ | .npred _ | .ncheck _ => true
  | _ => false

/-- The long form's short field must be zero (R85). -/
def shortZero (lit : Word) (short : Nat) : Bool := lit != 0 && short != 0

/-- A reserved field, or a reserved coded value, is nonzero (R86, R87, R274; subcode RSVD). -/
def rsvd : Instr → Bool
  | .add _ _ | .sub _ _ | .and _ _ | .or _ _ | .xor _ _ | .sll _ _ | .srl _ _ | .sra _ _ | .slt _ _
  | .sltu _ _ | .min _ _ | .max _ _ | .minu _ _ | .maxu _ _ | .mul _ _ | .mulh _ _ | .mulhu _ _
  | .div _ _ | .divu _ _ | .rem _ _ | .remu _ _ | .addsh _ _ | .bext _ _ | .bdep _ _ | .sel _ _
  | .ldvx _ | .stvx _ | .mscale _ | .npred _ | .vand _ _ | .vor _ _ | .vxor _ _ | .vsll _ _
  | .vsrl _ _ | .vsra _ _ | .vcmp _ _ | .vsel _ _ | .vext _ _ | .vperm _ _ | .vunpkbZx8 _ _ => false
  | .clz _ f | .ctz _ f | .popc _ f | .steal f | .qdepth f | .mmuls f | .mstore f | .ncheck f
  | .ctxload f | .vbcast _ f | .vexp2 _ f | .vrcp _ f | .vrsq _ f | .vlog2 _ f | .vpackb _ f
  | .vunpkb _ f | .pset _ f => f.w2 != 0 || f.rs2 != 0
  | .waitf f | .sigclr f | .regclr f | .retype f | .mldb f | .npcfg f => f.w2 != 0 || f.rs2 != 0 || f.rd != 0
  | .synci f | .tend f | .tabort f | .unrope f | .unbelay f | .mwait f | .tret f | .upcret f
  | .replayall f => f.w2 != 0 || f.w1 != 0 || f.rs2 != 0 || f.rs1 != 0 || f.rd != 0
  | .pref f | .invr f | .wbr f | .regset f | .wsclr f | .send f | .sendg f | .mgath f | .ctxsave f
  | .xinv f => f.rd != 0
  | .take f | .stealAny f | .qdepthIn f | .wfa f | .mstat f | .mmul f | .mclr f | .aclr _ f => f.w2 != 0 || f.w1 != 0 || f.rs2 != 0 || f.rs1 != 0
  | .vsllImm _ f | .vsrlImm _ f | .vsraImm _ f | .vred _ f => f.w2 != 0
  | .vidx _ f | .vidxI32 _ f => f.w1 != 0
  | .amovFromAcc _ f | .pand _ f | .por _ f | .pxor _ f => f.w2 != 0 || f.w1 != 0
  | .pnot _ f | .pcnt _ f | .pfirst _ f => f.w2 != 0 || f.w1 != 0 || f.rs2 != 0
  | .publ f => f.func != 6 || f.rd != 0
  | .fadd _ f | .fsub _ f | .fmul _ f | .fdiv _ f | .fma _ f | .fmin _ f | .fmax _ f | .fcmp _ f => f.func.toNat / 4 != 0
  | .fsqrt _ f | .fclass _ f => f.func.toNat / 4 != 0 || f.w2 != 0 || f.rs2 != 0
  | .vadd _ f | .vsub _ f | .vmul _ f | .vfma _ f | .vmac _ f | .vmin _ f | .vmax _ f => f.func.toNat / 2 != 0
  | .vabs _ f | .vneg _ f => f.func.toNat / 2 != 0 || f.w2 != 0 || f.rs2 != 0
  | .fcvt _ f => 
      f.w2 != 0 || f.rs2.toNat % 8 == 7 ||
      (f.func.toNat / 4 == 1 && f.rs2.toNat / 16 != 0) ||
      (f.func.toNat / 4 == 0 && f.rs2.toNat / 16 != 3 && f.rs2.toNat / 8 % 2 != 0)
  | .vcvt _ f => f.func == 7 || f.w2 != 0 || f.rs2.toNat / 16 % 2 != 0 || 12 < f.rs2.toNat % 16
  | .vnar _ f => f.func == 7 || f.w2 != 0 || f.w1 != 0 || 12 < f.rs2.toNat
  | .vnzc _ f | .vbmap _ f => f.w2 != 0 || 12 < f.rs2.toNat
  | .amovToAcc _ f => f.func.toNat < 2 && (f.w2 != 0 || f.rs2 != 0)
  | .addi _ f | .andi _ f | .ori _ f | .xori _ f | .slti _ f | .sltiu _ f | .jrl f => shortZero f.lit f.imm.toNat
  | .slli _ _ | .srli _ _ | .srai _ _ => false
  | .jr f => f.rd != 0 || shortZero f.lit f.imm.toNat
  | .li _ f | .lih _ f => shortZero f.lit f.imm.toNat
  | .prio f | .rope f | .ropeck f | .belay f | .trap f | .dbrk f => f.rd != 0
  | .br f => f.rd != 0 || shortZero f.lit f.off.toNat
  | .brl f => shortZero f.lit f.off.toNat
  | .bcEq f | .bcNe f | .bcLt f | .bcGe f | .bcLtu f | .bcGeu f => shortZero f.lit f.off.toNat
  | .bcz f => (f.vec == 1 && f.w1 != 0) || shortZero f.lit f.off.toNat
  | .loop f => f.ne != 0 || f.vec != 0 || shortZero f.lit f.off.toNat
  | .crrd f => f.zero != 0 || f.sc != 0 || f.w != 0
  | .crwr f => f.zero != 0 || f.sc != 0
  | .crsetb f | .crclrb f => f.zero != 0 || f.w != 0
  | .ldb f | .ldbu f | .ldh f | .ldhu f | .ldw f | .ldwu f | .ldd f | .ldv f => shortZero f.lit f.off.toNat
  | .stb f | .sth f | .stw f | .std f | .stv f => f.sp == 3 || shortZero f.lit f.off.toNat
  | .ldaq f => f.scope == 7 || shortZero f.lit f.off.toNat
  | .strl f => f.scope == 7 || shortZero f.lit f.off.toNat
  | .amoadd f | .amoand f | .amoor f | .amoxor f | .amomin f | .amomax f | .amominu f | .amomaxu f
  | .amoswp f | .amocas f | .amofadd f | .amoaddt f => f.scope == 7
  | .fence f => f.zero != 0 || f.scope == 7 || (f.mask == 0 && f.pt == 0)
  | .sbind f => f.zero != 0
  | .sunbind f => f.zero != 0 || f.eng != 0 || f.rs1 != 0
  | .cpy f | .cpy2 f | .cpym f | .cpyw f => f.sp == 3 || shortZero f.lit f.h.toNat
  | .cpyq f => f.h != 0 || f.sp != 0 || f.rlen != 0 || f.rsrc != 0
  | .spawn f => f.zero != 0
  | .spawnh f => f.zero != 0
  | .treel f => f.zero != 0
  | .gjoin f | .gleave f | .gtag f | .gbar f | .garrive f | .gwait f => f.zeroA != 0 || f.zeroB != 0
  | .semp f | .semv f => f.zero != 0 || f.rd != 0
  | .semtry f => f.zero != 0
  | .launchTreeMessage _ | .arrayCommandStart _ | .valueArrival _ _ _ | .refusal _ _ | .budget _ _
  | .enqueue _ | .retirement _ | .inboundDelivery _ | .upcallStart _ | .pageWalk _ _
  | .monitorRewalk _ | .transientTimeout _ | .persistentActivate _ _ | .copyComplete _ _
  | .belayGrant _ | .powerLeaveGrant _ _ | .limitChange _ _ _ | .preemptionRequest _
  | .preemptionLift _ | .consistentCut _ _ | .marker _ _ _ | .cutResume _ | .launchRecord _ _
  | .loadRecord _ _ | .releaseRecord _ _ | .hostRead _ _ _ | .hostWrite _ _ _ | .partitionCreate _
  | .partitionTeardown _ | .coldStart | .warmStart _ | .getVersion _ | .getCapabilities _
  | .negotiateAlgorithms _ | .getDigests _ | .getCertificate _ | .challenge _ _
  | .getMeasurements _ _ _ | .keyExchange _ _ | .finish _ _ | .endSession _
  | .vendorDefinedRequest _ _ | .halt _ | .resume _ | .debugRegisterWrite _ _ _ | .sampleTick _
  | .hbmReadError _ | .hbmRetry _ _ | .lifetimeFlush _ | .counterRead | .overlayFetch _ _
  | .unassignedBundle _ _ | .tdispRequest _ _ | .peerRequest _ | .pcieLinkDown _ | .dumpRequest _ => false

/-- The control-register numbers of R119; a home core lacks 0x041 to 0x046 and 0x050. -/
def crAssigned (home : Bool) (n : Nat) : Bool :=
  n ≤ 7 || (0x10 ≤ n && n ≤ 0x15) || (0x20 ≤ n && n ≤ 0x27) || n == 0x30 || n == 0x31 || n == 0x40 ||
  (!home && ((0x41 ≤ n && n ≤ 0x46) || n == 0x50)) || n == 0x60 || n == 0x70 || n == 0x71

/-- A v field names no vector register. -/
def badV (r : BitVec 6) : Bool := 32 ≤ r.toNat
/-- A p field names no predicate. -/
def badP (r : BitVec 6) : Bool := 16 ≤ r.toNat
/-- A p field cannot be a destination: p0 is never written (R274). -/
def badPd (r : BitVec 6) : Bool := 16 ≤ r.toNat || r == 0
/-- An acc field names no accumulator. -/
def badAcc (r : BitVec 6) : Bool := 8 ≤ r.toNat

/-- A register is outside its file, a constant outside the instruction's range, or a control
register number unassigned on this kind of core (R87, R104, R117-R119, R129, R274, R297; OPERAND). -/
def operandBad (home : Bool) : Instr → Bool
  | .slli _ f | .srli _ f | .srai _ f => 63 < f.imm.toNat
  | .bcz f => f.vec == 1 && (f.rs.toNat < 16 || 31 < f.rs.toNat)
  | .loop f => f.rs == 0
  | .crrd f | .crwr f | .crsetb f | .crclrb f => !crAssigned home f.crn.toNat
  | .waitf f => f.func == 1 && badV f.rs1
  | .fcvt _ f => f.func.toNat / 4 == 0 && f.rs2.toNat / 16 == f.func.toNat % 4
  | .ldv f => badV f.rd
  | .stv f => badV f.rs2
  | .ldvx f | .stvx f => badV f.rd || badV f.rs2
  | .sbind f => f.vd.toNat < 16 || 31 < f.vd.toNat || 56 < f.rs1.toNat
  | .sunbind f => f.vd.toNat < 16 || 31 < f.vd.toNat
  | .cpy2 f => 62 < f.rlen.toNat
  | .prio f => 3 < f.imm.toNat
  | .rope f => 255 < f.imm.toNat
  | .ropeck f => 15 < f.imm.toNat
  | .belay f => f.imm == 0 || 64 < f.imm.toNat
  | .trap f | .dbrk f => 65535 < f.imm.toNat
  | .mmul f | .mmuls f | .mstore f | .mclr f => 3 < f.rd.toNat
  | .mscale f => 1 < f.rd.toNat
  | .vadd _ f | .vsub _ f | .vmul _ f | .vfma _ f | .vmin _ f | .vmax _ f | .vand _ f | .vor _ f
  | .vxor _ f | .vsll _ f | .vsrl _ f | .vsra _ f | .vperm _ f | .vunpkbZx8 _ f => badV f.rs1 || badV f.rs2 || badV f.rd
  | .vsel _ f => badV f.rs1 || badV f.rs2 || badV f.rd
  | .vmac _ f => badV f.rs1 || badV f.rs2 || badAcc f.rd
  | .vabs _ f | .vneg _ f | .vexp2 _ f | .vrcp _ f | .vrsq _ f | .vlog2 _ f | .vpackb _ f
  | .vunpkb _ f => badV f.rs1 || badV f.rd
  | .vsllImm _ f | .vsrlImm _ f | .vsraImm _ f => badV f.rs1 || badV f.rd || 31 < f.rs2.toNat
  | .vcmp _ f => badV f.rs1 || badV f.rs2 || badPd f.rd
  | .vbcast _ f => badV f.rd
  | .vext _ f => badV f.rs1
  | .vred _ f => badV f.rs1 || badP f.rs2
  | .vcvt _ f => badV f.rs1 || badV f.rd ||
      (f.rs2.toNat / 32 == 0 && f.rs2.toNat % 16 == 0) || (f.rs2.toNat / 32 == 1 && f.rs2.toNat % 16 == 12)
  | .vnzc _ f => badV f.rs1
  | .vbmap _ f => badV f.rs1 || badPd f.rd
  | .vidx _ f | .vidxI32 _ f => badP f.rs1 || badV f.rd
  | .vnar _ f => badAcc f.rs1 || badV f.rd
  | .aclr _ f => badAcc f.rd
  | .amovToAcc _ f => badAcc f.rd || badV f.rs1 || (2 ≤ f.func.toNat && badV f.rs2)
  | .amovFromAcc _ f => badV f.rd || badAcc f.rs1 || 1 < f.rs2.toNat
  | .pand _ f | .por _ f | .pxor _ f => badP f.rs1 || badP f.rs2 || badPd f.rd
  | .pnot _ f => badP f.rs1 || badPd f.rd
  | .pcnt _ f | .pfirst _ f => badP f.rs1
  | .pset _ f => badPd f.rd
  | .add _ _ | .sub _ _ | .and _ _ | .or _ _ | .xor _ _ | .sll _ _ | .srl _ _ | .sra _ _ | .slt _ _
  | .sltu _ _ | .min _ _ | .max _ _ | .minu _ _ | .maxu _ _ | .mul _ _ | .mulh _ _ | .mulhu _ _
  | .div _ _ | .divu _ _ | .rem _ _ | .remu _ _ | .addsh _ _ | .clz _ _ | .ctz _ _ | .popc _ _
  | .bext _ _ | .bdep _ _ | .sel _ _ | .addi _ _ | .andi _ _ | .ori _ _ | .xori _ _ | .slti _ _
  | .sltiu _ _ | .li _ _ | .lih _ _ | .fadd _ _ | .fsub _ _ | .fmul _ _ | .fdiv _ _ | .fsqrt _ _
  | .fma _ _ | .fmin _ _ | .fmax _ _ | .fcmp _ _ | .fclass _ _ | .br _ | .brl _ | .jr _ | .jrl _
  | .bcEq _ | .bcNe _ | .bcLt _ | .bcGe _ | .bcLtu _ | .bcGeu _ | .synci _ | .ldb _ | .ldbu _
  | .ldh _ | .ldhu _ | .ldw _ | .ldwu _ | .ldd _ | .stb _ | .sth _ | .stw _ | .std _ | .ldaq _
  | .strl _ | .pref _ | .invr _ | .wbr _ | .amoadd _ | .amoand _ | .amoor _ | .amoxor _ | .amomin _
  | .amomax _ | .amominu _ | .amomaxu _ | .amoswp _ | .amocas _ | .amofadd _ | .amoaddt _ | .fence _
  | .sigclr _ | .regset _ | .regclr _ | .retype _ | .wsclr _ | .publ _ | .cpy _ | .cpym _ | .cpyw _
  | .cpyq _ | .spawn _ | .spawnh _ | .take _ | .steal _ | .stealAny _ | .tend _ | .tabort _
  | .qdepth _ | .qdepthIn _ | .send _ | .sendg _ | .gjoin _ | .gleave _ | .gtag _ | .gbar _
  | .garrive _ | .gwait _ | .treel _ | .wfa _ | .semp _ | .semv _ | .semtry _ | .unrope _
  | .unbelay _ | .mwait _ | .mstat _ | .mgath _ | .mldb _ | .npcfg _ | .npred _ | .ncheck _
  | .tret _ | .upcret _ | .ctxsave _ | .ctxload _ | .xinv _ | .replayall _ | .launchTreeMessage _
  | .arrayCommandStart _ | .valueArrival _ _ _ | .refusal _ _ | .budget _ _ | .enqueue _
  | .retirement _ | .inboundDelivery _ | .upcallStart _ | .pageWalk _ _ | .monitorRewalk _
  | .transientTimeout _ | .persistentActivate _ _ | .copyComplete _ _ | .belayGrant _
  | .powerLeaveGrant _ _ | .limitChange _ _ _ | .preemptionRequest _ | .preemptionLift _
  | .consistentCut _ _ | .marker _ _ _ | .cutResume _ | .launchRecord _ _ | .loadRecord _ _
  | .releaseRecord _ _ | .hostRead _ _ _ | .hostWrite _ _ _ | .partitionCreate _
  | .partitionTeardown _ | .coldStart | .warmStart _ | .getVersion _ | .getCapabilities _
  | .negotiateAlgorithms _ | .getDigests _ | .getCertificate _ | .challenge _ _
  | .getMeasurements _ _ _ | .keyExchange _ _ | .finish _ _ | .endSession _
  | .vendorDefinedRequest _ _ | .halt _ | .resume _ | .debugRegisterWrite _ _ _ | .sampleTick _
  | .hbmReadError _ | .hbmRetry _ _ | .lifetimeFlush _ | .counterRead | .overlayFetch _ _
  | .unassignedBundle _ _ | .tdispRequest _ _ | .peerRequest _ | .pcieLinkDown _ | .dumpRequest _ => false

/-- The literal of a lone bundle as the instruction holds it; `none` where it has no long form (R85). -/
def literal : Instr → Option Word
  | .addi _ f | .andi _ f | .ori _ f | .xori _ f | .slti _ f | .sltiu _ f | .li _ f | .lih _ f
  | .br f | .brl f | .jr f | .jrl f | .bcEq f | .bcNe f | .bcLt f | .bcGe f | .bcLtu f | .bcGeu f
  | .bcz f | .loop f | .ldb f | .ldbu f | .ldh f | .ldhu f | .ldw f | .ldwu f | .ldd f | .stb f
  | .sth f | .stw f | .std f | .ldaq f | .strl f | .ldv f | .stv f | .amoadd f | .amoand f
  | .amoor f | .amoxor f | .amomin f | .amomax f | .amominu f | .amomaxu f | .amoswp f | .amocas f
  | .amofadd f | .amoaddt f | .cpy f | .cpy2 f | .cpym f | .cpyw f | .spawnh f | .treel f => some f.lit
  | _ => none

/-- SPAWNH and TREEL have their operand only in the literal (R85): they must stand in a lone bundle. -/
def literalOnly : Instr → Bool
  | .spawnh _ | .treel _ => true
  | _ => false

/-- Bits of the literal that the format's long form marks zero (R86): C, H and TL formats. -/
def literalHigh : Instr → Bool
  | .cpy f | .cpy2 f | .cpym f | .cpyw f => 4096 ≤ f.lit.toNat
  | .spawnh f => 1024 ≤ f.lit.toNat
  | .treel f => 65536 ≤ f.lit.toNat
  | _ => false

/-- What the opcode maps fix beyond func (R86, R92): BR and JR are BRL and JRL with rd = 0, SC tells CRSETB from
CRCLRB, and a row with no long form holds no literal (R85). -/
def shapeOk : Instr → Bool
  | .brl f => f.rd != 0
  | .jrl f => f.rd != 0
  | .crsetb f => f.sc == 1
  | .crclrb f => f.sc == 0
  | .slli _ f | .srli _ f | .srai _ f => f.lit == 0
  | .prio f | .rope f | .ropeck f | .belay f | .trap f | .dbrk f => f.lit == 0
  | .cpyq f => f.lit == 0
  | _ => true

end Sys2Proof
end

