-- ==== Sys2Proof/WellFormed.lean ====
section
/-! DEFINITION. Well-formed instructions: what the decoder can produce on a core of the given kind, and
for an event, numbers that name a unit of the package (spec/00 R2, R4). -/

namespace Sys2Proof

/-- The numbers an event names exist (R2-R4): cores 0-767, contexts 0-7, slices 0-255, clusters 0-63,
dies 0-3, partitions 0-63. Mailboxes are the 65 functions' DOE mailboxes and the I3C port (R394). -/
def eventOk : Instr → Bool
  | .arrayCommandStart cluster | .belayGrant cluster | .copyComplete cluster _ => cluster < 64
  | .valueArrival core ctx _ | .refusal core ctx | .budget core ctx | .overlayFetch core ctx
  | .unassignedBundle core ctx => core < 768 && ctx < (if core < 512 then 8 else 4)
  | .inboundDelivery core | .upcallStart core | .preemptionRequest core | .preemptionLift core | .halt core
  | .resume core | .debugRegisterWrite core _ _ | .dumpRequest core => core < 768
  | .pageWalk slice _ | .monitorRewalk slice => slice < 256
  | .persistentActivate part _ | .consistentCut part _ | .marker part _ _ | .cutResume part
  | .launchRecord part _ | .loadRecord part _ | .releaseRecord part _ | .partitionTeardown part
  | .sampleTick part | .tdispRequest part _ => part < 64
  | .hostRead part va size => part < 64 && if va < 2 ^ 57 then va + size ≤ 2 ^ 57 else va + size ≤ 2 ^ 57 + 2 ^ 21
  | .hostWrite part va bytes => part < 64 && va + bytes.length ≤ 2 ^ 57
  | .powerLeaveGrant die kind => die < 4 && kind < 2
  | .limitChange die kind value => die < 4 && kind < 2 && value ≤ (if kind = 0 then 16 else 64)
  | .partitionCreate spec =>
    spec.part < 64 && !spec.clusters.isEmpty && !spec.slices.isEmpty &&
      spec.clusters.all (· < 64) && spec.slices.all (· < 256)
  | .getVersion m | .getCapabilities m | .negotiateAlgorithms m | .getDigests m | .getCertificate m
  | .challenge m _ | .getMeasurements m _ _ | .keyExchange m _ | .finish m _ | .endSession m
  | .vendorDefinedRequest m _ => m ≤ 65
  | _ => true

/-- Well-formed on a home core (`home = true`) or a far core. -/
def wellFormed (home : Bool) (i : Instr) : Bool :=
  funcOk i && !(home && farOnly i) && !rsvd i && !operandBad home i && !literalHigh i && shapeOk i && eventOk i

end Sys2Proof
end

