-- ==== Sys2Proof/Decode.lean ====
section
/-! DEFINITION. Decoding (spec/05 R82-R95), total on any words and rejecting by the ILL subcode that R90
reaches first, and the encoder written from the same tables. A body is read as a number `w`; the field of
width n at bit lo is `w / 2^lo` modulo 2^n. -/

namespace Sys2Proof

/-- The field of width `n` at bit `lo` of the body `w` (R86). -/
def fld (n lo w : Nat) : BitVec n := BitVec.ofNat n (w / 2 ^ lo)

/-- Reads the R format (R86). -/
def parseR (w : Nat) : FmtR :=
  ⟨fld 3 27 w, fld 1 26 w, fld 1 25 w, fld 6 19 w, fld 6 13 w, fld 6 7 w⟩
/-- Writes the R format under opcode `op` (R86). -/
def packR (op : Nat) (f : FmtR) : Nat :=
  op + f.rd.toNat * 128 + f.rs1.toNat * 8192 + f.rs2.toNat * 524288 + f.w1.toNat * 33554432 + f.w2.toNat * 67108864 + f.func.toNat * 134217728

/-- Reads the I format (R86). -/
def parseI (w : Nat) (lit : Word) : FmtI :=
  ⟨fld 10 20 w, fld 1 19 w, fld 6 13 w, fld 6 7 w, lit⟩
/-- Writes the I format under opcode `op` (R86). -/
def packI (op : Nat) (f : FmtI) : Nat :=
  op + f.rd.toNat * 128 + f.rs1.toNat * 8192 + f.w1.toNat * 524288 + f.imm.toNat * 1048576

/-- Reads the U format (R86). -/
def parseU (w : Nat) (lit : Word) : FmtU :=
  ⟨fld 17 13 w, fld 6 7 w, lit⟩
/-- Writes the U format under opcode `op` (R86). -/
def packU (op : Nat) (f : FmtU) : Nat :=
  op + f.rd.toNat * 128 + f.imm.toNat * 8192

/-- Reads the J format (R86). -/
def parseJ (w : Nat) (lit : Word) : FmtJ :=
  ⟨fld 17 13 w, fld 6 7 w, lit⟩
/-- Writes the J format under opcode `op` (R86). -/
def packJ (op : Nat) (f : FmtJ) : Nat :=
  op + f.rd.toNat * 128 + f.off.toNat * 8192

/-- Reads the B format (R86). -/
def parseB (w : Nat) (lit : Word) : FmtB :=
  ⟨fld 9 21 w, fld 1 20 w, fld 1 19 w, fld 6 13 w, fld 6 7 w, lit⟩
/-- Writes the B format under opcode `op` (R86). -/
def packB (op : Nat) (f : FmtB) : Nat :=
  op + f.rs2.toNat * 128 + f.rs1.toNat * 8192 + f.w1.toNat * 524288 + f.w2.toNat * 1048576 + f.off.toNat * 2097152

/-- Reads the Z format (R86). -/
def parseZ (w : Nat) (lit : Word) : FmtZ :=
  ⟨fld 14 16 w, fld 1 15 w, fld 1 14 w, fld 1 13 w, fld 6 7 w, lit⟩
/-- Writes the Z format under opcode `op` (R86). -/
def packZ (op : Nat) (f : FmtZ) : Nat :=
  op + f.rs.toNat * 128 + f.w1.toNat * 8192 + f.vec.toNat * 16384 + f.ne.toNat * 32768 + f.off.toNat * 65536

/-- Reads the L format (R86). -/
def parseL (w : Nat) (lit : Word) : FmtL :=
  ⟨fld 8 22 w, fld 2 20 w, fld 1 19 w, fld 6 13 w, fld 6 7 w, lit⟩
/-- Writes the L format under opcode `op` (R86). -/
def packL (op : Nat) (f : FmtL) : Nat :=
  op + f.rd.toNat * 128 + f.rs1.toNat * 8192 + f.w1.toNat * 524288 + f.sp.toNat * 1048576 + f.off.toNat * 4194304

/-- Reads the S format (R86). -/
def parseS (w : Nat) (lit : Word) : FmtS :=
  ⟨fld 7 23 w, fld 2 21 w, fld 1 20 w, fld 1 19 w, fld 6 13 w, fld 6 7 w, lit⟩
/-- Writes the S format under opcode `op` (R86). -/
def packS (op : Nat) (f : FmtS) : Nat :=
  op + f.rs2.toNat * 128 + f.rs1.toNat * 8192 + f.w1.toNat * 524288 + f.w2.toNat * 1048576 + f.sp.toNat * 2097152 + f.off.toNat * 8388608

/-- Reads the LA format (R86). -/
def parseLA (w : Nat) (lit : Word) : FmtLA :=
  ⟨fld 7 23 w, fld 3 20 w, fld 1 19 w, fld 6 13 w, fld 6 7 w, lit⟩
/-- Writes the LA format under opcode `op` (R86). -/
def packLA (op : Nat) (f : FmtLA) : Nat :=
  op + f.rd.toNat * 128 + f.rs1.toNat * 8192 + f.w1.toNat * 524288 + f.scope.toNat * 1048576 + f.off.toNat * 8388608

/-- Reads the SR format (R86). -/
def parseSR (w : Nat) (lit : Word) : FmtSR :=
  ⟨fld 6 24 w, fld 3 21 w, fld 1 20 w, fld 1 19 w, fld 6 13 w, fld 6 7 w, lit⟩
/-- Writes the SR format under opcode `op` (R86). -/
def packSR (op : Nat) (f : FmtSR) : Nat :=
  op + f.rs2.toNat * 128 + f.rs1.toNat * 8192 + f.w1.toNat * 524288 + f.w2.toNat * 1048576 + f.scope.toNat * 2097152 + f.off.toNat * 16777216

/-- Reads the AM format (R86). -/
def parseAM (w : Nat) (lit : Word) : FmtAM :=
  ⟨fld 3 27 w, fld 1 26 w, fld 1 25 w, fld 6 19 w, fld 6 13 w, fld 6 7 w, lit⟩
/-- Writes the AM format under opcode `op` (R86). -/
def packAM (op : Nat) (f : FmtAM) : Nat :=
  op + f.rd.toNat * 128 + f.rs1.toNat * 8192 + f.rs2.toNat * 524288 + f.w1.toNat * 33554432 + f.w2.toNat * 67108864 + f.scope.toNat * 134217728

/-- Reads the F format (R86). -/
def parseF (w : Nat) : FmtF :=
  ⟨fld 15 15 w, fld 1 14 w, fld 3 11 w, fld 4 7 w⟩
/-- Writes the F format under opcode `op` (R86). -/
def packF (op : Nat) (f : FmtF) : Nat :=
  op + f.mask.toNat * 128 + f.scope.toNat * 2048 + f.pt.toNat * 16384 + f.zero.toNat * 32768

/-- Reads the CR format (R86). -/
def parseCR (w : Nat) : FmtCR :=
  ⟨fld 3 27 w, fld 1 26 w, fld 1 25 w, fld 12 13 w, fld 6 7 w⟩
/-- Writes the CR format under opcode `op` (R86). -/
def packCR (op : Nat) (f : FmtCR) : Nat :=
  op + f.x.toNat * 128 + f.crn.toNat * 8192 + f.w.toNat * 33554432 + f.sc.toNat * 67108864 + f.zero.toNat * 134217728

/-- Reads the C format (R86). -/
def parseC (w : Nat) (lit : Word) : FmtC :=
  ⟨fld 3 27 w, fld 2 25 w, fld 6 19 w, fld 6 13 w, fld 6 7 w, lit⟩
/-- Writes the C format under opcode `op` (R86). -/
def packC (op : Nat) (f : FmtC) : Nat :=
  op + f.rdst.toNat * 128 + f.rsrc.toNat * 8192 + f.rlen.toNat * 524288 + f.sp.toNat * 33554432 + f.h.toNat * 134217728

/-- Reads the T format (R86). -/
def parseT (w : Nat) : FmtT :=
  ⟨fld 1 29 w, fld 10 19 w, fld 6 13 w, fld 6 7 w⟩
/-- Writes the T format under opcode `op` (R86). -/
def packT (op : Nat) (f : FmtT) : Nat :=
  op + f.rl.toNat * 128 + f.rb.toNat * 8192 + f.body.toNat * 524288 + f.zero.toNat * 536870912

/-- Reads the H format (R86). -/
def parseH (w : Nat) (lit : Word) : FmtH :=
  ⟨fld 5 25 w, fld 6 19 w, fld 6 13 w, fld 6 7 w, lit⟩
/-- Writes the H format under opcode `op` (R86). -/
def packH (op : Nat) (f : FmtH) : Nat :=
  op + f.rl.toNat * 128 + f.rb.toNat * 8192 + f.rt.toNat * 524288 + f.zero.toNat * 33554432

/-- Reads the TL format (R86). -/
def parseTL (w : Nat) (lit : Word) : FmtTL :=
  ⟨fld 9 21 w, fld 8 13 w, fld 6 7 w, lit⟩
/-- Writes the TL format under opcode `op` (R86). -/
def packTL (op : Nat) (f : FmtTL) : Nat :=
  op + f.rap.toNat * 128 + f.group.toNat * 8192 + f.zero.toNat * 2097152

/-- Reads the G format (R86). -/
def parseG (w : Nat) : FmtG :=
  ⟨fld 3 27 w, fld 6 21 w, fld 8 13 w, fld 6 7 w⟩
/-- Writes the G format under opcode `op` (R86). -/
def packG (op : Nat) (f : FmtG) : Nat :=
  op + f.zeroB.toNat * 128 + f.group.toNat * 8192 + f.zeroA.toNat * 2097152 + f.func.toNat * 134217728

/-- Reads the Q format (R86). -/
def parseQ (w : Nat) : FmtQ :=
  ⟨fld 3 27 w, fld 8 19 w, fld 6 13 w, fld 6 7 w⟩
/-- Writes the Q format under opcode `op` (R86). -/
def packQ (op : Nat) (f : FmtQ) : Nat :=
  op + f.rd.toNat * 128 + f.sem.toNat * 8192 + f.zero.toNat * 524288 + f.func.toNat * 134217728

/-- Reads the SB format (R86). -/
def parseSB (w : Nat) : FmtSB :=
  ⟨fld 8 22 w, fld 3 19 w, fld 6 13 w, fld 6 7 w⟩
/-- Writes the SB format under opcode `op` (R86). -/
def packSB (op : Nat) (f : FmtSB) : Nat :=
  op + f.vd.toNat * 128 + f.rs1.toNat * 8192 + f.eng.toNat * 524288 + f.zero.toNat * 4194304

/-- The C-class opcode map (R92): the instruction a body names; `none` where the opcode or func is
unassigned (ENC). -/
def buildC (w : Nat) (lit : Word) : Option Instr :=
  match w % 128 with
  | 1 => if w / 128 % 64 = 0 then some (.br (parseJ w lit)) else some (.brl (parseJ w lit))
  | 2 => if w / 128 % 64 = 0 then some (.jr (parseI w lit)) else some (.jrl (parseI w lit))
  | 3 => some (.bcEq (parseB w lit))
  | 4 => some (.bcNe (parseB w lit))
  | 5 => some (.bcLt (parseB w lit))
  | 6 => some (.bcGe (parseB w lit))
  | 7 => some (.bcLtu (parseB w lit))
  | 8 => some (.bcGeu (parseB w lit))
  | 9 => some (.bcz (parseZ w lit))
  | 10 => some (.loop (parseZ w lit))
  | 11 => some (.crrd (parseCR w))
  | 12 => some (.crwr (parseCR w))
  | 13 => if w / 67108864 % 2 = 1 then some (.crsetb (parseCR w)) else some (.crclrb (parseCR w))
  | 14 => some (.waitf (parseR w))
  | 15 => some (.synci (parseR w))
  | 16 => some (.ldb (parseL w lit))
  | 17 => some (.ldbu (parseL w lit))
  | 18 => some (.ldh (parseL w lit))
  | 19 => some (.ldhu (parseL w lit))
  | 20 => some (.ldw (parseL w lit))
  | 21 => some (.ldwu (parseL w lit))
  | 22 => some (.ldd (parseL w lit))
  | 24 => some (.stb (parseS w lit))
  | 25 => some (.sth (parseS w lit))
  | 26 => some (.stw (parseS w lit))
  | 27 => some (.std (parseS w lit))
  | 28 => some (.ldaq (parseLA w lit))
  | 29 => some (.strl (parseSR w lit))
  | 30 => some (.ldv (parseL w lit))
  | 31 => some (.stv (parseS w lit))
  | 32 => some (.ldvx (parseR w))
  | 33 => some (.stvx (parseR w))
  | 34 => some (.pref (parseR w))
  | 35 => some (.invr (parseR w))
  | 36 => some (.wbr (parseR w))
  | 48 => some (.amoadd (parseAM w lit))
  | 49 => some (.amoand (parseAM w lit))
  | 50 => some (.amoor (parseAM w lit))
  | 51 => some (.amoxor (parseAM w lit))
  | 52 => some (.amomin (parseAM w lit))
  | 53 => some (.amomax (parseAM w lit))
  | 54 => some (.amominu (parseAM w lit))
  | 55 => some (.amomaxu (parseAM w lit))
  | 56 => some (.amoswp (parseAM w lit))
  | 57 => some (.amocas (parseAM w lit))
  | 58 => some (.amofadd (parseAM w lit))
  | 59 => some (.amoaddt (parseAM w lit))
  | 64 => some (.fence (parseF w))
  | 65 => some (.sigclr (parseR w))
  | 66 => some (.regset (parseR w))
  | 67 => some (.regclr (parseR w))
  | 68 => some (.retype (parseR w))
  | 69 => some (.wsclr (parseR w))
  | 70 => some (.publ (parseR w))
  | 71 => some (.sbind (parseSB w))
  | 72 => some (.sunbind (parseSB w))
  | 80 => some (.cpy (parseC w lit))
  | 81 => some (.cpy2 (parseC w lit))
  | 82 => some (.cpym (parseC w lit))
  | 83 => some (.cpyw (parseC w lit))
  | 84 => some (.cpyq (parseC w lit))
  | 96 => some (.spawn (parseT w))
  | 97 => some (.spawnh (parseH w lit))
  | 98 =>
    match w / 134217728 % 8 with
    | 0 => some (.take (parseR w))
    | 1 => some (.steal (parseR w))
    | 2 => some (.stealAny (parseR w))
    | _ => none
  | 99 =>
    match w / 134217728 % 8 with
    | 0 => some (.tend (parseR w))
    | 1 => some (.tabort (parseR w))
    | _ => none
  | 100 =>
    match w / 134217728 % 8 with
    | 0 => some (.qdepth (parseR w))
    | 1 => some (.qdepthIn (parseR w))
    | _ => none
  | 101 => some (.send (parseR w))
  | 102 => some (.sendg (parseR w))
  | 103 =>
    match w / 134217728 % 8 with
    | 0 => some (.gjoin (parseG w))
    | 1 => some (.gleave (parseG w))
    | 2 => some (.gtag (parseG w))
    | 3 => some (.gbar (parseG w))
    | 4 => some (.garrive (parseG w))
    | 5 => some (.gwait (parseG w))
    | _ => none
  | 104 => some (.treel (parseTL w lit))
  | 105 =>
    match w / 134217728 % 8 with
    | 0 => some (.semp (parseQ w))
    | 1 => some (.semv (parseQ w))
    | 2 => some (.semtry (parseQ w))
    | _ => none
  | 106 => some (.prio (parseU w lit))
  | 107 => some (.rope (parseU w lit))
  | 108 => some (.unrope (parseR w))
  | 109 => some (.ropeck (parseU w lit))
  | 110 => some (.wfa (parseR w))
  | 112 => some (.belay (parseU w lit))
  | 113 =>
    match w / 134217728 % 8 with
    | 0 => some (.unbelay (parseR w))
    | 1 => some (.mwait (parseR w))
    | 2 => some (.mstat (parseR w))
    | _ => none
  | 114 => some (.mgath (parseR w))
  | 115 => some (.mldb (parseR w))
  | 116 =>
    match w / 134217728 % 8 with
    | 0 => some (.mmul (parseR w))
    | 1 => some (.mmuls (parseR w))
    | 2 => some (.mscale (parseR w))
    | 3 => some (.mstore (parseR w))
    | 4 => some (.mclr (parseR w))
    | _ => none
  | 117 => some (.npcfg (parseR w))
  | 118 => some (.npred (parseR w))
  | 119 => some (.ncheck (parseR w))
  | 120 => some (.trap (parseU w lit))
  | 121 => some (.tret (parseR w))
  | 122 => some (.upcret (parseR w))
  | 123 => some (.ctxsave (parseR w))
  | 124 => some (.ctxload (parseR w))
  | 125 => some (.xinv (parseR w))
  | 126 => some (.replayall (parseR w))
  | 127 => some (.dbrk (parseU w lit))
  | _ => none

/-- The A-class opcode map (R93): the instruction a body names; `none` where the opcode or func is
unassigned (ENC). -/
def buildA (w : Nat) (lit : Word) (gp : BitVec 2) : Option Instr :=
  match w % 128 with
  | 0 =>
    match w / 134217728 % 8 with
    | 0 => some (.add gp (parseR w))
    | 1 => some (.sub gp (parseR w))
    | 2 => some (.and gp (parseR w))
    | 3 => some (.or gp (parseR w))
    | 4 => some (.xor gp (parseR w))
    | 5 => some (.sll gp (parseR w))
    | 6 => some (.srl gp (parseR w))
    | 7 => some (.sra gp (parseR w))
    | _ => none
  | 1 =>
    match w / 134217728 % 8 with
    | 0 => some (.slt gp (parseR w))
    | 1 => some (.sltu gp (parseR w))
    | 2 => some (.min gp (parseR w))
    | 3 => some (.max gp (parseR w))
    | 4 => some (.minu gp (parseR w))
    | 5 => some (.maxu gp (parseR w))
    | _ => none
  | 2 =>
    match w / 134217728 % 8 with
    | 0 => some (.mul gp (parseR w))
    | 1 => some (.mulh gp (parseR w))
    | 2 => some (.mulhu gp (parseR w))
    | 3 => some (.div gp (parseR w))
    | 4 => some (.divu gp (parseR w))
    | 5 => some (.rem gp (parseR w))
    | 6 => some (.remu gp (parseR w))
    | _ => none
  | 3 => some (.addsh gp (parseR w))
  | 4 =>
    match w / 134217728 % 8 with
    | 0 => some (.clz gp (parseR w))
    | 1 => some (.ctz gp (parseR w))
    | 2 => some (.popc gp (parseR w))
    | 3 => some (.bext gp (parseR w))
    | 4 => some (.bdep gp (parseR w))
    | _ => none
  | 5 => some (.sel gp (parseR w))
  | 8 => some (.addi gp (parseI w lit))
  | 9 => some (.andi gp (parseI w lit))
  | 10 => some (.ori gp (parseI w lit))
  | 11 => some (.xori gp (parseI w lit))
  | 12 => some (.slli gp (parseI w lit))
  | 13 => some (.srli gp (parseI w lit))
  | 14 => some (.srai gp (parseI w lit))
  | 15 => some (.slti gp (parseI w lit))
  | 16 => some (.sltiu gp (parseI w lit))
  | 17 => some (.li gp (parseU w lit))
  | 18 => some (.lih gp (parseU w lit))
  | 48 => some (.fadd gp (parseR w))
  | 49 => some (.fsub gp (parseR w))
  | 50 => some (.fmul gp (parseR w))
  | 51 => some (.fdiv gp (parseR w))
  | 52 => some (.fsqrt gp (parseR w))
  | 53 => some (.fma gp (parseR w))
  | 54 => some (.fmin gp (parseR w))
  | 55 => some (.fmax gp (parseR w))
  | 56 => some (.fcmp gp (parseR w))
  | 57 => some (.fclass gp (parseR w))
  | 58 => some (.fcvt gp (parseR w))
  | 64 => some (.vadd gp (parseR w))
  | 65 => some (.vsub gp (parseR w))
  | 66 => some (.vmul gp (parseR w))
  | 67 => some (.vfma gp (parseR w))
  | 68 => some (.vmac gp (parseR w))
  | 69 => some (.vmin gp (parseR w))
  | 70 => some (.vmax gp (parseR w))
  | 71 => some (.vabs gp (parseR w))
  | 72 => some (.vneg gp (parseR w))
  | 73 => some (.vand gp (parseR w))
  | 74 => some (.vor gp (parseR w))
  | 75 => some (.vxor gp (parseR w))
  | 76 =>
    match w / 134217728 % 8 with
    | 0 => some (.vsll gp (parseR w))
    | 1 => some (.vsllImm gp (parseR w))
    | _ => none
  | 77 =>
    match w / 134217728 % 8 with
    | 0 => some (.vsrl gp (parseR w))
    | 1 => some (.vsrlImm gp (parseR w))
    | _ => none
  | 78 =>
    match w / 134217728 % 8 with
    | 0 => some (.vsra gp (parseR w))
    | 1 => some (.vsraImm gp (parseR w))
    | _ => none
  | 79 => some (.vcmp gp (parseR w))
  | 80 => some (.vsel gp (parseR w))
  | 81 => some (.vbcast gp (parseR w))
  | 82 => some (.vext gp (parseR w))
  | 83 => some (.vred gp (parseR w))
  | 84 => some (.vperm gp (parseR w))
  | 85 => some (.vcvt gp (parseR w))
  | 86 => some (.vexp2 gp (parseR w))
  | 87 => some (.vrcp gp (parseR w))
  | 88 => some (.vrsq gp (parseR w))
  | 89 => some (.vlog2 gp (parseR w))
  | 90 => some (.vnzc gp (parseR w))
  | 91 => some (.vbmap gp (parseR w))
  | 92 => some (.vpackb gp (parseR w))
  | 93 => if w / 134217728 % 8 = 4 then some (.vunpkbZx8 gp (parseR w)) else some (.vunpkb gp (parseR w))
  | 94 =>
    match w / 134217728 % 8 with
    | 0 => some (.vidx gp (parseR w))
    | 1 => some (.vidxI32 gp (parseR w))
    | _ => none
  | 95 => some (.vnar gp (parseR w))
  | 112 => some (.aclr gp (parseR w))
  | 113 => if w / 536870912 % 2 = 0 then some (.amovToAcc gp (parseR w)) else some (.amovFromAcc gp (parseR w))
  | 114 => some (.pand gp (parseR w))
  | 115 => some (.por gp (parseR w))
  | 116 => some (.pxor gp (parseR w))
  | 117 => some (.pnot gp (parseR w))
  | 118 => some (.pcnt gp (parseR w))
  | 119 => some (.pfirst gp (parseR w))
  | 120 => some (.pset gp (parseR w))
  | _ => none

/-- ILL subcodes of R91. -/
inductive IllSub where
  | enc | rsvd | notHere | operand | longw | pair | pairdest | state
  deriving DecidableEq, Repr

/-- The subcode's number (R91). -/
def IllSub.code : IllSub → Nat
  | .enc => 0 | .rsvd => 1 | .notHere => 2 | .operand => 3 | .longw => 4 | .pair => 5
  | .pairdest => 6 | .state => 7

/-- The checks of R90's Decode after the opcode has been found, in R90's order. `lone` says whether
word 1 is the literal (DEDUCED, log 63; DEDUCED, log 106). -/
def checkInstr (home lone : Bool) (lit : Word) (i : Instr) : Except IllSub Instr :=
  if !funcOk i then .error .enc
  else if home && farOnly i then .error .notHere
  else if rsvd i || literalHigh i then .error .rsvd
  else if operandBad home i then .error .operand
  else if (literalOnly i && !lone) || (lit != 0 && (literal i).isNone) then .error .longw
  else .ok i

/-- Decode of a C-class body; `lit` is 0 in a paired bundle (R90) (DEDUCED, log 106). -/
def decodeC (home lone : Bool) (w : Nat) (lit : Word) : Except IllSub Instr :=
  match buildC w lit with
  | none => .error .enc
  | some i => checkInstr home lone lit i

/-- Decode of an A-class body under governing predicate `gp` (R90). -/
def decodeA (home lone : Bool) (w : Nat) (lit : Word) (gp : BitVec 2) : Except IllSub Instr :=
  match buildA w lit gp with
  | none => .error .enc
  | some i => checkInstr home lone lit i

/-- A decoded bundle (R82). -/
inductive Bundle where
  | lone (i : Instr)
  | pair (c a : Instr)
  deriving DecidableEq, Repr

/-- What a refused bundle traps with: the subcode, the 32-bit word in which decoding failed and its
number (R91). -/
structure IllInfo where
  sub  : IllSub
  hw   : Nat
  word : Nat
  deriving DecidableEq, Repr

/-- Reads the bundle of word 0 `w0` and word 1 `w1` (R82, R90), on a home core or a far core (DESIGN CHOICE, log 118). -/
def decodeBundle (home : Bool) (w0 w1 : Nat) : Except IllInfo Bundle :=
  if w0 / 2147483648 % 2 = 0 then
    if w0 / 1073741824 % 2 = 1 then .error ⟨.pair, w0, 0⟩
    else
      match decodeC home false w0 0 with
      | .error e => .error ⟨e, w0, 0⟩
      | .ok c =>
        match decodeA home false w1 0 (fld 2 30 w1) with
        | .error e => .error ⟨e, w1, 1⟩
        | .ok a => .ok (.pair c a)
  else if w0 / 1073741824 % 2 = 0 then
    match decodeC home true w0 (BitVec.ofNat 32 w1) with
    | .error e => .error ⟨e, w0, 0⟩
    | .ok i => .ok (.lone i)
  else
    match decodeA home true w0 (BitVec.ofNat 32 w1) 0 with
    | .error e => .error ⟨e, w0, 0⟩
    | .ok i => .ok (.lone i)

/-- The body of a bundle instruction, bits [29:0] (R86, R92, R93); 0 for an event, which has no encoding. -/
def encodeBody : Instr → Nat
  | .add _ f => packR 0 f
  | .sub _ f => packR 0 f
  | .and _ f => packR 0 f
  | .or _ f => packR 0 f
  | .xor _ f => packR 0 f
  | .sll _ f => packR 0 f
  | .srl _ f => packR 0 f
  | .sra _ f => packR 0 f
  | .slt _ f => packR 1 f
  | .sltu _ f => packR 1 f
  | .min _ f => packR 1 f
  | .max _ f => packR 1 f
  | .minu _ f => packR 1 f
  | .maxu _ f => packR 1 f
  | .mul _ f => packR 2 f
  | .mulh _ f => packR 2 f
  | .mulhu _ f => packR 2 f
  | .div _ f => packR 2 f
  | .divu _ f => packR 2 f
  | .rem _ f => packR 2 f
  | .remu _ f => packR 2 f
  | .addsh _ f => packR 3 f
  | .clz _ f => packR 4 f
  | .ctz _ f => packR 4 f
  | .popc _ f => packR 4 f
  | .bext _ f => packR 4 f
  | .bdep _ f => packR 4 f
  | .sel _ f => packR 5 f
  | .addi _ f => packI 8 f
  | .andi _ f => packI 9 f
  | .ori _ f => packI 10 f
  | .xori _ f => packI 11 f
  | .slli _ f => packI 12 f
  | .srli _ f => packI 13 f
  | .srai _ f => packI 14 f
  | .slti _ f => packI 15 f
  | .sltiu _ f => packI 16 f
  | .li _ f => packU 17 f
  | .lih _ f => packU 18 f
  | .fadd _ f => packR 48 f
  | .fsub _ f => packR 49 f
  | .fmul _ f => packR 50 f
  | .fdiv _ f => packR 51 f
  | .fsqrt _ f => packR 52 f
  | .fma _ f => packR 53 f
  | .fmin _ f => packR 54 f
  | .fmax _ f => packR 55 f
  | .fcmp _ f => packR 56 f
  | .fclass _ f => packR 57 f
  | .fcvt _ f => packR 58 f
  | .br f => packJ 1 f
  | .brl f => packJ 1 f
  | .jr f => packI 2 f
  | .jrl f => packI 2 f
  | .bcEq f => packB 3 f
  | .bcNe f => packB 4 f
  | .bcLt f => packB 5 f
  | .bcGe f => packB 6 f
  | .bcLtu f => packB 7 f
  | .bcGeu f => packB 8 f
  | .bcz f => packZ 9 f
  | .loop f => packZ 10 f
  | .crrd f => packCR 11 f
  | .crwr f => packCR 12 f
  | .crsetb f => packCR 13 f
  | .crclrb f => packCR 13 f
  | .waitf f => packR 14 f
  | .synci f => packR 15 f
  | .ldb f => packL 16 f
  | .ldbu f => packL 17 f
  | .ldh f => packL 18 f
  | .ldhu f => packL 19 f
  | .ldw f => packL 20 f
  | .ldwu f => packL 21 f
  | .ldd f => packL 22 f
  | .stb f => packS 24 f
  | .sth f => packS 25 f
  | .stw f => packS 26 f
  | .std f => packS 27 f
  | .ldaq f => packLA 28 f
  | .strl f => packSR 29 f
  | .ldv f => packL 30 f
  | .stv f => packS 31 f
  | .ldvx f => packR 32 f
  | .stvx f => packR 33 f
  | .pref f => packR 34 f
  | .invr f => packR 35 f
  | .wbr f => packR 36 f
  | .amoadd f => packAM 48 f
  | .amoand f => packAM 49 f
  | .amoor f => packAM 50 f
  | .amoxor f => packAM 51 f
  | .amomin f => packAM 52 f
  | .amomax f => packAM 53 f
  | .amominu f => packAM 54 f
  | .amomaxu f => packAM 55 f
  | .amoswp f => packAM 56 f
  | .amocas f => packAM 57 f
  | .amofadd f => packAM 58 f
  | .amoaddt f => packAM 59 f
  | .fence f => packF 64 f
  | .sigclr f => packR 65 f
  | .regset f => packR 66 f
  | .regclr f => packR 67 f
  | .retype f => packR 68 f
  | .wsclr f => packR 69 f
  | .publ f => packR 70 f
  | .sbind f => packSB 71 f
  | .sunbind f => packSB 72 f
  | .cpy f => packC 80 f
  | .cpy2 f => packC 81 f
  | .cpym f => packC 82 f
  | .cpyw f => packC 83 f
  | .cpyq f => packC 84 f
  | .spawn f => packT 96 f
  | .spawnh f => packH 97 f
  | .take f => packR 98 f
  | .steal f => packR 98 f
  | .stealAny f => packR 98 f
  | .tend f => packR 99 f
  | .tabort f => packR 99 f
  | .qdepth f => packR 100 f
  | .qdepthIn f => packR 100 f
  | .send f => packR 101 f
  | .sendg f => packR 102 f
  | .gjoin f => packG 103 f
  | .gleave f => packG 103 f
  | .gtag f => packG 103 f
  | .gbar f => packG 103 f
  | .garrive f => packG 103 f
  | .gwait f => packG 103 f
  | .treel f => packTL 104 f
  | .wfa f => packR 110 f
  | .semp f => packQ 105 f
  | .semv f => packQ 105 f
  | .semtry f => packQ 105 f
  | .prio f => packU 106 f
  | .rope f => packU 107 f
  | .unrope f => packR 108 f
  | .ropeck f => packU 109 f
  | .belay f => packU 112 f
  | .unbelay f => packR 113 f
  | .mwait f => packR 113 f
  | .mstat f => packR 113 f
  | .mgath f => packR 114 f
  | .mldb f => packR 115 f
  | .mmul f => packR 116 f
  | .mmuls f => packR 116 f
  | .mscale f => packR 116 f
  | .mstore f => packR 116 f
  | .mclr f => packR 116 f
  | .npcfg f => packR 117 f
  | .npred f => packR 118 f
  | .ncheck f => packR 119 f
  | .trap f => packU 120 f
  | .tret f => packR 121 f
  | .upcret f => packR 122 f
  | .ctxsave f => packR 123 f
  | .ctxload f => packR 124 f
  | .xinv f => packR 125 f
  | .replayall f => packR 126 f
  | .dbrk f => packU 127 f
  | .vadd _ f => packR 64 f
  | .vsub _ f => packR 65 f
  | .vmul _ f => packR 66 f
  | .vfma _ f => packR 67 f
  | .vmac _ f => packR 68 f
  | .vmin _ f => packR 69 f
  | .vmax _ f => packR 70 f
  | .vabs _ f => packR 71 f
  | .vneg _ f => packR 72 f
  | .vand _ f => packR 73 f
  | .vor _ f => packR 74 f
  | .vxor _ f => packR 75 f
  | .vsll _ f => packR 76 f
  | .vsllImm _ f => packR 76 f
  | .vsrl _ f => packR 77 f
  | .vsrlImm _ f => packR 77 f
  | .vsra _ f => packR 78 f
  | .vsraImm _ f => packR 78 f
  | .vcmp _ f => packR 79 f
  | .vsel _ f => packR 80 f
  | .vbcast _ f => packR 81 f
  | .vext _ f => packR 82 f
  | .vred _ f => packR 83 f
  | .vperm _ f => packR 84 f
  | .vcvt _ f => packR 85 f
  | .vexp2 _ f => packR 86 f
  | .vrcp _ f => packR 87 f
  | .vrsq _ f => packR 88 f
  | .vlog2 _ f => packR 89 f
  | .vnzc _ f => packR 90 f
  | .vbmap _ f => packR 91 f
  | .vpackb _ f => packR 92 f
  | .vunpkb _ f => packR 93 f
  | .vunpkbZx8 _ f => packR 93 f
  | .vidx _ f => packR 94 f
  | .vidxI32 _ f => packR 94 f
  | .vnar _ f => packR 95 f
  | .aclr _ f => packR 112 f
  | .amovToAcc _ f => packR 113 f
  | .amovFromAcc _ f => packR 113 f
  | .pand _ f => packR 114 f
  | .por _ f => packR 115 f
  | .pxor _ f => packR 116 f
  | .pnot _ f => packR 117 f
  | .pcnt _ f => packR 118 f
  | .pfirst _ f => packR 119 f
  | .pset _ f => packR 120 f
  | _ => 0

/-- The class bit of a bundle instruction (R82): true for A-class. -/
def isA : Instr → Bool
  | .add _ _ | .sub _ _ | .and _ _ | .or _ _ | .xor _ _ | .sll _ _ | .srl _ _ | .sra _ _
  | .slt _ _ | .sltu _ _ | .min _ _ | .max _ _ | .minu _ _ | .maxu _ _ | .mul _ _ | .mulh _ _
  | .mulhu _ _ | .div _ _ | .divu _ _ | .rem _ _ | .remu _ _ | .addsh _ _ | .clz _ _ | .ctz _ _
  | .popc _ _ | .bext _ _ | .bdep _ _ | .sel _ _ | .addi _ _ | .andi _ _ | .ori _ _ | .xori _ _
  | .slli _ _ | .srli _ _ | .srai _ _ | .slti _ _ | .sltiu _ _ | .li _ _ | .lih _ _ | .fadd _ _
  | .fsub _ _ | .fmul _ _ | .fdiv _ _ | .fsqrt _ _ | .fma _ _ | .fmin _ _ | .fmax _ _
  | .fcmp _ _ | .fclass _ _ | .fcvt _ _ | .vadd _ _ | .vsub _ _ | .vmul _ _ | .vfma _ _
  | .vmac _ _ | .vmin _ _ | .vmax _ _ | .vabs _ _ | .vneg _ _ | .vand _ _ | .vor _ _
  | .vxor _ _ | .vsll _ _ | .vsllImm _ _ | .vsrl _ _ | .vsrlImm _ _ | .vsra _ _ | .vsraImm _ _
  | .vcmp _ _ | .vsel _ _ | .vbcast _ _ | .vext _ _ | .vred _ _ | .vperm _ _ | .vcvt _ _
  | .vexp2 _ _ | .vrcp _ _ | .vrsq _ _ | .vlog2 _ _ | .vnzc _ _ | .vbmap _ _ | .vpackb _ _
  | .vunpkb _ _ | .vunpkbZx8 _ _ | .vidx _ _ | .vidxI32 _ _ | .vnar _ _ | .aclr _ _
  | .amovToAcc _ _ | .amovFromAcc _ _ | .pand _ _ | .por _ _ | .pxor _ _ | .pnot _ _
  | .pcnt _ _ | .pfirst _ _ | .pset _ _ => true
  | _ => false

/-- The two words of the lone bundle that holds `i` (R82, R85): LONE = 1, CLASS, the body, and the
literal (DESIGN CHOICE, log 118). -/
def encode (i : Instr) : Nat × Nat :=
  (2147483648 + (if isA i then 1073741824 else 0) + encodeBody i, ((literal i).getD 0).toNat)

/-- The governing predicate of an A-class instruction (R82, R83). -/
def gpOf : Instr → BitVec 2
  | .add gp _ | .sub gp _ | .and gp _ | .or gp _ | .xor gp _ | .sll gp _ | .srl gp _
  | .sra gp _ | .slt gp _ | .sltu gp _ | .min gp _ | .max gp _ | .minu gp _ | .maxu gp _
  | .mul gp _ | .mulh gp _ | .mulhu gp _ | .div gp _ | .divu gp _ | .rem gp _ | .remu gp _
  | .addsh gp _ | .clz gp _ | .ctz gp _ | .popc gp _ | .bext gp _ | .bdep gp _ | .sel gp _
  | .addi gp _ | .andi gp _ | .ori gp _ | .xori gp _ | .slli gp _ | .srli gp _ | .srai gp _
  | .slti gp _ | .sltiu gp _ | .li gp _ | .lih gp _ | .fadd gp _ | .fsub gp _ | .fmul gp _
  | .fdiv gp _ | .fsqrt gp _ | .fma gp _ | .fmin gp _ | .fmax gp _ | .fcmp gp _ | .fclass gp _
  | .fcvt gp _ | .vadd gp _ | .vsub gp _ | .vmul gp _ | .vfma gp _ | .vmac gp _ | .vmin gp _
  | .vmax gp _ | .vabs gp _ | .vneg gp _ | .vand gp _ | .vor gp _ | .vxor gp _ | .vsll gp _
  | .vsllImm gp _ | .vsrl gp _ | .vsrlImm gp _ | .vsra gp _ | .vsraImm gp _ | .vcmp gp _
  | .vsel gp _ | .vbcast gp _ | .vext gp _ | .vred gp _ | .vperm gp _ | .vcvt gp _
  | .vexp2 gp _ | .vrcp gp _ | .vrsq gp _ | .vlog2 gp _ | .vnzc gp _ | .vbmap gp _
  | .vpackb gp _ | .vunpkb gp _ | .vunpkbZx8 gp _ | .vidx gp _ | .vidxI32 gp _ | .vnar gp _
  | .aclr gp _ | .amovToAcc gp _ | .amovFromAcc gp _ | .pand gp _ | .por gp _ | .pxor gp _
  | .pnot gp _ | .pcnt gp _ | .pfirst gp _ | .pset gp _ => gp
  | _ => 0

/-- The two words of the paired bundle of a C-class `c` and an A-class `a` (R82). -/
def encodePair (c a : Instr) : Nat × Nat :=
  (encodeBody c, (gpOf a).toNat * 1073741824 + encodeBody a)

/-- The two words in which the decoder meets a table row's word `w` of `nbits` bits: as word 0 of a
bundle, word 1 zero; where word 0 with those bits decodes to no bundle, as word 1 beside the C-class `BR .+8`
(an A-class row's bits [31:30] are GP, which only word 1 of a paired bundle holds, R82) (DEDUCED, log 7). -/
def tableWords (nbits w : Nat) : Nat × Nat :=
  let w0 := w % 2 ^ min nbits 32
  let w1 := w % 2 ^ nbits / 4294967296
  match decodeBundle false w0 w1 with
  | .ok _ => (w0, w1)
  | .error _ =>
    if w1 = 0 then (8193, w0) else (w0, w1)

/-- The instruction this decoder reads from an instruction whose bits are `w`, numbered as the opcode
table numbers them, on a far core: the C-class half, or the lone instruction, of word 0; or the A-class half
of word 1 where `tableWords` puts the word there (DEDUCED, log 7). -/
def decodeTableWord (nbits w : Nat) : Option Instr :=
  let ws := tableWords nbits w
  match decodeBundle false ws.1 ws.2 with
  | .error _ => none
  | .ok (.lone i) => some i
  | .ok (.pair c a) => if ws.1 = w % 2 ^ min nbits 32 then some c else some a

end Sys2Proof
end

