-- ==== Sys2Proof/Machine/Fetch.lean ====
section
/-! DEFINITION. Fetching a context's next bundle (spec/05 R90, R96-R98): the bytes at its pc in its core's TCM,
or the bundle its lead has forwarded (spec/03 R62), and what stops it before it issues. -/

namespace Sys2Proof.Machine

/-- The 64 bits that a core fetches at a pc (R97, R98): a bundle that was overwritten after the core fetched it
may still be the old one until SYNCI (DESIGN CHOICE, log 50). -/
def fetchDword (s : State) (n pc : Nat) : Dword × State :=
  let now := dn (readBytes (coreAt s n).tcm pc 8)
  let keep (s : State) (d : Dword) : State := modCore s n fun c => { c with fetched := fset c.fetched pc d }
  match ffind (coreAt s n).fetched pc with
  | none => (now, keep s now)
  | some old =>
    if old = now then (now, s)
    else
      let (b, s) := freeBit s
      if b then (now, keep s now) else (old, s)

/-- What a context's next bundle is. -/
inductive Fetch where
  | overlay
  | ill (e : IllInfo)
  | bundle (is : List (Instr × Nat))
  deriving DecidableEq, Repr

/-- A decoded bundle as its instructions with their word numbers; a pair that writes one register twice is none
(R84, R90). -/
def bundleOf (home : Bool) (d : Dword) : Fetch :=
  let w0 := bits d.toNat 0 32
  let w1 := bits d.toNat 32 32
  match decodeBundle home w0 w1 with
  | .error e => .ill e
  | .ok (.lone i) => .bundle [(i, 0)]
  | .ok (.pair c a) => if pairDest c a then .ill ⟨.pairdest, w1, 1⟩ else .bundle [(c, 0), (a, 1)]
/-- The instructions of a forwarded bundle with their word numbers. -/
def numbered (l : List Instr) : List (Instr × Nat) := l.zipIdx
/-- The next bundle of the context that issues: a second's comes from its lead (R62); another's pc is checked
against XB first (R90, R97) (DESIGN CHOICE, log 50). -/
def fetchNext (s : State) : Fetch × State :=
  match (cur s).rope, (cur s).fwd with
  | .second _ _, b :: _ => (.bundle (numbered b.instrs), s)
  | _, _ =>
    let pc := (cur s).pc
    if boundary s s.core ≤ pc then (.overlay, s)
    else
      let (d, s) := fetchDword s s.core pc
      (bundleOf (Config.isHome s.core) d, s)
/-- The trap of a pattern that is no bundle (R91, R94). -/
def illTrap (pc : Nat) (e : IllInfo) : TrapReq :=
  { cause := 1, sub := e.sub.code, val := dn (e.hw + e.word * 2 ^ 32), tpc := pc }

/-- Does f with a core and context as the ones that issue (DEDUCED, log 10; DESIGN CHOICE, log 111). -/
def within (s : State) (n k : Nat) (f : State → State) : State :=
  let t := f { s with core := n, ctx := k, latch := none, tail := none }
  { t with core := s.core, ctx := s.ctx, latch := s.latch, tail := s.tail }

/-- A context attempts to issue (R48, R201): it runs and nothing holds it, its core is not stopped for debug, no
refusal waits to be taken, no member of its rope is stopped for debug, and a second has a bundle whose cycle has come
(R62, R372)
(DEDUCED, log 10; DESIGN CHOICE, log 111). -/
def attempts (s : State) : Bool :=
  let c := cur s
  c.running && !(coreAt s s.core).halted && !ropeStopped s s.core s.ctx && !busy s && c.refusals.isEmpty &&
  (match c.rope, c.fwd with
  | .second n k, b :: _ => decide (b.due ≤ ropeClock s n k)
  | .second _ _, [] => false
  | _, _ => true)

/-- A core or context the package does not have (R2, R45). -/
def noCore (n : Nat) : Bool := 768 ≤ n
def noCtx (n k : Nat) : Bool := noCore n || Config.contexts n ≤ k

/-- OVERLAY_FETCH (R97): a context at or above the boundary traps before any instruction issues. -/
def execOverlayFetch (core ctx : Nat) (s : State) : Host.Outcome State Fault Refusal :=
  if noCtx core ctx then .fault .noSuchUnit
  else .next (within s core ctx fun s =>
    if attempts s && (fetchNext s).1 == .overlay then
      takeTrap s { cause := 5, val := dn (cur s).pc, tpc := (cur s).pc }
    else s)
/-- UNASSIGNED_BUNDLE (R94): a pattern that is no bundle traps ILL with the first subcode that R90 reaches. -/
def execUnassignedBundle (core ctx : Nat) (s : State) : Host.Outcome State Fault Refusal :=
  if noCtx core ctx then .fault .noSuchUnit
  else .next (within s core ctx fun s =>
    if attempts s then
      match fetchNext s with
      | (.ill e, s) => takeTrap s (illTrap (cur s).pc e)
      | _ => s
    else s)

end Sys2Proof.Machine
end

