-- ==== Sys2Proof/Machine/Predictor.lean ====
section
/-! DEFINITION. The neuron predictor of a cluster (spec/12 R229-R231; spec/14 R271, R272; spec/16 R311-R313): the issue
of its instructions, and what it does for each when it serves it. -/

namespace Sys2Proof.Machine

/-- A refusal of a predictor instruction: cause, subcode, TVAL (R231, R271, R311, R312). -/
abbrev NFault := Nat × Nat × Nat
/-- A range of the scratchpad that passes its end (R311, R312). -/
def nRange (off n : Nat) : Option NFault := if off + n ≤ Config.spmSize then none else some (6, 0, off)
/-- The refusal goes to the context, and a destination receives 0 (R312, R313) (DEDUCED, log 59); an NPCFG, which has
none, keeps a due BUDGET waiting (R405). -/
def refuseN (s : State) (q : NReq) (rd : Option Nat) (e : NFault) : State :=
  let s := sendRefusal s q.core q.ctx { cause := e.1, sub := e.2.1, tval := dn e.2.2, rpc := q.pc, defers := rd.isNone }
  match rd with | some n => modCtx s q.core q.ctx fun c => arrive c (.x n 0) | none => s

/-- The predictor's rounding: RNE, nothing flushed (R230). -/
def rne : Env := { mode := 0, fz := false, r := 0 }
def f32V (w : Nat) : FVal := decodeF f32 w
def mulN (a b : Nat) : Nat := (fmul f32 rne (f32V a) (f32V b)).1
def addN (a b : Nat) : Nat := (fadd f32 rne (f32V a) (f32V b)).1
def subN (a b : Nat) : Nat := (fadd f32 rne (f32V a) (negF (f32V b))).1
def fmaN (a b c : Nat) : Nat := (fmadd f32 rne (f32V a) (f32V b) (f32V c)).1
/-- The maximum of R230: NaN when either operand is a NaN. -/
def maxN (a b : Nat) : Nat :=
  if (f32V a).isNan || (f32V b).isNan then canonNan f32 else (fminmax f32 true (f32V a) (f32V b)).1
/-- Act (R230, R271). -/
def actN (kind z : Nat) : Nat :=
  match kind % 128 with
  | 2 => maxN z 0x3E8E92E8
  | 1 => let m := maxN z 0; mulN m m
  | _ => maxN z 0
/-- A value rounded once to FP32 (R230). -/
def roundN (v : FVal) : Nat := (roundTo f32 0 0 v).1
/-- The square root of an exact sum of squares, rounded once (R230). -/
def sqrtN : FVal → Nat
  | .fin _ m e _ => roundN (sqrtFin m e)
  | v => roundN v

/-- The exact sum of products of weights and values (R230). -/
def dotN : List Int → List FVal → FVal → FVal
  | w :: ws, v :: vs, acc => dotN ws vs (addF false acc (mulF (.ofInt w) v))
  | _, _, acc => acc
def zeroF : FVal := .exact false 0 0
/-- Row i of an INT4 matrix of `cols` columns (R229, R237). -/
def rowN (img cols i : Nat) : List Int :=
  (List.range cols).map fun k => intVal 9 4 (planeCode 4 img (i * cols + k))
/-- Entry j of an FP32 array. -/
def entryN (c : PredCfg) (start j : Nat) : Nat := bits c.image (8 * start + 32 * j) 32

/-- A header keeps R229. -/
def headerOk (h : Nat) : Bool :=
  let c := headerN h
  c.d % 64 == 0 && decide (64 ≤ c.d ∧ c.d ≤ 4096) && c.dff % 64 == 0 && decide (64 ≤ c.dff ∧ c.dff ≤ 65536) &&
  decide (1 ≤ c.r ∧ c.r ≤ 64) && decide (c.kind ≤ 2) && decide (c.tfmt ≤ 2) && bits h 112 16 == 0 &&
  bits h 160 352 == 0
/-- The table at a scratchpad offset (R229, R311). -/
def loadTable (s : State) (clu off : Nat) : Except NFault PredCfg :=
  match nRange off 64 with
  | some e => .error e
  | none =>
    let h := spmRead s clu off 64
    let c := headerN h
    if !headerOk h then .error (0x12, 0, off)
    else match nRange off (tableEnd c) with
      | some e => .error e
      | none => .ok { c with image := spmRead s clu off (tableEnd c) }
/-- NPCFG (R229, R271, R311): a good table replaces the configuration and empties the buffer; the contexts whose
NPRED it overtakes are noted (R231). The context goes on. -/
def npcfgEff (s : State) (q : NReq) : State :=
  let clu := q.core / 8
  let s := modCtx s q.core q.ctx fun c => { c with wait := none }
  match loadTable s clu q.a with
  | .error e => refuseN s q none e
  | .ok c => modClu s clu fun x =>
    { x with pcfg := some c, pbuf := none, npreds := [],
             recfg := x.recfg.filter (fun k => !x.npreds.contains k) ++ x.npreds }
/-- A predictor instruction goes to its cluster's predictor with what it sampled (R259, R271), at a place of its own
in the order of issue (R164, R267). -/
def sendPred (s : State) (i : Instr) (a b : Nat) : State :=
  modClu { s with accessId := s.accessId + 1 } (s.core / 8) fun c =>
    { c with npq := c.npq ++ [{ core := s.core, ctx := s.ctx, instr := i, pc := (cur s).pc, a := a, b := b,
                                eps := (ops s).npeps, before := s.accessId }] }
/-- NPCFG (R311): the context waits until its table is loaded or refused. -/
def execNpcfg (f : FmtR) (s : State) : Host.Outcome State Fault Refusal :=
  issue s (.npcfg f) fun s =>
    waitRelease (sendPred s (.npcfg f) (rx (ops s) f.rs1.toNat).toNat 0) (.npcfg f) .copy .defer

/-- A token's format (R229). -/
def tokFmt : Nat → Fmt
  | 0 => bf16 | 1 => f16 | _ => f32
/-- What NPRED keeps of a token: nx and P·x (R230). -/
structure Token where
  nx : Nat
  y  : List FVal
  deriving DecidableEq, Repr
def tokenN (c : PredCfg) (img : Nat) : Token :=
  let n := 8 * tokSize c.tfmt
  let x := (List.range c.d).map fun k => decodeF (tokFmt c.tfmt) (bits img (n * k) n)
  let p := c.image / 2 ^ (8 * tableP)
  { nx := sqrtN (x.foldl (fun a v => addF false a (mulF v v)) zeroF),
    y := (List.range c.r).map fun i => dotN (rowN p c.d i) x zeroF }
/-- s[j][t] and u[j][t] (R230) (DEDUCED, log 58). -/
def projN (e : Int) (row : List Int) (t : Token) : Nat := roundN (mulF (.exact false 1 e) (dotN row t.y zeroF))
/-- What NPRED makes of neuron j: none when it is selected, else its bound (R230, R312) (DEDUCED, log 58). -/
def neuronN (c : PredCfg) (ts : List Token) (j : Nat) : Option Nat :=
  let rs := rowN (c.image / 2 ^ (8 * tableQ c)) c.r j
  let ru := if c.gated then rowN (c.image / 2 ^ (8 * tableQu c)) c.r j else []
  let l := ts.map fun t =>
    (t.nx, projN ((c.sp : Int) + c.sq - 254) rs t, if c.gated then projN ((c.sp : Int) + c.squ - 254) ru t else 0)
  if l.any fun x => ltF (f32V c.tau.toNat) (f32V x.2.1) || (f32V x.2.1).isNan || (f32V x.2.2).isNan then none
  else
    let bs := l.map fun x =>
      let b := mulN (actN c.kind (fmaN (entryN c (tableC c) j) x.1 x.2.1)) (entryN c (tableN c) j)
      if c.gated then mulN b (fmaN (entryN c (tableCu c) j) x.1 (x.2.2 % 2 ^ 31)) else b
    match bs with
    | [] => none
    | b :: rest =>
      let m := rest.foldl maxN b
      if (f32V m).isNan || (f32V m).isInf then none else some m
/-- An index vector's bytes (R312). -/
def vectorN (l : List Nat) : Nat := l.length + 2 ^ 64 * pack 16 (fun i => l.getD i 0) l.length
def writeVector (s : State) (clu off : Nat) (l : List Nat) : State := spmWrite s clu off (vectorLen l.length) (vectorN l)
/-- NPRED's result (R230): the selected neurons, and the skipped ones with their bounds. -/
def predictN (c : PredCfg) (ts : List Token) : List Nat × List (Nat × Word) :=
  let all := (List.range c.dff).map fun j => (j, neuronN c ts j)
  (all.filterMap fun e => match e.2 with | none => some e.1 | some _ => none,
   all.filterMap fun e => match e.2 with | none => none | some b => some (e.1, BitVec.ofNat 32 b))
/-- NPRED (R230, R271, R312). -/
def npredEff (s : State) (q : NReq) (rd : Nat) : State :=
  let clu := q.core / 8
  match (cluAt s clu).pcfg with
  | none => refuseN s q (some rd) (1, 7, 2)
  | some c =>
    let off := bits q.a 0 23
    let n := bits q.a 32 5
    let row := c.d * tokSize c.tfmt
    match nRange off (n * row) with
    | some e => refuseN s q (some rd) e
    | none =>
      let ts := (List.range n).map fun t => tokenN c (spmRead s clu (off + t * row) row)
      let r := predictN c ts
      match nRange q.b (vectorLen r.1.length) with
      | some e => refuseN s q (some rd) e
      | none =>
        let me := (q.core, q.ctx)
        let s := modClu (writeVector s clu q.b r.1) clu fun x =>
          { x with pbuf := some { core := q.core, ctx := q.ctx, skipped := r.2 },
                   npreds := x.npreds.filter (· != me) ++ [me], recfg := x.recfg.filter (· != me) }
        sendX s q.core q.ctx rd (dn r.1.length)
def execNpred (f : FmtR) (s : State) : Host.Outcome State Fault Refusal :=
  issue s (.npred f) fun s =>
    sendPred (modCur s fun c => emptyX c f.rd.toNat) (.npred f) (rx (ops s) f.rs1.toNat).toNat (rx (ops s) f.rs2.toNat).toNat

/-- The skipped neuron with the largest bound, the lower index on a tie (R231, R313). -/
def largestN : List (Nat × Word) → Option (Nat × Word)
  | [] => none
  | a :: l => match largestN l with
    | none => some a
    | some b => if ltF (f32V a.2.toNat) (f32V b.2.toNat) then some b else some a
/-- The neurons that NCHECK chooses, and the E that is left (R231, R313). -/
def chooseN (eps : Nat) : Nat → List (Nat × Word) → Nat → List Nat × Nat
  | 0, _, e => ([], e)
  | k + 1, l, e =>
    if !ltF (f32V eps) (f32V e) then ([], e)
    else match largestN l with
      | none => ([], e)
      | some b =>
        let r := chooseN eps k (l.filter fun x => x.1 != b.1) (subN e b.2.toNat)
        (b.1 :: r.1, r.2)
/-- The chosen set in ascending order. -/
def ascending (l : List Nat) (dff : Nat) : List Nat := (List.range dff).filter l.contains
/-- NCHECK (R231, R271, R313) (DEDUCED, log 59). -/
def ncheckEff (s : State) (q : NReq) (rd : Nat) : State :=
  let clu := q.core / 8
  let c := cluAt s clu
  if c.recfg.contains (q.core, q.ctx) then refuseN s q (some rd) (1, 7, 0)
  else match c.pbuf with
    | none => refuseN s q (some rd) (1, 7, 1)
    | some b =>
      if b.core != q.core || b.ctx != q.ctx then refuseN s q (some rd) (1, 7, 1)
      else
        let e0 := b.skipped.foldl (fun a x => addN a x.2.toNat) 0
        let r := chooseN (bits q.eps.toNat 0 32) b.skipped.length b.skipped e0
        let l := ascending r.1 65536
        match nRange q.a (vectorLen l.length) with
        | some e => refuseN s q (some rd) e
        | none => sendX (writeVector s clu q.a l) q.core q.ctx rd (dn (r.2 * 2 ^ 32 + l.length))
def execNcheck (f : FmtR) (s : State) : Host.Outcome State Fault Refusal :=
  issue s (.ncheck f) fun s =>
    sendPred (modCur s fun c => emptyX c f.rd.toNat) (.ncheck f) (rx (ops s) f.rs1.toNat).toNat 0

/-- The predictor may serve an instruction: no earlier one of its context waits (R231), and earlier scratchpad
accesses of the context that meet its bytes are performed (R164); one that writes follows the commands of its context
that read its bytes (R267), and waits at the words that a fill has locked (R266). -/
def servable (s : State) (l : List NReq) (q : NReq) : Bool :=
  !(writesN q.instr && (commandsRead s q.core q.ctx q.before (npWrites s q).1 (npWrites s q).2 ||
    lockHolds s (q.core / 8) (npWrites s q).1 (npWrites s q).2)) &&
  !(l.any fun x => x.core == q.core && x.ctx == q.ctx) &&
  !(s.accesses.any fun a => a.spm && a.core == q.core && a.ctx == q.ctx && decide (a.id < q.before) &&
    a.pieces.any fun p => npMeets s q (storesKind a.kind) p.va p.size)
/-- The predictor of a cluster serves the instruction at place i of those that have come to it (R271). -/
def servePred (s : State) (clu i : Nat) : State :=
  let l := (cluAt s clu).npq
  match l[i]? with
  | none => s
  | some q =>
    if !servable s (l.take i) q then s
    else
      let s := modClu s clu fun c => { c with npq := c.npq.eraseIdx i }
      match q.instr with
      | .npcfg _ => npcfgEff s q
      | .npred f => npredEff s q f.rd.toNat
      | .ncheck f => ncheckEff s q f.rd.toNat
      | _ => s

end Sys2Proof.Machine
end

