-- ==== Sys2Proof/Machine/Traps.lean ====
section
/-! DEFINITION. Software traps and the return from a handler (spec/20 R358, R359); upcalls, replay, and switching a
context out and in (spec/19 R341-R344; spec/20 R351, R361). -/

namespace Sys2Proof.Machine

/-- TRAP (R358): after issue. -/
def execTrap (f : FmtU) (s : State) : Host.Outcome State Fault Refusal :=
  issue s (.trap f) fun s => takeTrap s { cause := 0x15, val := dn f.imm.toNat, tpc := (cur s).pc + 8, bpc := some (cur s).pc }
/-- The debug module halts on DBRK: STOP is open and DBRKH is 1 (R358, R367, R369). -/
def dbrkHalts (s : State) : Bool :=
  (partAt s (partOf s s.core)).policy.getLsbD 0 && (coreAt s s.core).dctl.getLsbD 3
/-- DBRK (R358). -/
def execDbrk (f : FmtU) (s : State) : Host.Outcome State Fault Refusal :=
  issue s (.dbrk f) fun s =>
    if dbrkHalts s then debugStop s s.core
    else takeTrap s { cause := 0x16, val := dn f.imm.toNat, tpc := (cur s).pc + 8, bpc := some (cur s).pc }
/-- TRET (R359). -/
def execTret (f : FmtR) (s : State) : Host.Outcome State Fault Refusal :=
  issue s (.tret f) fun s => modCur s trapReturn

/-- UPCRET (R341). -/
def upcretEff (s : State) (i : Instr) : State :=
  if endHolds s i then waitAgain s i .full .withdraw
  else
    let n := s.core
    let k := s.ctx
    endOrWait (flushSends (releaseAll (endRope s n k) n) n k) n k i
def execUpcret (f : FmtR) (s : State) : Host.Outcome State Fault Refusal :=
  issue s (.upcret f) fun s => upcretEff s (.upcret f)

/-- A parked access that REPLAYALL re-presents (R342): one of a core of the die, or of the host when the base camp
lies there (DEDUCED, log 105). -/
def replayed (s : State) (p die : Nat) (a : Access) : Bool :=
  a.part == p && isParked a && Config.dieOf (if a.host then baseCamp s p else a.core) == die
/-- An access as a fresh one (R339), which REPLAYALL presents again at the part that had parked (DEDUCED, log 100). -/
def freshen (a : Access) : Access := { a with stage := .ready, reported := [], again := headPos a }
/-- The fault entries of a page that an access touches go (R342). -/
def dropFaultsAt (s : State) (p va : Nat) : State :=
  dropFaults s p va (va + 1)
/-- REPLAYALL (R342): the accesses of its die are presented again, and it waits until each translation has ended. -/
def replayEff (s : State) (i : Instr) : State :=
  let n := s.core
  let p := partOf s n
  let die := Config.dieOf n
  let s := releaseAll s n
  let s := modDie s die fun d => { d with faultbuf := fdel d.faultbuf p, dropped := fdel d.dropped p }
  let l := s.accesses.filter (replayed s p die)
  let s := l.foldl (fun s a => dropFaultsAt s p (headVa a)) s
  let s := { s with accesses := s.accesses.map fun a => if l.any fun b => b.id == a.id then freshen a else a }
  if l.isEmpty then s else waitRelease s i .full .defer
/-- A REPLAYALL that waits can end: no access of its die and partition that it presented again is still to be
translated. -/
def replayDone (s : State) (n : Nat) : Bool :=
  !(s.accesses.any fun a => a.part == partOf s n && Config.dieOf (if a.host then baseCamp s a.part else a.core) == Config.dieOf n &&
    a.again.isSome)
/-- (DEDUCED, log 105) -/
def execReplayall (f : FmtR) (s : State) : Host.Outcome State Fault Refusal :=
  issue s (.replayall f) fun s => replayEff s (.replayall f)

def mapOwn (s : State) (n k : Nat) (f : Access → Access) : State :=
  { s with accesses := s.accesses.map fun a => if a.core == n && a.ctx == k && !a.host && !isCopyKind a then f a else a }
/-- A CTXSAVE that has not completed leaves the context as it was (R343): its cancelled access stays parked, and is
presented again. -/
def undoSave (s : State) (n k : Nat) : State :=
  mapOwn s n k fun a => if a.stage == .saving then { a with stage := .ready } else a
/-- An access is cancelled (R343, R351): its destination stays empty; a CTXLOAD's reserved context is freed, and a
context that was being saved stays. -/
def cancelAccess (s : State) (a : Access) : State :=
  let s := keepSig (dropAccess s a.id) a
  match a.kind with
  | .load _ _ _ rd | .ldaq _ rd | .amo _ _ rd _ _ => modCtx s a.core a.ctx fun c => unpendX c rd
  | .ldv _ rd | .ldvx rd => modCtx s a.core a.ctx fun c => unpendV c rd
  | .loadCtx rd k _ => modCtx (modCtx s a.core a.ctx fun c => unpendX c rd) a.core k fun c => { c with reserved := false }
  | .save k => undoSave s a.core k
  | _ => s
/-- Every access of a context that a test selects is cancelled. -/
def cancelWhere (s : State) (n k : Nat) (t : Access → Bool) : State :=
  ((ownAccesses s n k).filter t).foldl cancelAccess s

/-- CRC-32C, reflected, of the n low bytes of a number (R361). -/
def crcBits : Nat → Nat → Nat
  | 0, r => r
  | n + 1, r => crcBits n (if r % 2 = 1 then r / 2 ^^^ 0x82F63B78 else r / 2)
def crcBytes : Nat → Nat → Nat → Nat
  | 0, _, r => r
  | n + 1, w, r => crcBytes n (w / 256) (crcBits 8 (r ^^^ w % 256))
def crc32c (n w : Nat) : Nat := crcBytes n w 0xFFFFFFFF ^^^ 0xFFFFFFFF

/-- RegCode of an access's destination (R90, R361). -/
def destCode : AccessKind → Nat
  | .load _ _ _ rd | .ldaq _ rd | .amo _ _ rd _ _ | .loadCtx rd _ _ => rd
  | .ldv _ rd | .ldvx rd => rd + 256
  | _ => 0
/-- The model's order of the kinds (R361). -/
def kindIndex : AccessKind → Nat
  | .load _ _ _ _ => 1 | .store => 2 | .ldaq _ _ => 3 | .strl _ => 4 | .amo _ _ _ _ _ => 5 | .ldv _ _ => 6
  | .stv => 7 | .ldvx _ => 8 | .stvx => 9 | .wsclr => 10 | .publ => 11 | .body _ => 12 | .loadCtx _ _ _ => 13
  | .save _ => 14 | .streamRead _ _ | .streamWrite _ | .copy _ | .hostRead | .hostWrite => 0
/-- The address of an access as a whole: of its first byte, or of the first granule a WSCLR has not cleared. -/
def wholeVa (a : Access) : Nat :=
  match a.kind, a.pieces with
  | .wsclr, p :: _ => p.va
  | .ldvx _, p :: _ | .stvx, p :: _ => p.va
  | _, p :: _ => p.va - p.pos
  | _, [] => 0
/-- The store data a save image records: an atomic's operand, or the low dword of a store's data. -/
def saveData (a : Access) : Nat :=
  match a.kind with
  | .amo _ _ _ b _ => b.toNat
  | _ => a.data % 2 ^ 64
/-- The done mask of R361: lines of an STV, elements of an STVX. -/
def doneBits (a : Access) : Nat :=
  match a.kind with
  | .stv => pack 1 (fun l => bit01 (bits a.done.toNat (16 * l) 16 == 0xFFFF)) 16
  | .stvx => a.done.toNat
  | _ => 0

/-- A field of an image: offset and length in bytes, and value. -/
abbrev Field := Nat × Nat × Nat
def putField (w : Nat) (f : Field) : Nat := w + f.2.2 % 2 ^ (8 * f.2.1) * 2 ^ (8 * f.1)
def dwords (off : Nat) (l : List Nat) : List Field := (l.zipIdx).map fun e => (off + 8 * e.2, 8, e.1)
/-- KIND and NUM of a send-buffer destination, and its member set (R361). -/
def destFields (j : Nat) (d : Dest) : List Field :=
  let o := 0xE400 + 104 * j
  match d with
  | .home n => [(o, 8, n * 2 ^ 16)]
  | .core n => [(o, 8, 1 + n * 2 ^ 16)]
  | .set l => [(o, 8, 2), (o + 8, 96, pack 1 (fun n => bit01 (l.contains n)) 768)]
def sendFields (l : List SendEntry) : List Field :=
  ((l.zipIdx).map fun e => (0x800 + 64 * e.2, 64, recBits e.1.record) :: destFields e.2 e.1.dest).flatten
def accIndex : AccKind → Nat
  | .zero => 0 | .f => 1 | .i => 2
/-- The cancelled access of an image, and its done mask (R361). -/
def accessFields (s : State) (n k : Nat) (a : Access) : List Field :=
  dwords 0x600 [(Config.saveKind (kindIndex a.kind)).toNat, destCode a.kind, wholeVa a, saveData a, a.pc,
    if (ctxAt s n k).starting.isSome then 0 else readBytes (coreAt s n).tcm a.pc 4] ++ [(0x640, 32, doneBits a)]
/-- Every field of the image of a context, but its first dword (R361). -/
def imageFields (s : State) (n k : Nat) (a : Option Access) : List Field :=
  let c := ctxAt s n k
  let r := c.regs
  let task := isTask c
  let home := match c.start with | .task (some h) => h | _ => 0
  let rec_ := match task, c.record with | true, some x => recBits x | _, _ => 0
  dwords 8 [c.pc, c.tstat.toNat, c.tpc.toNat, c.tcause.toNat, c.tval.toNat, (prioWordOf s n k).toNat, r.frm.toNat,
    budgetCount s n k] ++
  dwords 0x48 [r.fmta.toNat, r.fmtb.toNat, r.fmto.toNat, r.scla.toNat, r.sclb.toNat, r.mround.toNat, r.npeps.toNat,
    match c.tag with | some g => 2 ^ 63 + g | none => 0] ++
  dwords 0x88 [c.msgid.toNat, c.ancb.toNat, c.ancl.toNat, bit01 task, if task then home else 0] ++
  [(0xC0, 64, rec_), (0x100, 512, pack 64 (fun i => (rx r i).toNat) 64),
   (0x300, 12, 2 ^ 96 - 1 - r.xe.toNat - r.ve.toNat * 2 ^ 64), (0x400, 512, pack 256 (fun i => (rp r i).toNat) 16)] ++
  (match a with | some a => accessFields s n k a | none => []) ++ [(0x700, 8, c.sends.length)] ++ sendFields c.sends ++
  [(0x2000, 32768, pack 8192 (fun i => (rv r i).toNat) 32),
   (0xA000, 16384, pack 16384 (fun i => (racc r i).lanes.toNat) 8),
   (0xE000, 8, pack 8 (fun i => (Config.accCode (accIndex (racc r i).kind)).toNat) 8)]
where
  prioWordOf (s : State) (n k : Nat) : Dword :=
    let c := ctxAt s n k
    dn (c.base.toNat + c.inh.toNat * 4 + effClass s n k * 16)
/-- The image of a context with its cancelled access, if it has one (R361). -/
def image (s : State) (n k : Nat) (a : Option Access) : Nat :=
  let w := (imageFields s n k a).foldl putField 0
  w + 1 + partOf s n % 64 * 2 ^ 16 + n * 2 ^ 22 + crc32c 65528 (w / 2 ^ 64) * 2 ^ 32

/-- The access of a context that a CTXSAVE has cancelled. -/
def savedAccess (s : State) (n k : Nat) : Option Access := (ownAccesses s n k).find? fun a => a.stage == .saving
/-- The parked access of the context to be saved is cancelled: the oldest, where there are several (DEDUCED, log 72). -/
def beginSave (s : State) (n k : Nat) : State :=
  match savedAccess s n k, (ownAccesses s n k).find? heldByPark with
  | none, some x => mapOwn s n k fun a => if a.id == x.id then { a with stage := .saving } else a
  | _, _ => s
/-- A value, a request, a trap or another access of the context to be saved is still on its way (DEDUCED, log 72). -/
def saveWaits (s : State) (n k : Nat) : Bool :=
  let c := ctxAt s n k
  !c.pend.isEmpty || c.trapWait.isSome || (s.reqs.any fun q => q.core == n && q.ctx == k) || predsLeft s n k ||
    (ownAccesses s n k).any fun a => a.stage != .saving
/-- CTXSAVE (R343): the access is cancelled, the image is stored, and the saved context becomes dormant; a refused
store leaves it parked (DEDUCED, log 72). -/
def ctxsaveEff (s : State) (f : FmtR) (addr : Nat) (k : Nat) : State :=
  let n := s.core
  let i : Instr := .ctxsave f
  match (accessesOf s n s.ctx).find? fun a => a.kind == .save k with
  | some x =>
    (match x.stage with
    | .performed =>
      let s := cancelWhere (dropAccess s x.id) n k fun _ => true
      makeDormant s n k
    | .failed cause sub va =>
      let s := undoSave (dropAccess s x.id) n k
      sendRefusal s n s.ctx { cause := cause, sub := sub, tval := dn va, rpc := (cur s).pc, defers := true }
    | _ => waitAgain s i .full .defer)
  | none =>
    let s := beginSave s n k
    if saveWaits s n k then waitAgain s i .full .defer
    else match savedAccess s n k with
      | none => s
      | some a =>
        let x := { accessOf s (.save k) 0 (pieces addr 64 true 0 1024) (image s n k (some a)) true with blocking := false }
        waitAgain (submit s x) i .full .defer
def execCtxsave (f : FmtR) (s : State) : Host.Outcome State Fault Refusal :=
  issue s (.ctxsave f) fun s =>
    ctxsaveEff s f (rx (ops s) f.rs1.toNat).toNat (rx (ops s) f.rs2.toNat).toNat

/-- A field of an image. -/
def field (w off n : Nat) : Nat := bits w (8 * off) (8 * n)
def fieldD (w off : Nat) : Dword := dn (field w off 8)
/-- R361 rejects an image: its format, its partition, its CRC, or its core's type. -/
def imageBad (s : State) (n w : Nat) : Bool :=
  field w 0 2 != 1 || bits w 16 6 != partOf s n % 64 || bits w 32 32 != crc32c 65528 (w / 2 ^ 64) ||
  Config.isHome (bits w 22 10) != Config.isHome n
/-- A map of the first n registers. -/
def regMap {α : Type} (f : Nat → α) : Nat → FMap α
  | 0 => []
  | n + 1 => fset (regMap f n) n (f n)
def accOfCode (b : Byte) : AccKind :=
  if b == Config.accCode 1 then .f else if b == Config.accCode 2 then .i else .zero
/-- The registers of an image (R361). -/
def imageRegs (w : Nat) : Regs :=
  { x := regMap (fun i => fieldD w (0x100 + 8 * i)) 64,
    xe := ~~~(fieldD w 0x300) &&& ~~~1,
    v := regMap (fun i => BitVec.ofNat 8192 (field w (0x2000 + 1024 * i) 1024)) 32,
    ve := ~~~(BitVec.ofNat 32 (field w 0x308 4)),
    p := regMap (fun i => BitVec.ofNat 256 (field w (0x400 + 32 * i) 32)) 16,
    acc := regMap (fun i =>
      { kind := accOfCode (BitVec.ofNat 8 (field w (0xE000 + i) 1)),
        lanes := BitVec.ofNat 16384 (field w (0xA000 + 2048 * i) 2048) }) 8,
    frm := fieldD w 0x38, fmta := fieldD w 0x48, fmtb := fieldD w 0x50, fmto := fieldD w 0x58, scla := fieldD w 0x60,
    sclb := fieldD w 0x68, mround := fieldD w 0x70, npeps := fieldD w 0x78 }
def imageSends (w : Nat) : List SendEntry :=
  (List.range (min 64 (field w 0x700 8))).map fun j =>
    let o := 0xE400 + 104 * j
    let d := field w o 8
    { record := recOf (field w (0x800 + 64 * j) 64),
      dest := match d % 4 with
        | 0 => .home (bits d 16 10)
        | 1 => .core (bits d 16 10)
        | _ => .set ((List.range 768).filter fun n => bitAt (field w (o + 8) 96) n) }
/-- The context of an image (R344, R361). -/
def imageCtx (cycle w : Nat) (c : Ctx) : Ctx :=
  let r := recOf (field w 0xC0 64)
  let task := bitAt (field w 0xA0 8) 0
  { c with
    pc := field w 8 8 % 2 ^ 19, npc := field w 8 8 % 2 ^ 19, regs := imageRegs w, xp := 0, vp := 0,
    base := BitVec.ofNat 2 (field w 0x30 8), tstat := fieldD w 0x10, tpc := fieldD w 0x18, tcause := fieldD w 0x20,
    tval := fieldD w 0x28, budget0 := cycle - field w 0x40 8,
    tag := if bitAt (field w 0x80 8) 63 then some (field w 0x80 1) else none,
    msgid := fieldD w 0x88, ancb := fieldD w 0x90, ancl := fieldD w 0x98, sends := imageSends w,
    record := if task then some r else none,
    start := if task then .task (if (midSlice r.mid).isSome then some (field w 0xA8 8 % 256) else none) else .other }

/-- The cancelled access is rebuilt from the instruction word, the address and data that the image records, and the
saved registers (R344), as an access of the issuing context (DEDUCED, log 42; DEDUCED, log 74). -/
def rebuild (s : State) (w : Nat) : State :=
  let va := field w 0x610 8
  let data := field w 0x618 8
  let r := ops s
  let load (f : FmtL) (size : Nat) (signed : Bool) : State :=
    submit (modCur s fun c => emptyX c f.rd.toNat)
      (accessOf s (.load size signed (f.sp == 1) f.rd.toNat) 0 (pieces va size false 0 1) 0 false)
  let store (size : Nat) : State := submit s (accessOf s .store 0 (pieces va size true 0 1) data true)
  let amo (f : FmtAM) (op : Nat) : State :=
    submitRel (modCur s fun c => emptyX c f.rd.toNat) f.scope
      (accessOf s (.amo op f.scope.toNat f.rd.toNat (dn data) (rx r f.rd.toNat)) 0 (pieces va 8 false 0 1) 0 false)
  match buildC (field w 0x628 4) 0 with
  | some (.ldb f) => load f 1 true
  | some (.ldbu f) => load f 1 false
  | some (.ldh f) => load f 2 true
  | some (.ldhu f) => load f 2 false
  | some (.ldw f) => load f 4 true
  | some (.ldwu f) => load f 4 false
  | some (.ldd f) => load f 8 false
  | some (.stb _) => store 1
  | some (.sth _) => store 2
  | some (.stw _) => store 4
  | some (.std _) => store 8
  | some (.ldaq f) =>
    submit (modCur s fun c => emptyX c f.rd.toNat)
      (accessOf s (.ldaq f.scope.toNat f.rd.toNat) 0 (pieces va 8 false 0 1) 0 false)
  | some (.strl f) => submitRel s f.scope (accessOf s (.strl f.scope.toNat) 0 (pieces va 8 true 0 1) data true)
  | some (.ldv f) =>
    submit (modCur s fun c => emptyV c f.rd.toNat)
      (accessOf s (.ldv (f.sp == 1) f.rd.toNat) 0 (pieces va 64 false 0 16) 0 false)
  | some (.stv f) =>
    let lines (l : Nat) : Nat := bit01 (bitAt (field w 0x640 32) l) * 0xFFFF
    submit s { accessOf s .stv 0 ((pieces va 8 true 0 128).filter fun p => !bitAt (field w 0x640 32) (p.pos / 64))
      (rv r f.rs2.toNat).toNat true with done := BitVec.ofNat 256 (pack 16 lines 16) }
  | some (.ldvx f) =>
    submit (modCur s fun c => emptyV c f.rd.toNat)
      (accessOf s (.ldvx f.rd.toNat) 0 ((lanesX r f).map fun e => { va := e.2, size := 4, pos := 4 * e.1, write := false }) 0 false)
  | some (.stvx f) =>
    submit s { accessOf s .stvx 0
      (((lanesX r f).filter fun e => !bitAt (field w 0x640 32) e.1).map fun e => { va := e.2, size := 4, pos := 4 * e.1, write := true })
      (rv r f.rd.toNat).toNat true with done := BitVec.ofNat 256 (field w 0x640 32) }
  | some (.amoadd f) => amo f 0
  | some (.amoand f) => amo f 1
  | some (.amoor f) => amo f 2
  | some (.amoxor f) => amo f 3
  | some (.amomin f) => amo f 4
  | some (.amomax f) => amo f 5
  | some (.amominu f) => amo f 6
  | some (.amomaxu f) => amo f 7
  | some (.amoswp f) => amo f 8
  | some (.amocas f) => amo f 9
  | some (.amofadd f) => amo f 10
  | some (.amoaddt f) => amo f 11
  | some (.wsclr f) =>
    let n := (rx r f.rs1.toNat).toNat + (rx r f.rs2.toNat).toNat - va
    submit s (accessOf s .wsclr 0 (clearParts (n / 4096 + 2) va n 0) 0 true)
  | some (.publ _) => submit s (accessOf s .publ 0 (pieces va 8 true 0 1) data true)
  | some (.spawn f) => recordEff s (.spawn f) (spawnReq s r f)
  | some (.spawnh f) =>
    let f := { f with lit := BitVec.ofNat 32 ((va - bits (coreAt s s.core).bodytab.toNat 13 44 * 8192) / 8) }
    recordEff s (.spawnh f) (spawnhReq s r f)
  | some (.send f) => recordEff s (.send f) (sendReq s r f)
  | some (.sendg f) => recordEff s (.sendg f) (sendgReq s r f)
  | _ => s
where
  clearParts : Nat → Nat → Nat → Nat → List Piece
    | 0, _, _, _ => []
    | fuel + 1, va, n, pos =>
      if n = 0 then []
      else
        let k := min n (4096 - va % 4096)
        { va := va, size := k, pos := pos, write := true } :: clearParts fuel (va + k) (n - k) (pos + k)

/-- CTXLOAD's issue (R344): it reserves a context and reads the image (DEDUCED, log 42; DEDUCED, log 74). -/
def ctxloadEff (s : State) (i : Instr) (rd : Nat) (addr : Dword) : State :=
  let s := modCur s fun c => emptyX c rd
  match reservable s s.core with
  | none => waitAgain s i .barrier .withdraw
  | some k =>
    let s := modCtx s s.core k fun c => { c with reserved := true }
    submit s (accessOf s (.loadCtx rd k addr) 0 (pieces addr.toNat 64 false 0 1024) 0 false)
def execCtxload (f : FmtR) (s : State) : Host.Outcome State Fault Refusal :=
  issue s (.ctxload f) fun s => ctxloadEff s (.ctxload f) f.rd.toNat (rx (ops s) f.rs1.toNat)

/-- What f presents, it presents as fresh accesses (R342, R344): the fault entries of the pages that their parts touch go
first. -/
def presentFresh (f : State → State) (s : State) : State :=
  let drop (s : State) (a : Access) : State :=
    a.pieces.foldl (fun s (p : Piece) => dropFaults s a.part p.va (p.va + p.size)) s
  f (((f s).accesses.filter fun a => s.accessId ≤ a.id).foldl drop s)
/-- The rebuilt access of a context just loaded: a delivery's read of its body entry, a CTXLOAD, or another. -/
def rebuilt (w : Nat) (s : State) : State :=
  if field w 0x628 4 = 0 then
    (match (cur s).record with | some r => startBody s s.core s.ctx r.body.toNat | none => s)
  else
    let va := field w 0x610 8
    let next := (cur s).pc
    let s := modCur s fun c => { c with pc := field w 0x620 8, npc := next }
    let s := { s with latch := some (cur s).regs }
    let s := match buildC (field w 0x628 4) 0 with
      | some (.ctxload f) =>
        let s := { s with latch := some (writeX (cur s) f.rs1.toNat (dn va)).regs }
        ctxloadEff s (.ctxload f) f.rd.toNat (dn va)
      | _ => rebuild s w
    modCur { s with latch := none } fun c => { c with pc := c.npc }
def represent (s : State) (w : Nat) : State := presentFresh (rebuilt w) s
/-- The end of a CTXLOAD whose image has been read, or refused (R344): the context starts from the image, its
cancelled access is presented as a fresh one, and rd receives the context's number. None starts while a pre-emption
request is pending (R64). -/
def ctxloadEnd (s : State) (a : Access) : State :=
  match a.kind with
  | .loadCtx rd k addr =>
    let n := a.core
    let s := dropAccess s a.id
    let fail (cause sub : Nat) (v : Dword) : State :=
      let s := modCtx s n k fun c => { c with reserved := false }
      let s := modCtx s n a.ctx fun c => if c.xp.getLsbD rd then writeX c rd 0 else c
      sendRefusal s n a.ctx { cause := cause, sub := sub, tval := v, rpc := a.pc }
    (match a.stage with
    | .failed cause sub va => fail cause sub (dn va)
    | _ =>
      if imageBad s n a.data then fail 1 7 addr
      else if (coreAt s n).preempt then keepAccess s a
      else
        let s := beginCtx s n k 0 0
        let s := refreshInh (modCtx s n k (imageCtx s.cycle a.data)) (partOf s n)
        let s := acquireAll s n
        let core := s.core
        let ctx := s.ctx
        let latch := s.latch
        let s := represent { s with core := n, ctx := k } a.data
        sendX { s with core := core, ctx := ctx, latch := latch } n a.ctx rd (dn k))
  | _ => s

end Sys2Proof.Machine
end

