-- ==== Sys2Proof/Machine/CoreEvents.lean ====
section
/-! DEFINITION. What reaches a core without an instruction of its own (spec/02 R25-R38, spec/03 R46, R47, R60, R64,
R65; spec/05 R88; spec/11 R201, R223; spec/19 R339; spec/20 R405; spec/21 R372): values, refusals, the budget,
messages, deliveries and upcalls, pre-emption and debug stops. An event whose condition does not hold changes
nothing. -/

namespace Sys2Proof.Machine

/-- VALUE_ARRIVAL (R88): the value at place n of those on their way to the context. -/
def valueArrives (s : State) (core ctx n : Nat) : State :=
  match (ctxAt s core ctx).pend[n]? with
  | none => s
  | some v => modCtx s core ctx fun c => arrive { c with pend := c.pend.eraseIdx n } v
def execValueArrival (core ctx n : Nat) (s : State) : Host.Outcome State Fault Refusal :=
  if noCtx core ctx then .fault .noSuchUnit else .next (valueArrives s core ctx n)

/-- TEND, TABORT or UPCRET waits for the context's accesses and has had no effect (R39). -/
def endWaits (w : Wait) : Bool :=
  w.fin == .again && (match w.instr with | .tend _ | .tabort _ | .upcret _ => true | _ => false)
/-- The pc of the bundle in whose place the context's oldest refusal is taken (R201), if it can be taken now: the
next bundle, or the TEND, TABORT or UPCRET that waits; none for a delivery whose body entry was refused, which
has no bundle yet (DEDUCED, log 16). -/
def refusalPlace (s : State) (n k : Nat) : Option (Option Nat) :=
  let c := ctxAt s n k
  if c.starting.isSome then some none
  else match c.wait with
    | some w => if endWaits w && !ctxParked s n k then some (some w.pc) else none
    | none =>
      if c.trapWait.isSome || ctxParked s n k || (accessesOf s n k).any (·.blocking) then none else some (some (nextPc s n k))
def budgetOut (s : State) (n k : Nat) : Bool :=
  decide (bits (coreAt s n).tbudget.toNat 0 40 ≤ budgetCount s n k)
/-- REFUSAL (R201): the oldest refusal is taken as a trap. A delivery's has no refused instruction (R24), and the
place it names is open (DEDUCED, log 16; DESIGN CHOICE, log 17). A BUDGET that the refused instruction has kept waiting
follows (R405) (DEDUCED, log 138). -/
def refusalTaken (s : State) (n k : Nat) : State :=
  let c := ctxAt s n k
  match c.refusals, refusalPlace s n k with
  | r :: rest, some place =>
    if !c.running || c.stopped || (coreAt s n).halted then s
    else
      let (pc, s) := match place with
        | some pc => (pc, s)
        | none => let (v, s) := freeDword s; (v.toNat, s)
      let owed := c.owed || (r.defers && budgetOut s n k)
      let s := modCtx s n k fun c => { c with refusals := rest, wait := none, starting := none, owed := owed }
      takeTrapAt s n k { cause := r.cause, sub := r.sub, val := r.tval, tpc := pc, rpc := if place.isSome then some r.rpc else none }
  | _, _ => s
def execRefusal (core ctx : Nat) (s : State) : Host.Outcome State Fault Refusal :=
  if noCtx core ctx then .fault .noSuchUnit else .next (refusalTaken s core ctx)

/-- What BUDGET withdraws of the instruction that waits (R405) (DEDUCED, log 14). -/
def withdraw (s : State) (n k : Nat) (i : Instr) : State :=
  let unX (rd : BitVec 6) : State := modCtx s n k fun c => unpendX c rd.toNat
  let same (b : Belay) : Bool := b.core == n && b.ctx == k
  match i with
  | .take f | .steal f | .stealAny f | .ctxload f | .wfa f => unX f.rd
  | .belay _ => modClu s (n / 8) fun c =>
    { c with belays := c.belays.map fun b => if same b then { b with dead := true } else b,
             chosen := c.chosen.map fun b => if same b then { b with dead := true } else b }
  | .rope _ => endRope s n k
  | .gbar f => modCtx s n k fun c =>
    match ffind c.arrivals f.group.toNat with
    | some (ph, _) => { c with arrivals := fset c.arrivals f.group.toNat (ph, false) }
    | none => c
  | .cpy _ | .cpy2 _ | .cpym _ | .cpyw _ =>
    let own (r : LeaveReq) : Bool := r.kind == 1 && r.core == n && r.ctx == k && r.copy == 0
    modDie s (clusterFor s n / 16) fun d =>
      { d with leaveQ := d.leaveQ.filter fun r => !own r, holders := d.holders.filter fun r => !own r }
  | _ => s
/-- The context's parked accesses are cancelled (R351). -/
def cancelParked (s : State) (n k : Nat) : State := cancelWhere s n k heldByPark
/-- One of them is the read or the store that the instruction under way waits for: the instruction ends with it. -/
def endsParked (s : State) (n k : Nat) : Bool :=
  (ownAccesses s n k).any fun a => heldByPark a && (match a.kind with | .body _ | .save _ => true | _ => false)
/-- A WSCLR or PUBL of the context is under way (R405). -/
def clearing (s : State) (n k : Nat) : Bool :=
  (ownAccesses s n k).any fun a => !heldByPark a && (match a.kind with | .wsclr | .publ => true | _ => false)
/-- The access of the context that a CTXSAVE under way has taken. -/
def underSave (s : State) (n k : Nat) : Bool := (ownAccesses s n k).any fun a => a.stage == .saving
/-- A context's BUDGET has fallen due: its count has reached LIMIT, or it owes one (R65, R405). -/
def budgetFallen (s : State) (n k : Nat) : Bool := budgetOut s n k || (ctxAt s n k).owed
/-- BUDGET can be taken now (R65, R350, R351, R405): it has fallen due, nothing defers the trap, and no refusal is to be
taken first. -/
def budgetDue (s : State) (n k : Nat) : Bool :=
  let c := ctxAt s n k
  c.running && budgetFallen s n k && !c.stopped && !(coreAt s n).halted && (c.trapWait.isNone || c.wait.isSome) && !underSave s n k &&
  (c.refusals.isEmpty || (refusalPlace s n k).isNone) &&
  match c.wait with
  | some w => w.fate != .defer || ctxParked s n k
  | none => if c.starting.isSome then ctxParked s n k else !clearing s n k
/-- The withdrawal of a SEMP is sent to its semaphore (R405), and the wait goes on until it has come, or the SEMP has been
served before it. -/
def sendUnsemp (s : State) (n k sem : Nat) : State :=
  let s := { s with reqs := s.reqs ++ [{ core := n, ctx := k, rd := 0, ask := .unsemp sem }] }
  modCtx s n k fun c => { c with wait := c.wait.map fun w => { w with fate := .defer } }
/-- BUDGET (R65, R350, R351, R405): in place of the next bundle, or at once when the context waits or is parked. Of an
instruction that may not be withdrawn the parked accesses are cancelled; it ends with them where it waits for one of
them, and else defers the trap (DEDUCED, log 14; DEDUCED, log 116). -/
def budgetTaken (s : State) (n k : Nat) : State :=
  let c := ctxAt s n k
  if !budgetDue s n k then s
  else match c.wait with
    | some w =>
      (match w.fate, w.instr with
      | .withdraw, .semp f => sendUnsemp s n k f.sem.toNat
      | .defer, _ =>
        let t := cancelParked s n k
        if endsParked s n k then budgetTrap (modCtx t n k fun c => { c with wait := none }) n k (w.pc + 8) else t
      | fate, _ =>
        let s := modCtx (withdraw s n k w.instr) n k fun c => { c with wait := none }
        let s := cancelParked (refreshInh s (partOf s n)) n k
        budgetTrap s n k (if fate == .withdrawAfter then w.pc + 8 else w.pc))
    | none =>
      if c.starting.isSome then
        if ctxParked s n k then
          let (v, s) := freeDword (cancelParked s n k)
          budgetTrap (modCtx s n k fun c => { c with starting := none }) n k v.toNat
        else s
      else budgetTrap (cancelParked s n k) n k (nextPc s n k)
def execBudget (core ctx : Nat) (s : State) : Host.Outcome State Fault Refusal :=
  if noCtx core ctx then .fault .noSuchUnit else .next (budgetTaken s core ctx)

/-- ENQUEUE (R25-R27, R34): a record reaches its inbound queue, or its home queue's controller, which serves it in its
turn; at a full queue it waits. -/
def enqueueAt (s : State) (n : Nat) : State :=
  match s.msgs[n]? with
  | some m =>
    (match m.body with
    | .inbound _ _ _ =>
      if msgBlocked s m || !channelHead s n m then s else receive { s with msgs := s.msgs.eraseIdx n } m
    | .enqueue _ _ _ => homeMsg s n m
    | _ => s)
  | none => s
def execEnqueue (n : Nat) (s : State) : Host.Outcome State Fault Refusal := .next (enqueueAt s n)
/-- RETIREMENT (R31, R34). -/
def retireAt (s : State) (n : Nat) : State :=
  match s.msgs[n]? with
  | some m => (match m.body with | .retire _ _ _ => homeMsg s n m | _ => s)
  | none => s
def execRetirement (n : Nat) (s : State) : Host.Outcome State Fault Refusal := .next (retireAt s n)
/-- The same parent's messages of the same launch: while one waits for a full queue, the others wait with it (R27). -/
def sameLaunch (m x : Msg) : Bool :=
  match m.body, x.body with
  | .launch _ p pc ap _ issuer root _, .launch _ p' pc' ap' _ issuer' root' _ =>
    m.src == x.src && p == p' && pc == pc' && ap == ap' && issuer == issuer' && root == root'
  | _, _ => false
/-- LAUNCH_TREE_MESSAGE (R27, R60): a core's queue takes the message. -/
def launchAt (s : State) (n : Nat) : State :=
  match s.msgs[n]? with
  | some m =>
    (match m.body with
    | .launch _ _ _ _ _ _ _ _ =>
      if !channelHead s n m || s.msgs.any fun x => sameLaunch m x && msgBlocked s x then s
      else receive { s with msgs := s.msgs.eraseIdx n } m
    | _ => s)
  | none => s
def execLaunchTreeMessage (n : Nat) (s : State) : Host.Outcome State Fault Refusal := .next (launchAt s n)

/-- A launch-tree start (R47, R137): x3 holds ap; Acquire(dev, all); the issuing context counts it (DEDUCED, log 32). -/
def startLaunch (s : State) (n k pc : Nat) (ap : Dword) (cls : BitVec 2) (issuer : Nat × Nat) : State :=
  let s := beginCtx (acquireAll s n) n k (pc % 2 ^ 19) cls
  let s := modCtx s n k fun c => writeX c 3 ap
  modCtx s issuer.1 issuer.2 fun c => { c with treel := c.treel - 1, wfa := c.wfa + 1 }
/-- A copy handler's start (R221, R223) (DEDUCED, log 32; DEDUCED, log 40). -/
def startHandler (s : State) (n k h : Nat) (base bytes cause addr total mid : Dword) : State :=
  let e := handlerDword s n h
  let pc := 8 * bits e 0 16
  let s := beginCtx (acquireAll s n) n k pc (BitVec.ofNat 2 (bits e 16 2))
  let s := modCtx s n k fun c =>
    let c := writeX (writeX (writeX (writeX c 4 base) 5 bytes) 6 mid) 7 cause
    { writeX (writeX (writeX c 8 addr) 9 total) 10 (dn h) with msgid := mid }
  if handlerValid s n h then s else takeTrapAt s n k { cause := 5, val := dn h, tpc := pc }
/-- INBOUND_DELIVERY (R25, R46, R356): the first record not held starts the lowest dormant context (DEDUCED, log 40). -/
def deliverInbound (s : State) (n : Nat) : State :=
  let c := coreAt s n
  match freeCtx s n, popInbound c.inbound with
  | some k, some (r, rest) =>
    if c.halted || c.part.isNone then s
    else
      let s := modCore s n fun c => { c with inbound := rest }
      (match r.body with
      | .task t _ => deliver s n k t
      | .launch pc ap cls issuer => startLaunch s n k pc ap cls issuer
      | .handler h base bytes cause addr total => startHandler s n k h base bytes cause addr total r.mid)
  | _, _ => s
def execInboundDelivery (core : Nat) (s : State) : Host.Outcome State Fault Refusal :=
  if noCore core then .fault .noSuchUnit else .next (deliverInbound s core)

/-- UPCALL_START (R338, R339). -/
def startUpcall (s : State) (n : Nat) : State :=
  let c := coreAt s n
  let k := bits c.upcvec.toNat 16 3
  let x := ctxAt s n k
  match c.upcalls with
  | [] => s
  | u :: rest =>
    if x.running || x.reserved || c.halted || c.preempt || (partAt s (partOf s n)).loading || !c.upcvec.getLsbD 63 then s
    else
      let pc := 8 * bits c.upcvec.toNat 0 16
      let s := acquireAll (modCore s n fun c => { c with upcalls := rest }) n
      let s := beginCtx s n k pc u.cls
      let s := modCtx s n k fun c =>
        { writeX (writeX (writeX c 4 u.va) 5 u.info) 6 (dn u.pc) with upcall := true }
      trace s n k 5 pc u.va
def execUpcallStart (core : Nat) (s : State) : Host.Outcome State Fault Refusal :=
  if noCore core then .fault .noSuchUnit else .next (startUpcall s core)

/-- PREEMPTION_REQUEST and PREEMPTION_LIFT (R64, R366). -/
def execPreemptionRequest (core : Nat) (s : State) : Host.Outcome State Fault Refusal :=
  if noCore core then .fault .noSuchUnit else .next (modCore s core fun c => { c with preempt := true })
def execPreemptionLift (core : Nat) (s : State) : Host.Outcome State Fault Refusal :=
  if noCore core then .fault .noSuchUnit else .next (modCore s core fun c => { c with preempt := false })

/-- The end of a debug stop (R370, R372): each context ignores breakpoints for its next bundle, and the cycles of
the stop do not count toward its budget, which begins with the resume where it began in the stop (DEDUCED, log 15). -/
def debugResume (s : State) (n : Nat) : State :=
  modCore s n fun c =>
    let from_ (x : Ctx) : Nat := if c.haltAt ≤ x.budget0 then s.cycle else x.budget0 + (s.cycle - c.haltAt)
    if c.halted then
      { c with halted := false,
               ctxs := c.ctxs.map fun (e : Nat × Ctx) => (e.1, { e.2 with bpSkip := true, budget0 := from_ e.2 }) }
    else c
/-- A core whose module the tenant's debugger may reach: it belongs to a partition whose policy opens STOP, and
whose virtual function accepts MMIO (R367, R368, R390). -/
def stopOpen (s : State) (n : Nat) : Bool :=
  (coreAt s n).part.isSome && (partAt s (partOf s n)).policy.getLsbD 0 && (partAt s (partOf s n)).tdi == .run
/-- HALT and RESUME (R369, R372). -/
def execHalt (core : Nat) (s : State) : Host.Outcome State Fault Refusal :=
  if noCore core then .fault .noSuchUnit else .next (if stopOpen s core then debugStop s core else s)
def execResume (core : Nat) (s : State) : Host.Outcome State Fault Refusal :=
  if noCore core then .fault .noSuchUnit else .next (if stopOpen s core then debugResume s core else s)

end Sys2Proof.Machine
end

