-- ==== Sys2Proof/Machine/HomeEvents.lean ====
section
/-! DEFINITION. What happens at the homes and their governors without an instruction (spec/10 R177-R180, R195-R198,
R404; spec/18 R328, R330; spec/23 R399, R400): walks, token attempts, host and peer requests, power leave and
HBM errors. -/

namespace Sys2Proof.Machine

/-- The service core that performs a host request (R4, R195): by the quadrant of the home of its address
(DEDUCED, log 82). -/
def serviceOf (s : State) (a : Access) : Nat := homeIn s a.part (headVa a) / 16
/-- The service core of a partition's service window (R195): that of its base camp's quadrant. -/
def windowService (s : State) (p : Nat) : Nat := baseCamp s p / 32
/-- The core is pre-empted (R64, R66): every context is dormant or stopped, and the core is not stopped for debug. -/
def preempted (s : State) (n : Nat) : Bool :=
  (coreAt s n).preempt && !(coreAt s n).halted &&
  (List.range (Config.contexts n)).all fun k => !(ctxAt s n k).running || (ctxAt s n k).stopped
def allPreempted (s : State) (p : Nat) : Bool := (coresOf s p).all (preempted s)
/-- The service cores take no host requests for the partition: the second step of a cut has come (R363). -/
def takesNone (s : State) (p : Nat) : Bool := (partAt s p).cut.isSome && allPreempted s p
/-- An earlier request than the one numbered waits at a service core (R195, R404); one that the service core does not
take while a cut runs holds back its own partition's alone (R363) (DEDUCED, log 82). -/
def serviceBusy (s : State) (service part id : Nat) : Bool :=
  (s.accesses.any fun b => b.host && decide (b.id < id) && serviceOf s b == service && (b.stage != .untaken || b.part == part)) ||
  s.parts.any fun e => windowService s e.1 == service && (!takesNone s e.1 || e.1 == part) && e.2.winQ.any fun x => decide (x.1 < id)
def hostBlocked (s : State) (a : Access) : Bool := serviceBusy s (serviceOf s a) a.part a.id
/-- What stops a host write: a part, and what it ends in. -/
abbrev HostStop := PRes × Piece
/-- Every part of a host write is made ready, in order, before any is written (R196): the state, or the part that stops
it. A grant of tokens, and what a home has checked, hold for the first part alone. -/
def readyAll : List Piece → State → Go → Access → State × Option HostStop
  | [], s, _, _ => (s, none)
  | p :: ps, s, g, a =>
    match writable s { g with hold := holdSC s a } a p.va p.size with
    | .no r => (s, some (r, p))
    | .ok s _ _ => readyAll ps s { walk := false } { a with checked := false }
/-- They are written, at one instant. -/
def writeAll : List Piece → State → Access → State × Option HostStop
  | [], s, _ => (s, none)
  | p :: ps, s, a =>
    match performPiece s { grant := true, active := true } { a with checked := true } p with
    | .done s _ _ => writeAll ps s a
    | r => (s, some (r, p))
/-- A host write stops at a part, which it tries first when it goes on; nothing of it has been written
(DEDUCED, log 141). -/
def stopHost (a : Access) (x : HostStop) : State :=
  let a := { a with pieces := x.2 :: a.pieces.filter (· != x.2) }
  match x.1 with
  | .stall s st => keepAccess s (stalled s a st)
  | .park s l c lv w => let (s, a) := parkAccess s a l c lv w x.2; keepAccess s a
  | .refuse s c sub | .refuseVal s c sub _ => refuseAccess s a c sub x.2.va
  | .done s _ _ => s
/-- A host write (R196): a refused one has no effect on memory. -/
def writeHost (s : State) (g : Go) (a : Access) : State :=
  match readyAll a.pieces (dropAccess s a.id) (resumed g a) a with
  | (_, some x) => stopHost a x
  | (s, none) => match writeAll a.pieces s a with
    | (t, none) => finishAccess t a
    | (_, some (_, p)) => stopHost a (.stall s .way, p)
/-- Runs a host request: in order behind the others of its service core (R195, R196). -/
def runHost (s : State) (g : Go) (a : Access) : State :=
  if hostBlocked s a then keepAccess (dropAccess s a.id) { a with stage := .held }
  else match a.kind with
    | .hostWrite => writeHost s g a
    | _ => runAccess s g a
/-- Runs an access, of a core or of the host. -/
def runAny (s : State) (g : Go) (a : Access) : State := if a.host then runHost s g a else runAccess s g a

/-- PAGE_WALK (R328): the access at place n of those that wait for a walk at the slice walks, when a walker is free
for it (DEDUCED, log 69). -/
def walkAt (s : State) (slice n : Nat) : State :=
  match (s.accesses.filter fun a => a.stage == .walk slice)[n]? with
  | some a => if walkable s a then runAny s { walk := true } a else s
  | none => s
def execPageWalk (slice n : Nat) (s : State) : Host.Outcome State Fault Refusal :=
  if 256 ≤ slice then .fault .noSuchUnit else .next (walkAt s slice n)

/-- An access parked at a slice on a line that no monitor watches (R330). -/
def unwatched (s : State) (slice : Nat) (a : Access) : Bool :=
  match a.stage with
  | .parked sl l _ _ => sl == slice && !(sliceAt s slice).monitors.contains (a.part, l)
  | _ => false
/-- One parked access is walked again, past its page's fault entry, when a walker is free for it: where it finds its cause
unchanged the entry and its place in the fault buffer stand (R322, R330, R340) (DEDUCED, log 70). -/
def rewalk (s : State) (a : Access) : State :=
  let va := headVa a
  let open_ := hideFaults s fun u => u.part == a.part && tlbHit a.part va u
  let t := runAny open_ { walk := true } a
  if !walkerFree s a.part va then s
  else if t.accesses.any fun b => b.id == a.id && b.stage == a.stage then t
  else
    let on (line : Nat) : Bool := match a.stage with | .parked _ l _ _ => l == line | _ => false
    let old (r : FaultRec) : Bool := r.part == a.part && on r.watch && decide (r.base ≤ va ∧ va < r.base + r.size)
    runAny (freeRecs open_ old) { walk := true } a
def rewalkAll : List Nat → State → State
  | [], s => s
  | id :: l, s =>
    match s.accesses.find? fun a => a.id == id && isParked a with
    | some a => rewalkAll l (rewalk s a)
    | none => rewalkAll l s
/-- MONITOR_REWALK (R330) (DEDUCED, log 70). -/
def execMonitorRewalk (slice : Nat) (s : State) : Host.Outcome State Fault Refusal :=
  if 256 ≤ slice then .fault .noSuchUnit
  else .next (rewalkAll ((s.accesses.filter (unwatched s slice)).map (·.id)) s)

/-- The agent that gathers tokens for an access (R177), by its die and its place in the die's persistent-request table
(R179): a far core's L1, a copy engine, or the home slice, for a home core, an atomic and a host request. -/
def agentOf (s : State) (a : Access) : Nat × Nat :=
  let home : Nat × Nat := (homeIn s a.part (headVa a) / 64, 128 + homeIn s a.part (headVa a) % 64)
  match a.kind with
  | .copy _ => (clusterFor s a.core / 16, 192 + clusterFor s a.core % 16)
  | .hostRead | .hostWrite | .amo _ _ _ _ _ => home
  | _ => if isFar a then (a.core / 128, a.core % 128) else home
def persistentSince (a : Access) : Option Nat := match a.stage with | .token _ p => p | _ => none
/-- The agent has a persistent request already (R179). -/
def agentBusy (s : State) (a : Access) : Bool :=
  s.accesses.any fun b => (persistentSince b).isSome && agentOf s b == agentOf s a
/-- TRANSIENT_TIMEOUT (R178): the attempt of the access at place n fails 2,048 cycles after it was sent; the fourth
makes it persistent. -/
def attemptFails (s : State) (n : Nat) : State :=
  match s.accesses[n]? with
  | none => s
  | some a =>
    match a.stage with
    | .token k none =>
      if s.cycle < a.sent + 2048 then s
      else if k < 3 then keepAccess (dropAccess s a.id) { a with stage := .token (k + 1) none, sent := s.cycle }
      else if agentBusy s a then s
      else keepAccess (dropAccess s a.id) { a with stage := .token 4 (some s.cycle), sent := s.cycle }
    | _ => s
def execTransientTimeout (n : Nat) (s : State) : Host.Outcome State Fault Refusal := .next (attemptFails s n)

/-- Of two persistent requests, the one served first (R179): the earlier, then the lower die, then the lower entry
(DEDUCED, log 30). -/
def servedFirst (s : State) (a b : Access) : Bool :=
  let x := agentOf s a
  let y := agentOf s b
  let c := (persistentSince a).getD 0
  let d := (persistentSince b).getD 0
  decide (c < d ∨ (c = d ∧ (x.1 < y.1 ∨ (x.1 = y.1 ∧ x.2 ≤ y.2))))
/-- (DEDUCED, log 30) -/
def firstServed (s : State) : List Access → Option Access
  | [] => none
  | a :: l => match firstServed s l with
    | none => some a
    | some b => some (if servedFirst s a b then a else b)
/-- The persistent requests for a line. -/
def standing (s : State) (p line : Nat) : List Access :=
  s.accesses.filter fun a => a.part == p && headVa a / 64 == line && (persistentSince a).isSome
/-- PERSISTENT_ACTIVATE (R179): the next persistent request for a line gathers every token and is performed; the wait of
those behind it begins anew. -/
def activate (s : State) (p line : Nat) : State :=
  let l := standing s p line
  match firstServed s l with
  | none => s
  | some a =>
    let t := runAny s { grant := true, active := true } a
    { t with accesses := t.accesses.map fun b => if l.any fun c => c.id == b.id then { b with sent := s.cycle } else b }
/-- The persistent requests whose activation is due: 40 cycles after that of the one before (R179). -/
def activations (s : State) : List (Nat × Nat) :=
  ((s.accesses.filter fun a => (persistentSince a).isSome && decide (a.sent + 40 ≤ s.cycle) &&
    (firstServed s (standing s a.part (headVa a / 64))).any fun b => b.id == a.id).map fun a => (a.part, headVa a / 64))
def execPersistentActivate (part line : Nat) (s : State) : Host.Outcome State Fault Refusal :=
  if 64 ≤ part then .fault .noSuchUnit else .next (activate s part line)

/-- The parts of a host request, one for each line it meets. -/
def hostPieces (write : Bool) : Nat → Nat → Nat → Nat → List Piece
  | 0, _, _, _ => []
  | fuel + 1, va, n, pos =>
    if n = 0 then []
    else
      let k := min n (64 - va % 64)
      { va := va, size := k, pos := pos, write := write } :: hostPieces write fuel (va + k) (n - k) (pos + k)
/-- A host request reaches its service core (R195, R196, R390): a function that is not in RUN accepts none; from the second
step of a cut to its end service cores take none, and the requests wait (R363). -/
def hostRequest (s : State) (p va size : Nat) (write : Bool) (data : Nat) : State :=
  let q := partAt s p
  let kind : AccessKind := if write then .hostWrite else .hostRead
  let a : Access :=
    { id := s.accessId, kind := kind, core := 0, ctx := 0, part := p, host := true, pc := 0, word := size,
      pieces := hostPieces write (size / 64 + 2) va size 0, data := data, cycle := s.cycle }
  if size == 0 then s
  else
    let s := { s with accessId := s.accessId + 1 }
    if !q.live || q.tdi != .run then refuseAccess s a 7 0 va
    else if takesNone s p then keepAccess s { a with stage := .untaken }
    else runHost s {} a
/-- HOST_WRITE. -/
def execHostWrite (part va : Nat) (bytes : List Byte) (s : State) : Host.Outcome State Fault Refusal :=
  if 64 ≤ part || 2 ^ 57 < va + bytes.length then .fault .noSuchUnit
  else .next (hostRequest s part va bytes.length true (pack 8 (fun i => (bytes.getD i 0).toNat) bytes.length))

/-- The key under which a slice holds a physical line, if one does. -/
def keyOfPa (s : State) (pa : Nat) : Option Nat :=
  s.slices.findSome? fun e => (e.2.lines.find? fun x => x.2.pa == pa / 64 * 64 && keyHome s x.1 == e.1).map (·.1)
/-- A line of this package's memory by its physical address: its bytes and full bits. -/
def paLine (s : State) (pa : Nat) : LineData × BitVec 8 :=
  match (keyOfPa s pa).bind fun k => homeLine s k with
  | some h => (h.data, h.full)
  | none =>
    (BitVec.ofNat 512 (hbmLine s (keyAt s.hbmKeys pa) (pa / 64 * 64)),
     if (frameAt s pa).sealed.getLsbD (pa / 64 % 64) then 0xFF else fget 0 s.wsMeta (pa / 64))
/-- A write of a window line that its slice does not hold fires its monitor too (R330). -/
def fireWindows (s : State) (pa : Nat) : State :=
  (s.parts.filter fun e => e.2.live && pa / 2 ^ 30 == windowPa e.2 / 2 ^ 30).foldl (fun s e =>
    fireMonitor s e.1 ((windowVa e.2 + pa % 2 ^ 30) / 64)) s
def setPaLine (s : State) (pa : Nat) (d : LineData) (full : BitVec 8) : State :=
  match keyOfPa s pa with
  | some k =>
    let s := wakeWord (modHome s k fun h => { h with data := d, full := full, dirty := true }) k
    if (homeLine s k).any fun h => h.ct == ctSC then fireMonitor s (keyPart k) (k % 2 ^ 51) else s
  | none => fireWindows { s with hbm := writeBytes s.hbm (pa / 64 * 64) 64 d.toNat, wsMeta := fset s.wsMeta (pa / 64) full } pa
/-- (DEDUCED, log 83) -/
def answerPeer (s : State) (pa : Nat) (d : Option LineData) : State := { s with peerOut := s.peerOut ++ [(pa, d)] }
/-- The full bits of a cleared line, and its sealed bit (R176, R186). -/
def dropSeal (s : State) (pa : Nat) : State :=
  setFrame s pa { frameAt s pa with sealed := (frameAt s pa).sealed &&& ~~~(BitVec.ofNat 64 (2 ^ (pa / 64 % 64))) }
/-- The physical address that a peer's request names. -/
def peerPa : PeerRequest → Nat
  | .miss pa | .writeback pa _ _ | .atomic pa _ _ _ | .fullWrite pa _ | .fullRead pa | .fullClear pa => pa
/-- A frame that a live partition has been granted and that is not poisoned (R198, R390, R398, R400). -/
def peerBad (s : State) (pa : Nat) : Bool :=
  decide (2 ^ 39 ≤ pa) || (frameAt s pa).poisoned || !s.parts.any fun e => e.2.live && granted e.2 pa
/-- The partition whose memory a peer's request names. -/
def peerOf (s : State) (r : PeerRequest) : Option Nat := (s.parts.find? fun e => e.2.live && granted e.2 (peerPa r)).map (·.1)
/-- In a cut, a request that comes once the link ports' markers have arrived is logged (R363). -/
def peerLogged (s : State) (r : PeerRequest) : Bool :=
  match peerOf s r with
  | none => false
  | some p => (match (partAt s p).cut with | some c => c.markers.any fun m => m.1 == unitLink | none => false)
/-- A peer's request that waits at its home: its line for an HBM retry, or a read for its word (R186, R198, R400); or
for the end of a cut. -/
def peerHeld (s : State) (r : PeerRequest) : Bool :=
  let pa := peerPa r
  if peerBad s pa then false
  else peerLogged s r || s.retries.contains (pa / 64) && (keyOfPa s pa).isNone ||
    (match r with | .fullRead pa => pa % 8 == 0 && (paLine s pa).2 &&& dwordMask (pa % 64) 8 == 0 | _ => false)
/-- A peer's operation on a line of its owning home (R198). A frame that no partition has, or that is poisoned,
refuses it (DEDUCED, log 83). -/
def peerNow (s : State) (r : PeerRequest) : State :=
  let bad (pa : Nat) : Bool := peerBad s pa
  match r with
  | .miss pa => answerPeer s pa (if bad pa then none else some (paLine s pa).1)
  | .writeback pa data mask =>
    if bad pa then answerPeer s pa none
    else
      let l := paLine s pa
      setPaLine s pa (lineMerge l.1 data mask) l.2
  | .atomic pa op b c =>
    if bad pa || pa % 8 != 0 then answerPeer s pa none
    else
      let l := paLine s pa
      let old := dn (lineGet l.1 (pa % 64) 8)
      let new := atomicNew op fsumD old b c
      let s := if op = 9 && old != c then s else setPaLine s pa (linePut l.1 (pa % 64) 8 new.toNat) l.2
      answerPeer s pa (some (BitVec.ofNat 512 old.toNat))
  | .fullWrite pa data =>
    let l := paLine s pa
    let m := dwordMask (pa % 64) 8
    if bad pa || pa % 8 != 0 || l.2 &&& m != 0 then answerPeer s pa none
    else answerPeer (setPaLine s pa (linePut l.1 (pa % 64) 8 data.toNat) (l.2 ||| m)) pa (some 0)
  | .fullRead pa =>
    let l := paLine s pa
    if bad pa || pa % 8 != 0 then answerPeer s pa none
    else answerPeer s pa (some (BitVec.ofNat 512 (lineGet l.1 (pa % 64) 8)))
  | .fullClear pa =>
    if bad pa then answerPeer s pa none
    else
      let s := match keyOfPa s pa with | some k => recallAll s k | none => s
      dropSeal (setPaLine s pa (paLine s pa).1 0) pa
/-- Link messages are delivered in the order sent (R362): one waits behind an earlier one that nothing holds at its home,
such as one replayed from a cut's log (R366). -/
def peerBehind (s : State) (earlier : List PeerRequest) : Bool := earlier.any fun x => !peerHeld s x
/-- PEER_REQUEST (R198): the request is performed in its turn, or waits. -/
def peerServe (s : State) (r : PeerRequest) : State :=
  if peerHeld s r || peerBehind s s.peerWait then { s with peerWait := s.peerWait ++ [r] } else peerNow s r
/-- The request at place i of those that wait can go on. -/
def peerFree (s : State) (i : Nat) : Bool :=
  (s.peerWait[i]?).any fun r => !peerHeld s r && !peerBehind s (s.peerWait.take i)
def peerOn (s : State) (i : Nat) : State :=
  match s.peerWait[i]? with
  | none => s
  | some r => if peerFree s i then peerNow { s with peerWait := s.peerWait.eraseIdx i } r else s
def execPeerRequest (request : PeerRequest) (s : State) : Host.Outcome State Fault Refusal := .next (peerServe s request)

/-- The oldest of some requests for leave (R399): by cycle, then the lower core (DEDUCED, log 84). -/
def oldestLeave : List LeaveReq → Option LeaveReq
  | [] => none
  | a :: l => match oldestLeave l with
    | none => some a
    | some b => some (if a.cycle < b.cycle ∨ (a.cycle = b.cycle ∧ a.core ≤ b.core) then a else b)
/-- A wait for leave is counted (R401): by die and kind, by the logarithm of its cycles. -/
def countLeave (s : State) (die kind wait : Nat) : State :=
  let k := die * 128 + kind * 64 + ilog2 wait
  { s with lifetime := { s.lifetime with leaves := fset s.lifetime.leaves k (fget 0 s.lifetime.leaves k + 1) } }
/-- POWER_LEAVE_GRANT (R399): the oldest request of a kind, while its holders are below the limit (DEDUCED, log 84). -/
def grantLeave (s : State) (die kind : Nat) : State :=
  let d := dieAt s die
  let lim := if kind = 0 then d.blim else d.clim
  if lim ≤ (d.holders.filter fun r => r.kind == kind).length then s
  else match oldestLeave (d.leaveQ.filter fun r => r.kind == kind) with
    | none => s
    | some r =>
      let s := modDie s die fun d =>
        { d with leaveQ := d.leaveQ.filter fun x => !(x == r), holders := d.holders ++ [r] }
      let s := countLeave s die kind (s.cycle - r.cycle)
      if kind = 0 then
        match (cluAt s (r.core / 8)).chosen with
        | some b => if b.core == r.core && b.ctx == r.ctx then beginLease s b else s
        | none => s
      else s
def execPowerLeaveGrant (die kind : Nat) (s : State) : Host.Outcome State Fault Refusal :=
  if 4 ≤ die || 2 ≤ kind then .fault .noSuchUnit else .next (grantLeave s die kind)
/-- LIMIT_CHANGE (R399). -/
def execLimitChange (die kind value : Nat) (s : State) : Host.Outcome State Fault Refusal :=
  if 4 ≤ die || 2 ≤ kind then .fault .noSuchUnit
  else .next (modDie s die fun d => if kind = 0 then { d with blim := min value 16 } else { d with clim := min value 64 })

/-- HBM_READ_ERROR (R400): a line that no slice holds waits for its one retry. -/
def readError (s : State) (line : Nat) : State :=
  if s.retries.contains line || (keyOfPa s (64 * line)).isSome then s else { s with retries := s.retries ++ [line] }
/-- (DEDUCED, log 66) -/
def execHbmReadError (line : Nat) (s : State) : Host.Outcome State Fault Refusal := .next (readError s line)
/-- A count in a map rises by one (DESIGN CHOICE, log 68). -/
def countUp (m : FMap Nat) (k : Nat) : FMap Nat := fset m k (fget 0 m k + 1)
/-- Runs the accesses that waited on a line again; a walk among them goes on where it stood (R316). -/
def runWaiting : List Nat → State → State
  | [], s => s
  | id :: l, s =>
    match s.accesses.find? fun a => a.id == id with
    | some a => runWaiting l (runAny s { walk := inWalk a } a)
    | none => runWaiting l s
/-- An access waits for the retry of a line: of its own, or of a table's (R400). -/
def onRetry (line : Nat) (a : Access) : Bool :=
  match a.stage with
  | .hbm l | .table l _ => l == line
  | _ => false
/-- A frame leaves a partition's grants (R400) (DEDUCED, log 67). -/
def removeFrame (l : List (Nat × Nat)) (pa : Nat) : List (Nat × Nat) :=
  (l.map fun r =>
    if r.1 ≤ pa ∧ pa < r.1 + r.2 then
      [(r.1, pa - r.1), (pa + 4096, r.1 + r.2 - (pa + 4096))].filter fun x => x.2 != 0
    else [r]).flatten
/-- The frame is poisoned; then it is removed from its partition and reported (R400) (DEDUCED, log 67). -/
def poison (s : State) (pa : Nat) : State := setFrame s pa { frameAt s pa with poisoned := true }
def reportPoison (s : State) (pa : Nat) : State :=
  { s with parts := s.parts.map fun (e : Nat × Partition) => (e.1, { e.2 with granted := removeFrame e.2.granted pa }),
           poisonLog := s.poisonLog ++ [pa] }
/-- A refused access (R201), with the open parts of an STVX (R207). -/
def refuseHead (s : State) (a : Access) (cause : Nat) : State :=
  let s := dropAccess s a.id
  refuseAccess (match a.kind with | .stvx => scatterSome (a.pieces.drop 1) s a | _ => s) a cause 0 (headVa a)
/-- The accesses that wait on a line whose retry has failed are refused UNCORR; those that wait for it on the way to their
own, a table's or a template's, run on to their refusal (R144, R400). -/
def refuseWaiting (line : Nat) : List Nat → State → State
  | [], s => s
  | id :: l, s =>
    match s.accesses.find? fun a => a.id == id with
    | some a =>
      let own := a.stage == .hbm line && (match a.kind with | .amo 11 _ _ _ _ => false | _ => true)
      refuseWaiting line l (if own then refuseHead s a 0x17 else runAny s { walk := inWalk a } a)
    | none => refuseWaiting line l s
/-- HBM_RETRY (R400): the accesses that wait are performed with the retried data, or are refused UNCORR. -/
def retryDone (s : State) (line : Nat) (ok : Bool) : State :=
  if !s.retries.contains line then s
  else
    let st := Config.stackOf line % 8
    let s := { s with retries := s.retries.filter (· != line) }
    let ids := (s.accesses.filter (onRetry line)).map (·.id)
    let l := s.lifetime
    if ok then runWaiting ids { s with lifetime := { l with transient := countUp l.transient st } }
    else
      let pa := 64 * line / 4096 * 4096
      reportPoison (refuseWaiting line ids (poison { s with lifetime := { l with poisonedN := countUp l.poisonedN st } } pa)) pa
/-- (DEDUCED, log 66) -/
def execHbmRetry (line : Nat) (succeeds : Bool) (s : State) : Host.Outcome State Fault Refusal :=
  .next (retryDone s line succeeds)

end Sys2Proof.Machine
end

