-- ==== Sys2Proof/Machine/Debug.lean ====
section
/-! DEFINITION. Debug modules, sampling, dumps and the lifetime counters (spec/21 R367-R379, spec/23 R397, R401). -/

namespace Sys2Proof.Machine

/-- WPCn as a write stores it (R371): reserved bits 0, a length outside 3 to 21 as 3 (DEDUCED, log 88). -/
def wpcStored (v : Dword) : Dword :=
  let n := bits v.toNat 0 6
  (v &&& 0xF000000000000000) ||| dn (if 3 ≤ n ∧ n ≤ 21 then n else 3)
/-- A register of a core's debug module takes a value (R368-R373): DSTAT and the counters take none (DEDUCED, log 88).
-/
def debugWrite (s : State) (n off : Nat) (v : Dword) : State :=
  let bp (i : Nat) : State := modCore s n fun c => { c with bp := c.bp.set i (v &&& 0xC00000000000FFFF) }
  match off with
  | 0x00 =>
    let s := modCore s n fun c => { c with dctl := v &&& 8 }
    let s := if v.getLsbD 1 then debugResume s n else s
    if v.getLsbD 0 then debugStop s n else s
  | 0x10 => bp 0
  | 0x18 => bp 1
  | 0x20 => bp 2
  | 0x28 => bp 3
  | 0x30 => modCore s n fun c => { c with wpa := c.wpa.set 0 v }
  | 0x38 => modCore s n fun c => { c with wpa := c.wpa.set 1 v }
  | 0x40 => modCore s n fun c => { c with wpc := c.wpc.set 0 (wpcStored v) }
  | 0x48 => modCore s n fun c => { c with wpc := c.wpc.set 1 (wpcStored v) }
  | 0x50 => modCore s n fun c => { c with trctl := v &&& 0x81FFFFFFFFFF0000 }
  | _ => s
/-- A facility of the debug policy is open to the tenant (R367, R390): 0 STOP, 1 TRACE, 2 SAMPLE, 3 COUNT, 4 DUMP. -/
def facility (s : State) (n i : Nat) : Bool :=
  (coreAt s n).part.isSome && (partAt s (partOf s n)).policy.getLsbD i && (partAt s (partOf s n)).tdi == .run
/-- A write of a core's debug module (R367, R368): TRCTL belongs to TRACE, the others to STOP. -/
def moduleWrite (s : State) (core offset : Nat) (value : Dword) : State :=
  if facility s core (if offset = 0x50 then 1 else 0) then debugWrite s core offset value else s

/-- Where the end of a unit of work stands that its context's accesses, copies, commands or seconds hold (R39, R49): by
the first row of R49 that names it; UPCRET waits for accesses alone (DEDUCED, log 121). -/
def endState (s : State) : Instr → Nat
  | .upcret _ => 2
  | _ =>
    if copiesLeft s s.core s.ctx || commandsLeft s s.core s.ctx then 4
    else if secondsLag s s.core s.ctx then 3 else 2
/-- Where a context that waits for issue stands (R49): on copies or commands, on another party, its rope among them, or
on a register or its own accesses (DEDUCED, log 121). -/
def issueState (s : State) : Nat :=
  if (accessesOf s s.core s.ctx).any (·.blocking) then 2
  else if ropeStopped s s.core s.ctx || (match (cur s).rope, (cur s).fwd with
    | .second n k, b :: _ => decide (ropeClock s n k < b.due)
    | .second _ _, [] => true
    | _, _ => false) then 3
  else match (fetchNext s).1 with
    | .bundle is =>
      let l := is.map (·.1)
      if (emptyTrap s (cur s).pc is).isSome then 1
      else if !ready s l then 2
      else if ropeFull s then 3
      else if (entryTrapOf s (cur s).pc l).isSome then (if semvFull s (cur s).pc l && ownAccess s then 3 else 1)
      else match l.find? (endHolds s) with | some i => endState s i | none => 1
    | _ => 1
/-- The state of a context as sampling names it (R49, R375). -/
def sampleState (s : State) (n k : Nat) : Nat :=
  let c := ctxAt s n k
  if !c.running then 0
  else if c.stopped || (coreAt s n).halted then 6
  else if ctxParked s n k then 5
  else match c.trapWait, c.wait with
    | some _, _ => if copiesLeft s n k || commandsLeft s n k then 4 else 3
    | none, some w =>
      if endWaits w then endState { s with core := n, ctx := k } w.instr
      else (match w.sub with
      | .running => 2 | .full => 2 | .barrier => 3 | .copy => 4 | .parked => 5 | .stopped => 6)
    | none, none => if c.starting.isSome then 2 else issueState { s with core := n, ctx := k, latch := none }

/-- The slots of a partition (R375): the contexts of its cores in ascending order. -/
def sampleSlots (s : State) (p : Nat) : List (Nat × Nat) :=
  ((coresOf s p).map fun n => (List.range (Config.contexts n)).map fun k => (n, k)).flatten
/-- A snapshot: state and bundle index of each slot; a dormant slot keeps the index it had. -/
def snapSlots (s : State) (p : Nat) : List (Nat × Nat) :=
  ((sampleSlots s p).zipIdx).map fun e =>
    let st := sampleState s e.1.1 e.1.2
    (st, if st = 0 then (fget (0, 0) (partAt s p).sampRef e.2).2 else nextPc s e.1.1 e.1.2 / 8 % 65536)
/-- A token's bits, least significant first: op, state and operand (R377). -/
def bitList : Nat → Nat → List Bool
  | 0, _ => []
  | n + 1, v => (v % 2 == 1) :: bitList n (v / 2)
/-- The longest run of slots equal to their reference. -/
def sameRun : List ((Nat × Nat) × (Nat × Nat)) → Nat
  | [] => 0
  | e :: l => if e.1 = e.2 then sameRun l + 1 else 0
/-- The tokens of a body (R377): `skip` slots are covered by a SAME token already written. -/
def sampleTokens : List ((Nat × Nat) × (Nat × Nat)) → Nat → List Bool
  | [], _ => []
  | _ :: l, skip + 1 => sampleTokens l skip
  | e :: l, 0 =>
    if e.1 = e.2 then
      let n := min 64 (sameRun (e :: l))
      bitList 2 0 ++ bitList 6 (n - 1) ++ sampleTokens l (n - 1)
    else if e.1.2 = e.2.2 then bitList 2 1 ++ bitList 3 e.1.1 ++ sampleTokens l 0
    else
      let d : Int := (e.1.2 : Int) - e.2.2
      (if -128 ≤ d ∧ d ≤ 127 then bitList 2 2 ++ bitList 3 e.1.1 ++ bitList 8 (d % 256).toNat
       else bitList 2 3 ++ bitList 3 e.1.1 ++ bitList 16 e.1.2) ++ sampleTokens l 0
def packBits : List Bool → Nat
  | [] => 0
  | b :: l => bit01 b + 2 * packBits l
/-- A record's dwords (R376): the header and the padded body. -/
def sampleRecord (cycle per slots : Nat) (lost key : Bool) (body : List Bool) : List Nat :=
  let w := packBits body
  [1 + bit01 key * 2 ^ 8 + bit01 lost * 2 ^ 9 + slots * 2 ^ 16 + cycle / 2 ^ per % 2 ^ 32 * 2 ^ 32, cycle, body.length] ++
  (List.range ((body.length + 63) / 64)).map fun i => bits w (64 * i) 64

/-- A dword read by the device at a virtual address of a partition; none when it cannot be read now, or is refused. -/
def deviceRead (s : State) (p va : Nat) : Option (State × Nat) :=
  match performRead s { walk := walkerFree s p va, grant := true } (deviceAccess p) va 8 false false with
  | .done s v _ => some (s, v)
  | _ => none
/-- Stores a record's dwords in the ring from byte count `at`. -/
def storeRecord (p base size : Nat) : List Nat → State → Nat → DevWrite
  | [], s, _ => .done s
  | w :: l, s, n =>
    match deviceWrite s p (base + 64 + n % (size - 64)) 1 w with
    | .done s => storeRecord p base size l s (n + 8)
    | r => r
/-- The tick's record (R376): lost when it does not fit or cannot be stored now; a refused store clears EN
(DEDUCED, log 85). -/
def writeSample (s : State) (p : Nat) (slots : List (Nat × Nat)) : State :=
  let q := partAt s p
  let cfg := q.sampcfg.toNat
  let per := bits cfg 8 5
  let size := 2 ^ (21 + bits cfg 56 4)
  let base := bits cfg 20 36 * 2 ^ 21
  let key := q.sampCount % 256 == 0 || q.sampLost
  let ref (i : Nat) : Nat × Nat := if key then (0, 0) else fget (0, 0) q.sampRef i
  let body := sampleTokens ((slots.zipIdx).map fun e => (e.1, ref e.2)) 0
  let rec_ := sampleRecord s.cycle per slots.length q.sampLost key body
  let lost (s : State) : State := modPart s p fun q => { q with sampLost := true }
  match deviceRead s p base with
  | none => lost s
  | some (s, wr) => match deviceRead s p (base + 8) with
    | none => lost s
    | some (s, rd) =>
      if size - 64 + rd < wr + 8 * rec_.length then lost s
      else match storeRecord p base size rec_ s wr with
        | .late => lost s
        | .refused s => modPart s p fun q => { q with sampcfg := q.sampcfg &&& ~~~(dn (2 ^ 63)) }
        | .done s => match deviceWrite s p base 1 (wr + 8 * rec_.length) with
          | .late => lost s
          | .refused s => modPart s p fun q => { q with sampcfg := q.sampcfg &&& ~~~(dn (2 ^ 63)) }
          | .done s => modPart s p fun q => { q with sampCount := q.sampCount + 1, sampLost := false }
def slotMap : List (Nat × Nat) → Nat → FMap (Nat × Nat)
  | [], _ => []
  | e :: l, i => (i, e) :: slotMap l (i + 1)
/-- A tick is due (R374): EN is set, SAMPLE is open, and CYCLE is a multiple of 2^PER. -/
def tickDue (s : State) (p : Nat) : Bool :=
  let q := partAt s p
  q.live && q.sampcfg.getLsbD 63 && q.policy.getLsbD 2 && s.cycle % 2 ^ bits q.sampcfg.toNat 8 5 == 0 &&
  q.sampAt != some s.cycle
/-- SAMPLE_TICK (R375) (DEDUCED, log 85). -/
def execSampleTick (part : Nat) (s : State) : Host.Outcome State Fault Refusal :=
  if 64 ≤ part then .fault .noSuchUnit
  else if !tickDue s part then .next s
  else
    let slots := snapSlots s part
    .next (modPart (writeSample s part slots) part fun q => { q with sampRef := slotMap slots 0, sampAt := some s.cycle })

/-- The core's trace ring as memory holds it (R373); empty where it cannot be read. -/
def traceRing (s : State) (p base : Nat) : Nat → List Byte
  | 0 => []
  | n + 1 =>
    match deviceRead s p (base + 8 * n) with
    | some (_, v) => traceRing s p base n ++ toBytes v 8
    | none => traceRing s p base n
/-- The plain text of a core's dump (R379): a save image for each stopped or running context, then the ring. -/
def dumpText (s : State) (n : Nat) : List Byte :=
  let p := partOf s n
  ((List.range (Config.contexts n)).filter fun k => (ctxAt s n k).running).foldr
    (fun k l => toBytes (image s n k ((ownAccesses s n k).find? heldByPark)) 65536 ++ l)
    (traceRing s p (trBase (coreAt s n).trctl) 8192)
/-- The key and nonce of a dump (R397). -/
def dumpKeyOf (q : Partition) (n cycle : Nat) : Nat :=
  Config.shake256 (toBytes q.dumpKey.toNat 32 ++ toBytes n 8 ++ toBytes cycle 8) 32
/-- (DESIGN CHOICE, log 87) -/
def dumpNonce (n count : Nat) : Nat := n + count * 2 ^ 32
/-- A dump (R379, R397): its header carries CYCLE in clear; it leaves through the service window, or through the
side-band port when the link is down (DESIGN CHOICE, log 87). -/
def dumpCore (s : State) (n cycle : Nat) : State :=
  let p := partOf s n
  let q := partAt s p
  let d := toBytes cycle 8 ++ Config.aesGcm (dumpKeyOf q n cycle) (dumpNonce n q.dumpCount) (dumpText s n)
  modPart s p fun q => { q with dumpCount := q.dumpCount + 1, dumps := q.dumps ++ [(s.linkDown, d)] }
/-- DUMP_REQUEST (R379). -/
def execDumpRequest (core : Nat) (s : State) : Host.Outcome State Fault Refusal :=
  if noCore core then .fault .noSuchUnit
  else .next (if facility s core 4 then
    dumpCore s core (if (coreAt s core).halted then (coreAt s core).haltAt else s.cycle) else s)
/-- The dumps that stop reports have made due. -/
def dueDumps (s : State) (p : Nat) : State :=
  let l := (partAt s p).dumpDue
  let s := modPart s p fun q => { q with dumpDue := [] }
  l.foldl (fun s e => if (partAt s p).policy.getLsbD 4 then dumpCore s e.1 e.2 else s) s

/-- PCIE_LINK_DOWN (R379). -/
def execPcieLinkDown (down : Bool) (s : State) : Host.Outcome State Fault Refusal := .next { s with linkDown := down }
/-- Counts risen at their keys. -/
def risen (m : FMap Nat) (l : List (Nat × Nat)) : FMap Nat := l.foldl (fun m e => fset m e.1 (fget 0 m e.1 + e.2)) m
/-- Corrected errors by HBM bank and SRAM tier macro, droops in 8 depth bins, and temperatures by die and 2 °C bin as
the device has counted them (R401): what it corrects and senses is outside the model, so that counts of any bank, macro
and bin rise, by free amounts (DESIGN CHOICE, log 68). -/
def sensed (s : State) : State :=
  let rises (i : Nat) : List (Nat × Nat) := Config.sensedRises (s.free + i)
  { s with
    free := s.free + 3
    lifetime := { s.lifetime with
      corrected := risen s.lifetime.corrected (rises 0)
      droops := risen s.lifetime.droops ((rises 1).filter fun e => decide (e.1 < 8))
      temps := risen s.lifetime.temps (rises 2) } }
/-- LIFETIME_FLUSH (R401): the copy in flash is replaced once the new one verifies. -/
def execLifetimeFlush (verifies : Bool) (s : State) : Host.Outcome State Fault Refusal :=
  .next (let s := sensed s; if verifies then { s with flash := s.lifetime } else s)
/-- COUNTER_READ (R401). -/
def execCounterRead (s : State) : Host.Outcome State Fault Refusal :=
  .next (let s := sensed s; { s with reads := s.reads ++ [s.lifetime] })

end Sys2Proof.Machine
end

