-- ==== Sys2Proof/Machine/Firmware.lean ====
section
/-! DEFINITION. Partitions and their life (spec/23 R390-R393), launch and release records (spec/03 R57-R59; spec/20
R354), starts (spec/23 R398), the TDI (R390), and attestation (R394-R396). A command that a check refuses changes
nothing but its answer. -/

namespace Sys2Proof.Machine

/-- The number of units of the package that a partition number has (R4). -/
def noPart (p : Nat) : Bool := 64 ≤ p
/-- A service window of the partition accepts requests (R390). -/
def windowOpen (s : State) (p : Nat) : Bool := (partAt s p).live && (partAt s p).tdi == .run
/-- The virtual function raises an MSI-X vector (R391). -/
def interrupt (s : State) (p v : Nat) : State := modPart s p fun q => { q with msix := q.msix ++ [v] }

/-- The physical ranges of a create command's runs of frames. -/
def grantRanges (l : List (Nat × Nat)) : List (Nat × Nat) := l.map fun r => (4096 * r.1, 4096 * r.2)
def inRanges (l : List (Nat × Nat)) (pa : Nat) : Bool := l.any fun r => decide (r.1 ≤ pa ∧ pa < r.1 + r.2)
def rangesMeet (l m : List (Nat × Nat)) : Bool :=
  l.any fun a => m.any fun b => decide (a.1 < b.1 + b.2 ∧ b.1 < a.1 + a.2)
/-- The frames of some ranges are zeroed under a key and their records cleared; a poisoned frame stays poisoned (R154,
R176, R390, R400). -/
def zeroFrames (s : State) (l : List (Nat × Nat)) (key : BitVec 512) : State :=
  { s with
    hbm := s.hbm.filter fun e => !inRanges l e.1
    hbmKeys := (l.map fun r => (r.1, r.2, key)) ++ s.hbmKeys.filter fun r => !l.contains (r.1, r.2.1)
    wsMeta := s.wsMeta.filter fun e => !inRanges l (64 * e.1)
    frames := s.frames.map fun (e : Nat × Frame) =>
      if inRanges l (4096 * e.1) then (e.1, { e.2 with owner := none, sealed := 0 }) else e }
/-- The keys that firmware derives from the drawn bytes (R393): the memory key, then HKEY. -/
def deriveKeys (p : Nat) (random : BitVec 512) : BitVec 512 × Dword :=
  let w := Config.shake256 (Config.rootSecret ++ toBytes random.toNat 64 ++ [0x4D, 0x45, 0x4D] ++ toBytes p 1) 72
  (BitVec.ofNat 512 w, dn (w / 2 ^ 512))
/-- A create command breaks R390: an empty or unknown unit, one that another partition holds, frames outside the
memory or granted already, a partition number in use, or firmware that did not measure (R398) (DEDUCED, log 90). -/
def createBad (s : State) (c : PartitionSpec) : Bool :=
  let others := (s.parts.filter fun e => e.2.live).map (·.2)
  !s.measured || (partAt s c.part).live || c.clusters.isEmpty || c.slices.isEmpty ||
  c.clusters.any (64 ≤ ·) || c.slices.any (256 ≤ ·) ||
  others.any (fun o => c.clusters.any o.clusters.contains || c.slices.any o.slices.contains ||
    rangesMeet (grantRanges c.frames) o.granted) ||
  (grantRanges c.frames).any fun r => decide (2 ^ 39 < r.1 + r.2)
/-- The cores of a new partition hold their reset values, TBUDGET within the ceiling (R65). -/
def bringUp (p : Nat) (ceiling : BitVec 40) : List Nat → FMap Core → FMap Core
  | [], m => m
  | n :: l, m =>
    let old := fget {} m n
    let new : Core :=
      { part := some p, tbudget := dn (min 0x1000000 ceiling.toNat), counters := old.counters }
    bringUp p ceiling l (fset m n new)
/-- What a slice keeps of a partition goes (R392). -/
def clearSlice (p : Nat) (x : Slice) : Slice :=
  { parts := fdel x.parts p
    lines := x.lines.filter fun e => !(keyPart e.1 == p)
    sigs := x.sigs.filter fun e => !(keyPart e.line == p)
    tlb1 := x.tlb1.filter fun t => !(t.part == p)
    tlb2 := x.tlb2.filter fun t => !(t.part == p)
    walks := x.walks.filter fun e => !(e.part == p)
    monitors := x.monitors.filter fun m => !(m.1 == p)
    ranges := x.ranges.filter fun (r : Nat × Nat × Nat × Nat) => !(r.2.1 == p)
    hostbuf := x.hostbuf
    hwfull := x.hwfull.filter fun e => !(keyPart e.1 == p) }
/-- PARTITION_CREATE (R390): the frames are zeroed, the spill and full-bit areas stand empty at every slice, and
PTROOT and WALKCFG are written, their reserved bits 0 (R326, R327). -/
def createPart (s : State) (c : PartitionSpec) : State :=
  if createBad s c then s
  else
    let k := deriveKeys c.part c.entropy
    let s := zeroFrames s (grantRanges c.frames) k.1
    let s := { s with slices := s.slices.map fun (e : Nat × Slice) => (e.1, clearSlice c.part e.2) }
    let s := modPart s c.part fun q =>
      { live := true, clusters := c.clusters, slices := c.slices, granted := grantRanges c.frames, ceiling := c.ceiling,
        ptroot := c.ptroot &&& 0x000FFFFFFFFFF000, walkcfg := c.walkcfg &&& 0x01FFFFFFC3000000, hkey := k.2, memKey := k.1, image := q.image }
    { s with cores := bringUp c.part c.ceiling (coresOf s c.part) s.cores }
/-- (DESIGN CHOICE, log 6; DEDUCED, log 90) -/
def execPartitionCreate (spec : PartitionSpec) (s : State) : Host.Outcome State Fault Refusal :=
  if noPart spec.part then .fault .noSuchUnit else .next (createPart s spec)

/-- A partition's buffered host writes go with it (R392). -/
def clearBuffer (p : Nat) (x : Slice) : Slice := { x with hostbuf := x.hostbuf.filter fun e => e.part != p }
/-- What a die keeps of a partition goes (R392). -/
def clearDie (s : State) (p : Nat) (x : Die) : Die :=
  { x with
    faultbuf := fdel x.faultbuf p, dropped := fdel x.dropped p
    holders := x.holders.filter fun r => !inPart s p r.core
    leaveQ := x.leaveQ.filter fun r => !inPart s p r.core
    poolWalks := x.poolWalks.filter fun e => !(e.part == p) }
/-- PARTITION_TEARDOWN (R392): nothing is written back, and its mailbox's session ends (R396); a cut that firmware has
recorded is kept (DEDUCED, log 99). -/
def teardown (s : State) (p : Nat) : State :=
  let q := partAt s p
  if !q.live then s
  else
    let s := { s with
      cores := s.cores.map fun (e : Nat × Core) =>
        if e.2.part == some p then (e.1, {}) else (e.1, { e.2 with l1 := e.2.l1.filter fun x => !(keyPart x.1 == p) })
      clusters := s.clusters.map fun (e : Nat × Cluster) => if q.clusters.contains e.1 then (e.1, {}) else e
      slices := s.slices.map fun (e : Nat × Slice) => (e.1, clearBuffer p (clearSlice p e.2))
      dies := s.dies.map fun (e : Nat × Die) => (e.1, clearDie s p e.2)
      accesses := s.accesses.filter fun a => !(a.part == p)
      reqs := s.reqs.filter fun q => !inPart s p q.core
      msgs := s.msgs.filter fun m => !(msgPart m == p)
      exchanges := s.exchanges.filter (· != p + 1)
      sessions := s.sessions.filter (· != p + 1) }
    modPart (zeroFrames s q.granted 0) p fun q => { image := q.image }
def execPartitionTeardown (part : Nat) (s : State) : Host.Outcome State Fault Refusal :=
  if noPart part then .fault .noSuchUnit else .next (teardown s part)

/-- WARM_START (R398): every partition is destroyed and CYCLE is zeroed; HBM keeps its ciphertext, and the prefetch
counters, the limits, the lifetime counters and the signature index are kept (DEDUCED, log 91). -/
def warmState (s : State) (measured : Bool) : State :=
  { cycle := 0, schedule := s.schedule, core := 0, ctx := 0, free := s.free, turn := s.turn,
    cores := s.cores.map fun (e : Nat × Core) => (e.1, { counters := e.2.counters }),
    dies := s.dies.map fun (e : Nat × Die) => (e.1, { blim := e.2.blim, clim := e.2.clim }),
    parts := s.parts.map fun (e : Nat × Partition) => (e.1, { image := e.2.image }),
    accessId := s.accessId, copyId := s.copyId, hbm := s.hbm, hbmKeys := s.hbmKeys, frames := s.frames, wsMeta := s.wsMeta,
    hostMem := s.hostMem, peerMem := s.peerMem, peerOut := s.peerOut, peerFull := s.peerFull, xmss := s.xmss,
    spdm := s.spdm, measured := measured, linkDown := s.linkDown,
    lifetime := { s.lifetime with warm := s.lifetime.warm + 1 }, flash := s.flash, reads := s.reads,
    poisonLog := s.poisonLog, refusedWb := s.refusedWb }
def execWarmStart (measured : Bool) (s : State) : Host.Outcome State Fault Refusal := .next (warmState s measured)
/-- COLD_START (R398): the package as after reset; the lifetime counters, the signature index, the frames found
poisoned, and what lies outside the package are kept. Whether its firmware measures is open (DEDUCED, log 91). -/
def coldState (s : State) : State :=
  let (b, s) := freeBit s
  { State.reset with
    schedule := s.schedule, free := s.free
    frames := (s.frames.filter fun e => e.2.poisoned).map fun (e : Nat × Frame) => (e.1, { poisoned := true })
    accessId := s.accessId, copyId := s.copyId
    hostMem := s.hostMem, peerMem := s.peerMem, peerOut := s.peerOut, peerFull := s.peerFull, xmss := s.xmss
    spdm := s.spdm, measured := b, linkDown := s.linkDown
    lifetime := { s.lifetime with cold := s.lifetime.cold + 1 }, flash := s.flash, reads := s.reads
    poisonLog := s.poisonLog, refusedWb := s.refusedWb }
def execColdStart (s : State) : Host.Outcome State Fault Refusal := .next (coldState s)

/-- TDISP_REQUEST (R390): CONFIG_UNLOCKED, CONFIG_LOCKED, RUN; a request out of its state changes nothing. -/
def tdispNext : TdispRequest → Tdi → Tdi
  | .lock, .unlocked => .locked
  | .start, .locked => .run
  | .stop, _ => .unlocked
  | _, t => t
def execTdispRequest (part : Nat) (request : TdispRequest) (s : State) : Host.Outcome State Fault Refusal :=
  if noPart part then .fault .noSuchUnit
  else .next (if (partAt s part).live then modPart s part fun q => { q with tdi := tdispNext request q.tdi } else s)

/-- A launch record that its service core refuses (R57): a reserved field, START, or BODYT (DEDUCED, log 93). -/
def launchBad (r : LaunchRecord) : Bool :=
  bits r.cls.toNat 2 62 != 0 || r.res4 != 0 || r.res5 != 0 || r.res6 != 0 || r.start.toNat % 8 != 0 ||
  crForbids 0 0x001 r.bodyt
/-- The service core goes on with a launch record (R58, R59): it accepts or refuses it once no load runs, and starts
its stub on the base camp when that has a dormant context and is not stopped for debug (DEDUCED, log 93). -/
def launchOn (s : State) (p : Nat) : State :=
  let q := partAt s p
  match q.launchQ with
  | none => s
  | some r =>
    if q.loading then s
    else if !q.launchAcc && launchBad r then
      modPart s p fun q => { q with launchQ := none, launchGo := BitVec.allOnes 64 }
    else
      let s := if q.launchAcc then s
        else modPart (setBodytab s p r.bodyt) p fun q => { q with launchAcc := true }
      let n := baseCamp s p
      match freeCtx s n with
      | none => s
      | some k =>
        if (coreAt s n).halted then s
        else
          let s := beginCtx (acquireAll s n) n k r.start.toNat (BitVec.ofNat 2 r.cls.toNat)
          let s := modCtx s n k fun c => writeX c 3 r.ap
          interrupt (modPart s p fun q => { q with launchQ := none, launchAcc := false, launchGo := 0 }) p 1
/-- A launch record's GO is written nonzero (R57-R59): the record is taken as it stood then, and a dword written between
GO and its acceptance changes nothing (DESIGN CHOICE, log 129); a record written before the last one's GO is answered is
none. -/
def launchRec (s : State) (p : Nat) (r : LaunchRecord) : State :=
  if (partAt s p).launchQ.isSome || r.go == 0 then s
  else launchOn (modPart s p fun q => { q with launchQ := some r, launchAcc := false, launchGo := r.go }) p

/-- A release record (R354, R391): a context stopped under R354 becomes dormant, with no release, send or retirement
(DEDUCED, log 75). -/
def releaseStopped (s : State) (p : Nat) (w : Dword) : State :=
  let n := bits w.toNat 0 10
  let k := bits w.toNat 10 3
  if w.getLsbD 63 && inPart s p n && decide (k < Config.contexts n) && (ctxAt s n k).stopped then
    makeDormant (leaveRope s n k) n k
  else s

/-- Mailboxes (R394): 0 the physical function's, PARTID + 1 a virtual function's, 65 the I3C port's. -/
def noMailbox (m : Nat) : Bool := 65 < m
def mailboxPart (m : Nat) : Option Nat := if 1 ≤ m ∧ m ≤ 64 then some (m - 1) else none
/-- A mailbox of a function that is up (R390, R398): a virtual function's is while its partition lives, which none does
after a start that failed to measure. -/
def mailboxUp (s : State) (m : Nat) : Bool :=
  match mailboxPart m with | some p => s.measured && (partAt s p).live | none => true
def spdmOf : SpdmAnswer → Nat
  | .version m _ | .capabilities m _ | .algorithms m _ _ _ | .digests m _ | .certificate m _ | .signed m _ _
  | .measurement m _ _ _ | .sessionEnd m | .finished m | .vendor m _ | .errorUnspecified m => m
/-- The answer of a mailbox, if it is up. -/
def answer (s : State) (a : SpdmAnswer) : State :=
  if mailboxUp s (spdmOf a) then { s with spdm := s.spdm ++ [a] } else s
def spdmAnswer (mailbox : Nat) (a : SpdmAnswer) (s : State) : Host.Outcome State Fault Refusal :=
  if noMailbox mailbox then .fault .noSuchUnit else .next (answer s a)
/-- SPDM 1.3 (R394). -/
def spdmVersion : Nat := 0x13
def spdmCodes : List SpdmCode :=
  [.getVersion, .getCapabilities, .negotiateAlgorithms, .getDigests, .getCertificate, .challenge, .getMeasurements,
   .keyExchange, .finish, .endSession, .vendorDefinedRequest]
/-- (DESIGN CHOICE, log 92) -/
def digest (l : List Byte) : BitVec 512 := BitVec.ofNat 512 (Config.shake256 l 64)
def execGetVersion (mailbox : Nat) (s : State) := spdmAnswer mailbox (.version mailbox spdmVersion) s
def execGetCapabilities (mailbox : Nat) (s : State) := spdmAnswer mailbox (.capabilities mailbox spdmCodes) s
def execNegotiateAlgorithms (mailbox : Nat) (s : State) :=
  spdmAnswer mailbox (.algorithms mailbox .shake256x64 .aes256Gcm .xmssShake256h20) s
def execGetDigests (mailbox : Nat) (s : State) := spdmAnswer mailbox (.digests mailbox (digest Config.certChain)) s
def execGetCertificate (mailbox : Nat) (s : State) := spdmAnswer mailbox (.certificate mailbox Config.certChain) s

def maskBytes (n : Nat) (l : List Nat) : List Byte := toBytes (pack 1 (fun i => bit01 (l.contains i)) (8 * n)) n
/-- Measurement block 4 (R394): clusters, slices, frame count, TBUDGET ceiling, HKEY. -/
def partDigest (q : Partition) : BitVec 512 :=
  digest (maskBytes 8 q.clusters ++ maskBytes 32 q.slices ++
    toBytes ((q.granted.map fun r => r.2 / 4096).foldl (· + ·) 0) 8 ++ toBytes q.ceiling.toNat 8 ++ toBytes q.hkey.toNat 8)
/-- The limits of every die's governor, which measurement block 3 includes (R394). -/
def limitBytes (s : State) : List Byte :=
  ((List.range 4).map fun d => toBytes (dieAt s d).blim 1 ++ toBytes (dieAt s d).clim 1).flatten
/-- A measurement block at a mailbox (R394) (DESIGN CHOICE, log 92). -/
def blockDigest (s : State) (mailbox i : Nat) : BitVec 512 :=
  let q := match mailboxPart mailbox with | some p => partAt s p | none => {}
  match i with
  | 3 => digest (toBytes (Config.firmwareDigest 3).toNat 64 ++ limitBytes s)
  | 4 => partDigest q
  | 5 => q.policyDig
  | _ => Config.firmwareDigest i
/-- A signature takes the next index, advanced before it leaves; after index 2^20 − 1 there is none (R395). -/
def signed (s : State) (mailbox : Nat) (msg : List Byte) : State :=
  if !mailboxUp s mailbox then s
  else if 2 ^ 20 ≤ s.xmss then answer s (.errorUnspecified mailbox)
  else answer { s with xmss := s.xmss + 1 } (.signed mailbox s.xmss (Config.xmssSign s.xmss msg))
/-- CHALLENGE (R395). -/
def execChallenge (mailbox : Nat) (nonce : BitVec 256) (s : State) : Host.Outcome State Fault Refusal :=
  if noMailbox mailbox then .fault .noSuchUnit else .next (signed s mailbox (toBytes nonce.toNat 32))
/-- GET_MEASUREMENTS (R394, R395): the block, and when asked its signature. -/
def measure (s : State) (mailbox i : Nat) (sign : Bool) : State :=
  if i < 1 ∨ 5 < i then answer s (.errorUnspecified mailbox)
  else
    let d := blockDigest s mailbox i
    let a : SpdmAnswer := .measurement mailbox i d s.measured
    if !sign then answer s a
    else if 2 ^ 20 ≤ s.xmss then answer s (.errorUnspecified mailbox)
    else signed (answer s a) mailbox (toBytes i 1 ++ toBytes d.toNat 64)
def execGetMeasurements (mailbox index : Nat) (signed : Bool) (s : State) : Host.Outcome State Fault Refusal :=
  if noMailbox mailbox then .fault .noSuchUnit else .next (measure s mailbox index signed)
/-- KEY_EXCHANGE (R394, R395): its response is signed; the session opens at FINISH. -/
def execKeyExchange (mailbox : Nat) (nonce : BitVec 256) (s : State) : Host.Outcome State Fault Refusal :=
  if noMailbox mailbox then .fault .noSuchUnit
  else .next (
    let t := signed s mailbox (toBytes nonce.toNat 32)
    if 2 ^ 20 ≤ s.xmss || !mailboxUp s mailbox then t
    else { t with exchanges := mailbox :: t.exchanges.filter (· != mailbox) })
/-- A tenant's key is of its session (R396): it goes with it. -/
def dropKey (s : State) (mailbox : Nat) : State :=
  match mailboxPart mailbox with
  | some p => if (partAt s p).tenantKey.isSome then modPart s p fun q => { q with tenantKey := none } else s
  | none => s
/-- FINISH (R394): the session opens when the requester's proof verifies. -/
def execFinish (mailbox : Nat) (verified : Bool) (s : State) : Host.Outcome State Fault Refusal :=
  if noMailbox mailbox then .fault .noSuchUnit
  else .next (
    if s.exchanges.contains mailbox && verified then
      let s := dropKey s mailbox
      answer { s with exchanges := s.exchanges.filter (· != mailbox),
                      sessions := mailbox :: s.sessions.filter (· != mailbox) } (.finished mailbox)
    else answer { s with exchanges := s.exchanges.filter (· != mailbox) } (.errorUnspecified mailbox))
/-- END_SESSION (R394): a tenant's key is of its session (R396). -/
def execEndSession (mailbox : Nat) (s : State) : Host.Outcome State Fault Refusal :=
  if noMailbox mailbox then .fault .noSuchUnit
  else .next (
    let s := dropKey s mailbox
    answer { s with sessions := s.sessions.filter (· != mailbox) } (.sessionEnd mailbox))

/-- n bytes of a byte string from a place, little-endian. -/
def byteField (l : List Byte) (off n : Nat) : Nat := pack 8 (fun i => (l.getD (off + i) 0).toNat) n
/-- A debug policy that the device accepts (R396). -/
def policyOk (q : Partition) (b : List Byte) : Bool :=
  decide (120 ≤ b.length) && byteField b 0 8 == 1 && byteField b 8 64 == (partDigest q).toNat &&
  (match q.policySeq with | some n => decide (n < byteField b 72 8) | none => true) &&
  decide (byteField b 80 8 < 32) &&
  (match q.tenantKey with | some k => Config.xmssVerify k (b.take 120) (b.drop 120) | none => false)
/-- The facilities that a new policy closes are disabled at once (R367): EN bits clear, and stopped cores resume. -/
def closeCore (pol : BitVec 5) (c : Core) : Core :=
  let off (w : Dword) : Dword := w &&& ~~~(dn (2 ^ 63))
  let c := if pol.getLsbD 0 then c
    else { c with bp := c.bp.map off, wpc := c.wpc.map off }
  if pol.getLsbD 1 then c else { c with trctl := off c.trctl }
def applyPolicy (s : State) (p : Nat) (pol : BitVec 5) : State :=
  let s := { s with cores := s.cores.map fun (e : Nat × Core) =>
    if e.2.part == some p then (e.1, closeCore pol e.2) else e }
  let s := if pol.getLsbD 2 then s else modPart s p fun q => { q with sampcfg := q.sampcfg &&& ~~~(dn (2 ^ 63)) }
  if pol.getLsbD 0 then s
  else (s.cores.filter fun e => e.2.part == some p).foldl (fun s e => debugResume s e.1) s
/-- VENDOR_DEFINED_REQUEST (R396), inside the tenant's session. -/
def vendor (s : State) (mailbox : Nat) (r : VendorRequest) : State :=
  match mailboxPart mailbox with
  | none => answer s (.vendor mailbox false)
  | some p =>
    let q := partAt s p
    if !s.sessions.contains mailbox || !q.live then answer s (.vendor mailbox false)
    else match r with
      | .installKey k =>
        if q.tdi == .unlocked then answer (modPart s p fun q => { q with tenantKey := some k }) (.vendor mailbox true)
        else answer s (.vendor mailbox false)
      | .policy b =>
        if policyOk q b then
          let pol : BitVec 5 := BitVec.ofNat 5 (byteField b 80 8)
          let s := modPart s p fun q =>
            { q with policy := pol, policyDig := digest b, policySeq := some (byteField b 72 8),
                     dumpKey := BitVec.ofNat 256 (byteField b 88 32) }
          answer (applyPolicy s p pol) (.vendor mailbox true)
        else answer s (.vendor mailbox false)
def execVendorDefinedRequest (mailbox : Nat) (request : VendorRequest) (s : State) : Host.Outcome State Fault Refusal :=
  if noMailbox mailbox then .fault .noSuchUnit else .next (vendor s mailbox request)

end Sys2Proof.Machine
end

