-- ==== Sys2Proof/Machine/Cut.lean ====
section
/-! DEFINITION. The consistent cut of a partition (spec/20 R362-R366): its start, the markers, what it records, and
the resume from it. -/

namespace Sys2Proof.Machine

def setPreempt (s : State) (p : Nat) (b : Bool) : State :=
  { s with cores := s.cores.map fun (e : Nat × Core) =>
    if e.2.part == some p then (e.1, { e.2 with preempt := b }) else e }

/-- CONSISTENT_CUT (R363): every core of the partition is asked to stop between tasks. -/
def startCut (s : State) (p : Nat) (stop : Bool) : State :=
  if !(partAt s p).live || (partAt s p).cut.isSome then s
  else modPart (setPreempt s p true) p fun q => { q with cut := some { stop := stop } }
def execConsistentCut (part : Nat) (stop : Bool) (s : State) : Host.Outcome State Fault Refusal :=
  if noPart part then .fault .noSuchUnit else .next (startCut s part stop)

/-- The units of a partition that send markers to a receiver (R362, R363): its cores, its clusters' engines, and for
a home queue the service core of its quadrant and the link ports (DEDUCED, log 79). -/
def cutInputs (s : State) (p dst : Nat) : List Nat :=
  let base := coresOf s p ++ (partAt s p).clusters.map unitEngine
  if dst < 768 then base else base ++ [unitService ((dst - 1000) / 16), unitLink]
/-- The receivers (R364): home queues, the inbound queues of the partition's cores; and its engines, which have no
input channel of R362 and record when they send (DEDUCED, log 79). -/
def cutQueues (s : State) (p : Nat) : List Nat := (List.range 256).map unitSlice ++ coresOf s p
def cutUnits (s : State) (p : Nat) : List Nat := cutQueues s p ++ (partAt s p).clusters.map unitEngine

/-- What a cut keeps of a core (R364). -/
def cutCore (c : Core) : Core :=
  { part := c.part, ctxs := c.ctxs.map fun e => (e.1, { e.2 with reserved := false }), tcm := c.tcm, xb := c.xb, bodytab := c.bodytab, tbudget := c.tbudget,
    gslots := c.gslots, trapvec := c.trapvec, upcvec := c.upcvec, htable := c.htable, inbound := c.inbound, seq := c.seq,
    preempt := true }
/-- What a cut keeps of a cluster (R364). -/
def cutCluster (c : Cluster) : Cluster :=
  { spm := c.spm, sems := c.sems, regions := c.regions, copies := c.copies, latch := c.latch, btile := c.btile,
    tiles := c.tiles, fifoA := c.fifoA, fifoB := c.fifoB, last := c.last, pcfg := c.pcfg,
    starts := c.starts }
/-- Entries of a map whose key a test selects. -/
def keep {α : Type} (m : FMap α) (t : Nat → Bool) : FMap α := m.filter fun e => t e.1
/-- Every L1 and slice line of the partition is written back (R363, as XINV with WB and ALL) (DEDUCED, log 81). -/
def writeBackAll (s : State) (p : Nat) : State := flushRange (dropReplicas s p 0 (2 ^ 57)) p 0 (2 ^ 57)
/-- The latest report of a context in the stop log (R354, R391). -/
def reportOf (q : Partition) (n k : Nat) : Option (List Dword) :=
  (List.range (min 63 q.stopHead)).findSome? fun i =>
    match ffind q.stopLog ((q.stopHead - 1 - i) % 63) with
    | some r => if bits (r.headD 0).toNat 0 13 == n + k * 2 ^ 10 then some r else none
    | none => none
/-- The reports of a partition's stopped contexts. -/
def stopReports (s : State) (p : Nat) : List (List Dword) :=
  ((coresOf s p).map fun n => (List.range (Config.contexts n)).filterMap fun k =>
    if (ctxAt s n k).stopped then reportOf (partAt s p) n k else none).flatten
/-- The recorded state (R364), with memory written back (DEDUCED, log 80). -/
def cutImage (s : State) (p : Nat) (log : List Msg) (links : List PeerRequest) (asks : List QReq) : CutImage :=
  let q := partAt s p
  { hkey := q.hkey, clusters := q.clusters, slices := q.slices, ptroot := q.ptroot, walkcfg := q.walkcfg,
    bodytab := q.bodytab, groups := q.groups
    cores := (coresOf s p).map fun n => (n, cutCore (coreAt s n))
    clus := (keep s.clusters q.clusters.contains).map fun (e : Nat × Cluster) => (e.1, cutCluster e.2)
    queues := s.slices.map fun (e : Nat × Slice) => (e.1, fget {} e.2.parts p)
    sigs := s.slices.map fun (e : Nat × Slice) => (e.1, e.2.sigs.filter fun x => keyPart x.line == p)
    hwfull := s.slices.map fun (e : Nat × Slice) => (e.1, keep e.2.hwfull fun k => keyPart k == p)
    full := keep s.wsMeta fun l => inRanges q.granted (64 * l)
    frames := keep s.hbm (inRanges q.granted)
    records := keep s.frames fun f => inRanges q.granted (4096 * f)
    stops := stopReports s p
    log := log
    links := links
    asks := asks
    hosts := s.accesses.filter fun a => a.host && a.part == p && a.stage != .untaken }
/-- A host request that its service core has sent and that is still on its way to its home (R362): it neither waits at
the service core nor at the home (DEDUCED, log 79). -/
def hostOnWay (a : Access) : Bool :=
  a.host && (match a.stage with
    | .untaken | .held | .parked _ _ _ _ | .word _ | .claimed _ => false
    | _ => true)
/-- A unit of the partition sends its marker on a channel that holds nothing before it (R362, R363). -/
def markerOk (s : State) (p src dst : Nat) (c : Cut) : Bool :=
  allPreempted s p && (cutQueues s p).contains dst && (cutInputs s p dst).contains src &&
  !c.markers.contains (src, dst) &&
  !(s.msgs.any fun m => msgPart m == p && m.src == src && msgUnit m == dst) &&
  !(s.accesses.any fun a => a.part == p && hostOnWay a && unitService (serviceOf s a) == src)
/-- The queue records once markers have arrived on all its inputs, what it held back applied first (R363, R365). -/
def recordUnit (s : State) (p dst : Nat) (c : Cut) : State × Cut :=
  if (cutInputs s p dst).all fun u => c.markers.contains (u, dst) then
    let mine := c.held.filter fun m => msgUnit m == dst
    (mine.foldl applyNoted s,
     { c with held := c.held.filter fun m => !(msgUnit m == dst), recorded := dst :: c.recorded })
  else (s, c)
/-- An arrival at a barrier that is under way (R54). -/
def arriveReq (s : State) (p : Nat) (q : QReq) : Bool :=
  inPart s p q.core && match q.ask with | .arrive _ _ _ => true | _ => false
/-- The end of a cut (R363, R366): memory is written back and recorded; what is still under way then is behind its
channel's marker, and stands in its log, and a host request that is not performed then stands in the cut (R365); a
checkpoint lifts the pre-emption, and after a stop what the cut holds goes on at the resume alone. -/
def finishCut (s : State) (p : Nat) (c : Cut) : State :=
  if (cutUnits s p).all c.recorded.contains then
    let s := writeBackAll s p
    let im := cutImage s p (c.log ++ s.msgs.filter fun m => msgPart m == p) (s.peerWait.filter fun r => peerOf s r == some p)
      (s.reqs.filter (arriveReq s p))
    let s := c.log.foldl applyNoted s
    let s := modPart s p fun q => { q with cut := none, image := some im }
    if c.stop then { s with accesses := s.accesses.filter fun a => !(a.host && a.part == p && a.stage != .untaken) }
    else setPreempt s p false
  else modPart s p fun q => { q with cut := some c }
/-- MARKER (R363): an engine records its copies when it sends its first marker. -/
def markerAt (s : State) (p src dst : Nat) : State :=
  match (partAt s p).cut with
  | none => s
  | some c =>
    if !markerOk s p src dst c then s
    else
      let c := { c with
        markers := (src, dst) :: c.markers
        recorded := if 2000 ≤ src && src < 3000 && !c.recorded.contains src then src :: c.recorded else c.recorded }
      let (s, c) := recordUnit s p dst c
      finishCut s p c
def execMarker (part src dst : Nat) (s : State) : Host.Outcome State Fault Refusal :=
  if noPart part then .fault .noSuchUnit else .next (markerAt s part src dst)

/-- The target of a resume (R366): a live partition of the same HKEY, clusters, slices, PTROOT and WALKCFG, none of
whose contexts runs work. -/
def resumeOk (s : State) (p : Nat) (im : CutImage) : Bool :=
  let q := partAt s p
  q.live && q.cut.isNone && q.hkey == im.hkey && q.clusters == im.clusters && q.slices == im.slices &&
  q.ptroot == im.ptroot && q.walkcfg == im.walkcfg &&
  (coresOf s p).all fun n => (List.range (Config.contexts n)).all fun k =>
    !(ctxAt s n k).running || (ctxAt s n k).stopped
/-- A cluster's incomplete copies go on under new numbers, registered again at their homes (R190, R366). -/
def restoreCopies (s : State) (clu : Nat) : List Copy → State
  | [] => s
  | c :: l =>
    let c' := { c with id := s.copyId + 1, got := [] }
    let hull := copyHull c'
    let s := (copyHomes s c').foldl (fun s h =>
      modSlice s h fun x => { x with ranges := x.ranges ++ [(c'.id, c'.part, hull.1, hull.2)] }) s
    let begun (x : Cluster) : List (Nat × Nat) := x.starts.map fun y => if y.1 == c.id then (c'.id, y.2) else y
    restoreCopies (modClu { s with copyId := c'.id } clu fun x => { x with copies := x.copies ++ [c'], starts := begun x }) clu l
/-- Bytes and records of a map replaced inside the granted ranges. -/
def overlay {α : Type} (m new : FMap α) (inside : Nat → Bool) : FMap α :=
  new.foldl (fun m e => fset m e.1 e.2) (m.filter fun e => !inside e.1)
/-- A restored core keeps the target's debug module and prefetch counters, which no cut holds (R364). -/
def withDebug (c d : Core) : Core :=
  { c with dctl := d.dctl, dstat := d.dstat, bp := d.bp, wpa := d.wpa, wpc := d.wpc, trctl := d.trctl, halted := d.halted,
           haltAt := d.haltAt, counters := d.counters }
/-- A stopped context's report stands in the stop log again, where it is not there still (R364, R391). -/
def restoreReport (q : Partition) (r : List Dword) : Partition :=
  if q.stopLog.any fun e => e.2 == r then q
  else { q with stopLog := fset q.stopLog (q.stopHead % 63) r, stopHead := q.stopHead + 1, msix := q.msix ++ [0] }
/-- The host requests of a cut begin anew under their numbers, in their order and ahead of later ones (R195, R366)
(DEDUCED, log 82). -/
def restoreHosts (s : State) (l : List Access) : State :=
  l.foldl (fun s a => keepAccess s { a with stage := .ready, checked := false, again := none }) s
/-- CUT_RESUME (R364, R366): the recorded state is restored, the channel logs are applied in order, and the
pre-emption is lifted. Translation caches and fault buffers are empty (DEDUCED, log 80). -/
def restoreCut (s : State) (p : Nat) (im : CutImage) : State :=
  let q := partAt s p
  let s := { s with
    cores := s.cores.map fun (e : Nat × Core) =>
      match ffind im.cores e.1 with | some c => (e.1, withDebug c e.2) | none => e
    slices := s.slices.map fun (e : Nat × Slice) => (e.1, clearSlice p e.2)
    dies := s.dies.map fun (e : Nat × Die) => (e.1, clearDie s p e.2)
    accesses := s.accesses.filter fun a => !(a.part == p) || (a.host && a.stage == .untaken)
    reqs := (s.reqs.filter fun q => !inPart s p q.core) ++ im.asks
    msgs := s.msgs.filter fun m => !(msgPart m == p)
    peerWait := s.peerWait.filter (fun r => !(peerOf s r == some p)) ++ im.links
    clusters := im.clus.foldl (fun m e => fset m e.1 { e.2 with copies := [] }) s.clusters
    hbm := overlay s.hbm im.frames (inRanges q.granted)
    wsMeta := overlay s.wsMeta im.full fun l => inRanges q.granted (64 * l)
    frames := overlay s.frames im.records fun f => inRanges q.granted (4096 * f) }
  let s := im.queues.foldl (fun s e => modSP s e.1 p fun _ => e.2) s
  let s := im.sigs.foldl (fun s e => modSlice s e.1 fun x => { x with sigs := (x.sigs ++ e.2).take 128 }) s
  let s := im.hwfull.foldl (fun s e => modSlice s e.1 fun x =>
    { x with hwfull := e.2.foldl (fun m y => fset m y.1 y.2) x.hwfull }) s
  let s := modPart s p fun q =>
    im.stops.foldl restoreReport { q with bodytab := im.bodytab, groups := im.groups }
  let s := im.clus.foldl (fun s e => restoreCopies s e.1 e.2.copies) s
  setPreempt (im.log.foldl applyNoted (restoreHosts s im.hosts)) p false
def execCutResume (part : Nat) (s : State) : Host.Outcome State Fault Refusal :=
  if noPart part then .fault .noSuchUnit
  else .next (match (partAt s part).image with
    | some im => if resumeOk s part im then restoreCut s part im else s
    | none => s)

end Sys2Proof.Machine
end

