-- ==== Sys2Proof/Machine/Branch.lean ====
section
/-! DEFINITION. Branches, jumps, control-register instructions, WAITF and SYNCI (spec/06 R115-R127). -/

namespace Sys2Proof.Machine

/-- A taken branch or jump (R115): the next bundle is at the target. A second follows its lead (R62). -/
def goTo (s : State) (t : Dword) : State :=
  if isSecond (cur s) then s
  else modCur (trace s s.core s.ctx 3 (cur s).pc t) fun c => { c with npc := t.toNat }
/-- The target of a branch by an offset in bundles (R86, R116). -/
def target (s : State) {n : Nat} (lit : Word) (off : BitVec n) : Dword := dn (cur s).pc + 8 * offset lit off 1
/-- The link value (R116). -/
def link (s : State) : Dword := dn ((cur s).pc + 8)

/-- R116. -/
def execBr (f : FmtJ) (s : State) : Host.Outcome State Fault Refusal :=
  issue s (.br f) fun s => goTo s (target s f.lit f.off)
def execBrl (f : FmtJ) (s : State) : Host.Outcome State Fault Refusal :=
  issue s (.brl f) fun s => modCur (goTo s (target s f.lit f.off)) fun c => writeX c f.rd.toNat (link s)
def execJr (f : FmtI) (s : State) : Host.Outcome State Fault Refusal :=
  issue s (.jr f) fun s => goTo s (rx (ops s) f.rs1.toNat + 8 * immI f)
def execJrl (f : FmtI) (s : State) : Host.Outcome State Fault Refusal :=
  issue s (.jrl f) fun s =>
    modCur (goTo s (rx (ops s) f.rs1.toNat + 8 * immI f)) fun c => writeX c f.rd.toNat (link s)
/-- BC.cond (R116). -/
def branchIf (s : State) (i : Instr) (f : FmtB) (cond : Dword → Dword → Bool) : Host.Outcome State Fault Refusal :=
  issue s i fun s =>
    if cond (rx (ops s) f.rs1.toNat) (rx (ops s) f.rs2.toNat) then goTo s (target s f.lit f.off) else s
def execBcEq (f : FmtB) (s : State) := branchIf s (.bcEq f) f fun a b => a == b
def execBcNe (f : FmtB) (s : State) := branchIf s (.bcNe f) f fun a b => a != b
def execBcLt (f : FmtB) (s : State) := branchIf s (.bcLt f) f fun a b => decide (a.toInt < b.toInt)
def execBcGe (f : FmtB) (s : State) := branchIf s (.bcGe f) f fun a b => decide (b.toInt ≤ a.toInt)
def execBcLtu (f : FmtB) (s : State) := branchIf s (.bcLtu f) f fun a b => decide (a.toNat < b.toNat)
def execBcGeu (f : FmtB) (s : State) := branchIf s (.bcGeu f) f fun a b => decide (b.toNat ≤ a.toNat)
/-- BCZ's test (R117): a register, or whether the stream bound to a vector register has beats left. -/
def bczNonzero (s : State) (f : FmtZ) : Bool :=
  if f.vec == 1 then
    match boundTo (cur s) f.rs.toNat with
    | some (_, st) => !streamDone st
    | none => false
  else rx (ops s) f.rs.toNat != 0
/-- R117. -/
def execBcz (f : FmtZ) (s : State) : Host.Outcome State Fault Refusal :=
  issue s (.bcz f) fun s => if bczNonzero s f == (f.ne == 1) then goTo s (target s f.lit f.off) else s
/-- R118. -/
def execLoop (f : FmtZ) (s : State) : Host.Outcome State Fault Refusal :=
  issue s (.loop f) fun s =>
    let x := rx (ops s) f.rs.toNat - 1
    let s' := modCur s fun c => writeX c f.rs.toNat x
    if x != 0 then goTo s' (target s f.lit f.off) else s'

/-- CRRD (R122): a late register's value arrives later. -/
def execCrrd (f : FmtCR) (s : State) : Host.Outcome State Fault Refusal :=
  issue s (.crrd f) fun s =>
    let v := crRead s s.core s.ctx (ops s) f.crn.toNat
    if crLate f.crn.toNat then sendLate (modCur s fun c => emptyX c f.x.toNat) s.core s.ctx f.x.toNat v 300
    else modCur s fun c => writeX c f.x.toNat v
/-- CRWR (R123), its checks passed. -/
def execCrwr (f : FmtCR) (s : State) : Host.Outcome State Fault Refusal :=
  issue s (.crwr f) fun s => crWrite s s.core s.ctx f.crn.toNat (rx (ops s) f.x.toNat)
/-- CRSETB and CRCLRB (R124): a CRWR of the modified value. -/
def execCrsetb (f : FmtCR) (s : State) : Host.Outcome State Fault Refusal :=
  issue s (.crsetb f) fun s =>
    crWrite s s.core s.ctx f.crn.toNat (crRead s s.core s.ctx (ops s) f.crn.toNat ||| dn (2 ^ f.x.toNat))
def execCrclrb (f : FmtCR) (s : State) : Host.Outcome State Fault Refusal :=
  issue s (.crclrb f) fun s =>
    crWrite s s.core s.ctx f.crn.toNat (crRead s s.core s.ctx (ops s) f.crn.toNat &&& ~~~(dn (2 ^ f.x.toNat)))
/-- WAITF reads its source and does nothing with it (R126). -/
def execWaitf (f : FmtR) (s : State) : Host.Outcome State Fault Refusal := issue s (.waitf f) fun s => s
/-- SYNCI drops the core's fetched bundles and its body cache (R127). -/
def execSynci (f : FmtR) (s : State) : Host.Outcome State Fault Refusal :=
  issue s (.synci f) fun s => modCore s s.core fun c => { c with fetched := [], bodies := [] }

end Sys2Proof.Machine
end

