-- ==== Sys2Proof/Machine/Special.lean ====
section
/-! DEFINITION. The special functions of R287 on exact values: 2^a and log2 a as fixed-point numbers of 320 bits with
a mark that the true value lies above, 1/a and 1/√a exactly with the same mark. Each lies far closer to the true
value than any rounding of an FP32 result can tell apart (log entry for R287). -/

namespace Sys2Proof.Machine

/-- Fraction bits of the fixed-point values. -/
def fixBits : Nat := 320
/-- 2^g for a fraction g of k bits in fixed point: `root` is 2^(2^-i) for the bit being read, from the top. -/
def expFrac (g : Nat) : Nat → Nat → Nat → Nat
  | 0, _, acc => acc
  | k + 1, root, acc =>
    let acc := if g / 2 ^ k % 2 = 1 then acc * root / 2 ^ fixBits else acc
    expFrac g k (isqrt (root * 2 ^ fixBits) (fixBits + 2)) acc
/-- Fraction bits of an FP32 number. -/
def argBits : Nat := 149
/-- 2^a for a finite a ≠ 0 (R287) (DEDUCED, log 57). -/
def exp2Fin (neg : Bool) (m : Nat) (e : Int) : FVal :=
  if 9 ≤ e + (ilog2 m : Int) then .fin false 1 (if neg then -300 else 300) true
  else
    let n : Int := (m * 2 ^ (e + argBits).toNat : Nat)
    let a : Int := if neg then -n else n
    let q := a / (2 ^ argBits : Nat)
    let g := (a % (2 ^ argBits : Nat)).toNat
    if g = 0 then .exact false 1 q
    else
      let root := isqrt (2 * 2 ^ fixBits * 2 ^ fixBits) (fixBits + 2)
      .fin false (expFrac g argBits root (2 ^ fixBits)) (q - fixBits) true
/-- VEXP2's lane (R287). -/
def vexp2 (e : Env) : FVal → Nat × Flags
  | .nan s => nanResult f32 false s
  | .inf s => if s then (0, 0) else (infBits f32, 0)
  | .fin s m x _ => if m = 0 then finish f32 e (.exact false 1 0) else finish f32 e (exp2Fin s m x)
/-- VRCP's lane (R287). -/
def vrcp (e : Env) (a : FVal) : Nat × Flags := fdiv f32 e (.exact false 1 0) a
/-- 1/√(m 2^x) for m > 0. -/
def rsqrtFin (m : Nat) (x : Int) : FVal :=
  let m' := if x % 2 = 0 then m else 2 * m
  let x' := if x % 2 = 0 then x else x - 1
  let r := isqrt (2 ^ 320 / m') 161
  .fin false r (-160 - x' / 2) (r * r * m' != 2 ^ 320)
/-- VRSQ's lane (R287). -/
def vrsq (e : Env) : FVal → Nat × Flags
  | .nan s => nanResult f32 false s
  | .inf s => if s then nanResult f32 true false else (0, 0)
  | .fin s m x _ =>
    if m = 0 then (signBit f32 s + infBits f32, fDZ)
    else if s then nanResult f32 true false
    else finish f32 e (rsqrtFin m x)
/-- The first k fraction bits of log2 y for y in [1, 2) in fixed point. -/
def logFrac : Nat → Nat → Nat → Nat
  | 0, _, acc => acc
  | k + 1, y, acc =>
    let y := y * y / 2 ^ fixBits
    if 2 ^ (fixBits + 1) ≤ y then logFrac k (y / 2) (2 * acc + 1) else logFrac k y (2 * acc)
/-- log2 of m 2^x for m > 0: exact for a power of two, else 140 fraction bits and the mark (DEDUCED, log 57). -/
def log2Fin (m : Nat) (x : Int) : FVal :=
  let l := ilog2 m
  let n : Int := x + l
  if m = 2 ^ l then .ofInt n
  else
    let f := logFrac 140 (m * 2 ^ (fixBits - l)) 0
    let v : Int := n * (2 ^ 140 : Nat) + f
    if v < 0 then .fin true (v.natAbs - 1) (-140) true else .fin false v.toNat (-140) true
/-- VLOG2's lane (R287). -/
def vlog2 (e : Env) : FVal → Nat × Flags
  | .nan s => nanResult f32 false s
  | .inf s => if s then nanResult f32 true false else (infBits f32, 0)
  | .fin s m x _ =>
    if m = 0 then (signBit f32 true + infBits f32, fDZ)
    else if s then nanResult f32 true false
    else finish f32 e (log2Fin m x)

end Sys2Proof.Machine
end

