-- ==== Sys2Proof/Machine/Vector.lean ====
section
/-! DEFINITION. Vector lane arithmetic, compare and select, moves, reduction (spec/15 R273-R284; spec/13 R245, R249,
R251) and predicates (R295). -/

namespace Sys2Proof.Machine

/-- An FP32 lane as an input: under FZ a subnormal reads as zero of its sign (R245, R275). -/
def laneIn (fz : Bool) (w : Word) : FVal := flushIn f32 fz (decodeF f32 w.toNat)
/-- A result lane under FZ: a subnormal is written as zero with its sign, and UF and NX are set (R245). -/
def flushRes (fz : Bool) (x : Nat × Flags) : Word × Flags :=
  if fz && bits x.1 23 8 == 0 && bits x.1 0 23 != 0 then (BitVec.ofNat 32 (x.1 / 2 ^ 31 * 2 ^ 31), x.2 ||| fUF ||| fNX)
  else (BitVec.ofNat 32 x.1, x.2)
/-- Lane i's environment; the flush is made by `laneIn` and `flushRes`. -/
def laneEnv (s : State) (i : Nat) : Env := { mode := rmOf (ops s), fz := false, r := srLane s 0 i }

/-- T of func[27] (R278): true for .i32. -/
def isI32 (f : FmtR) : Bool := f.func.toNat % 2 == 1
/-- One result for each lane with its flags goes to vd (R275). -/
def lanesOut (s : State) (gp : BitVec 2) (rd : BitVec 6) (g : Nat → Word × Flags) : State :=
  putVF s gp rd (fun i => (g i).1) (fun i => (g i).2)
/-- A typed lane operation on a, b and the old d (R278-R280). -/
def laneOp (s : State) (i : Instr) (gp : BitVec 2) (f : FmtR) (fl : Env → FVal → FVal → FVal → Nat × Flags)
    (int : Word → Word → Word → Word) : Host.Outcome State Fault Refusal :=
  issue s i fun s =>
    let r := ops s
    let fz := fzOf r
    let a := rv r f.rs1.toNat
    let b := rv r f.rs2.toNat
    let d := rv r f.rd.toNat
    if isI32 f then putV s gp f.rd fun i => int (lane a i) (lane b i) (lane d i)
    else lanesOut s gp f.rd fun i =>
      flushRes fz (fl (laneEnv s i) (laneIn fz (lane a i)) (laneIn fz (lane b i)) (laneIn fz (lane d i)))

/-- R279, R280. -/
def execVadd (gp : BitVec 2) (f : FmtR) (s : State) :=
  laneOp s (.vadd gp f) gp f (fun e a b _ => fadd f32 e a b) fun a b _ => a + b
def execVsub (gp : BitVec 2) (f : FmtR) (s : State) :=
  laneOp s (.vsub gp f) gp f (fun e a b _ => fadd f32 e a (negF b)) fun a b _ => a - b
def execVmul (gp : BitVec 2) (f : FmtR) (s : State) :=
  laneOp s (.vmul gp f) gp f (fun e a b _ => fmul f32 e a b) fun a b _ => a * b
def execVfma (gp : BitVec 2) (f : FmtR) (s : State) :=
  laneOp s (.vfma gp f) gp f (fun e a b d => fmadd f32 e a b d) fun a b d => a * b + d
def minI (a b : Word) : Word := if b.toInt < a.toInt then b else a
def maxI (a b : Word) : Word := if a.toInt < b.toInt then b else a
def execVmin (gp : BitVec 2) (f : FmtR) (s : State) :=
  laneOp s (.vmin gp f) gp f (fun _ a b _ => fminmax f32 false a b) fun a b _ => minI a b
def execVmax (gp : BitVec 2) (f : FmtR) (s : State) :=
  laneOp s (.vmax gp f) gp f (fun _ a b _ => fminmax f32 true a b) fun a b _ => maxI a b

/-- A lane operation on bits of a and b (R279, R280). -/
def bitsOp (s : State) (i : Instr) (gp : BitVec 2) (f : FmtR) (g : Word → Word → Word) :
    Host.Outcome State Fault Refusal :=
  issue s i fun s =>
    let a := rv (ops s) f.rs1.toNat
    let b := rv (ops s) f.rs2.toNat
    putV s gp f.rd fun i => g (lane a i) (lane b i)
/-- R279, R280: bit operations on the sign of a floating lane. -/
def absLane (int : Bool) (a : Word) : Word :=
  if int then (if a.toInt < 0 then -a else a) else a &&& 0x7FFFFFFF
def negLane (int : Bool) (a : Word) : Word := if int then -a else a ^^^ 0x80000000
def execVabs (gp : BitVec 2) (f : FmtR) (s : State) := bitsOp s (.vabs gp f) gp f fun a _ => absLane (isI32 f) a
def execVneg (gp : BitVec 2) (f : FmtR) (s : State) := bitsOp s (.vneg gp f) gp f fun a _ => negLane (isI32 f) a
/-- R280. -/
def execVand (gp : BitVec 2) (f : FmtR) (s : State) := bitsOp s (.vand gp f) gp f (· &&& ·)
def execVor (gp : BitVec 2) (f : FmtR) (s : State) := bitsOp s (.vor gp f) gp f (· ||| ·)
def execVxor (gp : BitVec 2) (f : FmtR) (s : State) := bitsOp s (.vxor gp f) gp f (· ^^^ ·)
def vShl (a : Word) (n : Nat) : Word := a <<< n
def vShr (a : Word) (n : Nat) : Word := a >>> n
def vSar (a : Word) (n : Nat) : Word := a.sshiftRight n
def execVsll (gp : BitVec 2) (f : FmtR) (s : State) := bitsOp s (.vsll gp f) gp f fun a b => vShl a (b.toNat % 32)
def execVsrl (gp : BitVec 2) (f : FmtR) (s : State) := bitsOp s (.vsrl gp f) gp f fun a b => vShr a (b.toNat % 32)
def execVsra (gp : BitVec 2) (f : FmtR) (s : State) := bitsOp s (.vsra gp f) gp f fun a b => vSar a (b.toNat % 32)
/-- A shift by the constant that the rs2 field holds (R280). -/
def shiftImm (s : State) (i : Instr) (gp : BitVec 2) (f : FmtR) (g : Word → Nat → Word) :
    Host.Outcome State Fault Refusal :=
  issue s i fun s =>
    let a := rv (ops s) f.rs1.toNat
    putV s gp f.rd fun i => g (lane a i) f.rs2.toNat
def execVsllImm (gp : BitVec 2) (f : FmtR) (s : State) := shiftImm s (.vsllImm gp f) gp f vShl
def execVsrlImm (gp : BitVec 2) (f : FmtR) (s : State) := shiftImm s (.vsrlImm gp f) gp f vShr
def execVsraImm (gp : BitVec 2) (f : FmtR) (s : State) := shiftImm s (.vsraImm gp f) gp f vSar

/-- VCMP's condition on a lane, and its flags (R281). -/
def cmpLane (fn : Nat) (fz : Bool) (a b : Word) : Bool × Flags :=
  match fn with
  | 0 => (a == b, 0)
  | 1 => (a != b, 0)
  | 2 => (decide (a.toInt < b.toInt), 0)
  | 3 => (decide (b.toInt ≤ a.toInt), 0)
  | 4 => (decide (a.toNat < b.toNat), 0)
  | 5 => (decide (b.toNat ≤ a.toNat), 0)
  | 6 => let m := fcmp (laneIn fz a) (laneIn fz b); (m.1 == 1, m.2)
  | _ => let m := fcmp (laneIn fz a) (laneIn fz b); (m.1 == 2 || m.1 == 4, m.2)
/-- VCMP (R281). -/
def execVcmp (gp : BitVec 2) (f : FmtR) (s : State) : Host.Outcome State Fault Refusal :=
  issue s (.vcmp gp f) fun s =>
    let a := rv (ops s) f.rs1.toNat
    let b := rv (ops s) f.rs2.toNat
    let c (i : Nat) := cmpLane f.func.toNat (fzOf (ops s)) (lane a i) (lane b i)
    putPF s gp f.rd (predOf fun i => (c i).1) (laneFlags (gpOf s gp) fun i => (c i).2)
/-- VSEL (R282). -/
def execVsel (gp : BitVec 2) (f : FmtR) (s : State) : Host.Outcome State Fault Refusal :=
  issue s (.vsel gp f) fun s =>
    let a := rv (ops s) f.rs1.toNat
    let b := rv (ops s) f.rs2.toNat
    let p := rp (ops s) f.func.toNat
    putV s gp f.rd fun i => if p.getLsbD i then lane a i else lane b i
/-- VBCAST (R283). -/
def execVbcast (gp : BitVec 2) (f : FmtR) (s : State) : Host.Outcome State Fault Refusal :=
  issue s (.vbcast gp f) fun s =>
    let w : Word := (rx (ops s) f.rs1.toNat).setWidth 32
    putV s gp f.rd fun _ => w
/-- A 32-bit result in an x register (R283, R284). -/
def wordX (int : Bool) (w : Word) : Dword := if int then w.signExtend 64 else w.setWidth 64
/-- VEXT (R283): func 0 is .i32. -/
def execVext (gp : BitVec 2) (f : FmtR) (s : State) : Host.Outcome State Fault Refusal :=
  issue s (.vext gp f) fun s =>
    putX s gp f.rd (wordX (f.func == 0) (lane (rv (ops s) f.rs1.toNat) ((rx (ops s) f.rs2.toNat).toNat % 256)))
/-- VPERM (R283). -/
def execVperm (gp : BitVec 2) (f : FmtR) (s : State) : Host.Outcome State Fault Refusal :=
  issue s (.vperm gp f) fun s =>
    let a := rv (ops s) f.rs1.toNat
    let b := rv (ops s) f.rs2.toNat
    putV s gp f.rd fun i => lane a ((lane b i).toNat % 256)

/-- VRED's identities (R251, R284). -/
def redIdentity (int : Bool) (op : Nat) : Word :=
  match int, op with
  | _, 0 => 0
  | true, 1 => 0x7FFFFFFF
  | true, _ => 0x80000000
  | false, 1 => 0x7F800000
  | false, _ => 0xFF800000
/-- One step of the tree at surviving lane i (R251, R284) (DEDUCED, log 56). -/
def redStep (s : State) (int : Bool) (op i : Nat) (a b : Word) : Word × Flags :=
  if int then ((match op with | 0 => a + b | 1 => minI a b | _ => maxI a b), 0)
  else
    let fz := fzOf (ops s)
    flushRes fz (match op with
      | 0 => fadd f32 (laneEnv s i) (laneIn fz a) (laneIn fz b)
      | 1 => fminmax f32 false (laneIn fz a) (laneIn fz b)
      | _ => fminmax f32 true (laneIn fz a) (laneIn fz b))
/-- One level: 2n values become n (DEDUCED, log 56). -/
def redLevel (s : State) (int : Bool) (op n : Nat) (w : List Word × Flags) : List Word × Flags :=
  let l := (List.range n).map fun i => redStep s int op i (w.1.getD i 0) (w.1.getD (i + n) 0)
  (l.map (·.1), l.foldl (fun f x => f ||| x.2) w.2)
def redTree (s : State) (int : Bool) (op : Nat) (w : List Word) : List Word × Flags :=
  [128, 64, 32, 16, 8, 4, 2, 1].foldl (fun w n => redLevel s int op n w) (w, 0)
/-- Lanes of a bound register that hold an element of the beat popped (R284). -/
def beatLanesOf (c : Ctx) (v : Nat) : Pred :=
  match boundTo c v with
  | some (_, st) => if st.write then BitVec.allOnes 256 else st.mask
  | none => BitVec.allOnes 256
/-- VRED (R284): func[27] is T and func[29:28] the operation; rs2 names the predicate. -/
def execVred (gp : BitVec 2) (f : FmtR) (s : State) : Host.Outcome State Fault Refusal :=
  issue s (.vred gp f) fun s =>
    let a := rv (ops s) f.rs1.toNat
    let op := f.func.toNat / 2
    let enter := rp (ops s) f.rs2.toNat &&& beatLanesOf (cur s) f.rs1.toNat
    let w := (List.range 256).map fun i => if enter.getLsbD i then lane a i else redIdentity (isI32 f) op
    let r := redTree s (isI32 f) op w
    putXF s gp f.rd ((wordX (isI32 f) (r.1.headD 0)).toNat, r.2)

/-- A predicate of two others (R295). -/
def predOp (s : State) (i : Instr) (gp : BitVec 2) (f : FmtR) (g : Pred → Pred → Pred) :
    Host.Outcome State Fault Refusal :=
  issue s i fun s => putP s gp f.rd (g (rp (ops s) f.rs1.toNat) (rp (ops s) f.rs2.toNat))
def execPand (gp : BitVec 2) (f : FmtR) (s : State) := predOp s (.pand gp f) gp f (· &&& ·)
def execPor (gp : BitVec 2) (f : FmtR) (s : State) := predOp s (.por gp f) gp f (· ||| ·)
def execPxor (gp : BitVec 2) (f : FmtR) (s : State) := predOp s (.pxor gp f) gp f (· ^^^ ·)
def execPnot (gp : BitVec 2) (f : FmtR) (s : State) := predOp s (.pnot gp f) gp f fun a _ => ~~~a
/-- PCNT, PFIRST (R295). -/
def execPcnt (gp : BitVec 2) (f : FmtR) (s : State) : Host.Outcome State Fault Refusal :=
  issue s (.pcnt gp f) fun s => putX s gp f.rd (dn (popcount (rp (ops s) f.rs1.toNat).toNat 256))
def execPfirst (gp : BitVec 2) (f : FmtR) (s : State) : Host.Outcome State Fault Refusal :=
  issue s (.pfirst gp f) fun s => putX s gp f.rd (dn (leastBit (rp (ops s) f.rs1.toNat).getLsbD 256))
/-- PSET (R295). -/
def execPset (gp : BitVec 2) (f : FmtR) (s : State) : Host.Outcome State Fault Refusal :=
  issue s (.pset gp f) fun s => putP s gp f.rd (predOf fun i => decide (i < (rx (ops s) f.rs1.toNat).toNat))

end Sys2Proof.Machine
end

