-- ==== Sys2Proof/Machine/Convert.lean ====
section
/-! DEFINITION. Conversions, special functions, counting, packing, index vectors and accumulators (spec/15
R285-R294; spec/14 R255, R256; spec/13 R245-R247). -/

namespace Sys2Proof.Machine

/-- The FP32 pattern of a rounded narrow result (R285). -/
def asF32 (f : Fmt) (w : Nat) : Nat :=
  match decodeF f w with
  | .nan _ => canonNan f32
  | v => exactBits f32 v
/-- RoundTo(INT1) (R247 step 6): −1 below 0, else +1; a magnitude above 1 is no saturation that sets NV (R286)
(DEDUCED, log 55). -/
def toI1 : FVal → Word × Flags
  | .nan _ => (1, fNV)
  | .inf s => (if s then BitVec.allOnes 32 else 1, 0)
  | .fin s m _ a => (if s && (m != 0 || a) then BitVec.allOnes 32 else 1, 0)
/-- An integer result in its lane. -/
def intLane (x : Int × Flags) : Word × Flags := (BitVec.ofInt 32 x.1, x.2)
/-- RoundTo a kind, placed in a lane (R245, R247, R285). -/
def convLane (kind mode r : Nat) (fz : Bool) (v : FVal) : Word × Flags :=
  match kind with
  | 8 => intLane (roundToInt 8 mode r v)
  | 9 => intLane (roundToInt 4 mode r v)
  | 10 => intLane (roundToInt 2 mode r v)
  | 11 => toI1 v
  | 12 => intLane (roundToInt 32 mode r v)
  | k =>
    match fmtOf k with
    | some t => let x := roundTo t mode r v; flushRes fz (asF32 t x.1, x.2)
    | none => (0, 0)
/-- RND of a conversion (R286): 6 is FRM.RM. -/
def convMode (s : State) (f : FmtR) : Nat := if f.func = 6 then rmOf (ops s) else f.func.toNat
/-- VCVT (R286). -/
def execVcvt (gp : BitVec 2) (f : FmtR) (s : State) : Host.Outcome State Fault Refusal :=
  issue s (.vcvt gp f) fun s =>
    let a := rv (ops s) f.rs1.toNat
    let fz := fzOf (ops s)
    let kind := f.rs2.toNat % 16
    lanesOut s gp f.rd fun i =>
      convLane kind (convMode s f) (srLane s 0 i) fz
        (if f.rs2.toNat / 32 = 1 then .ofInt (lane a i).toInt else laneIn fz (lane a i))
/-- A special function on each lane (R287). -/
def specialOp (s : State) (i : Instr) (gp : BitVec 2) (f : FmtR) (g : Env → FVal → Nat × Flags) :
    Host.Outcome State Fault Refusal :=
  issue s i fun s =>
    let a := rv (ops s) f.rs1.toNat
    let fz := fzOf (ops s)
    lanesOut s gp f.rd fun i => flushRes fz (g (laneEnv s i) (laneIn fz (lane a i)))
def execVexp2 (gp : BitVec 2) (f : FmtR) (s : State) := specialOp s (.vexp2 gp f) gp f vexp2
def execVrcp (gp : BitVec 2) (f : FmtR) (s : State) := specialOp s (.vrcp gp f) gp f vrcp
def execVrsq (gp : BitVec 2) (f : FmtR) (s : State) := specialOp s (.vrsq gp f) gp f vrsq
def execVlog2 (gp : BitVec 2) (f : FmtR) (s : State) := specialOp s (.vlog2 gp f) gp f vlog2

/-- Element e of kind k of an image is nonzero (R246, R288). -/
def elemNonzero (k img e : Nat) : Bool := nonzeroCode k (kindCode k img e)
/-- How many of the first n elements are nonzero. -/
def countNonzero (k img : Nat) : Nat → Nat
  | 0 => 0
  | n + 1 => countNonzero k img n + bit01 (elemNonzero k img n)
/-- VNZC (R288). -/
def execVnzc (gp : BitVec 2) (f : FmtR) (s : State) : Host.Outcome State Fault Refusal :=
  issue s (.vnzc gp f) fun s =>
    let k := f.rs2.toNat
    putX s gp f.rd (dn (countNonzero k (rv (ops s) f.rs1.toNat).toNat (imageCount k)))
/-- VBMAP (R288). -/
def execVbmap (gp : BitVec 2) (f : FmtR) (s : State) : Host.Outcome State Fault Refusal :=
  issue s (.vbmap gp f) fun s =>
    putP s gp f.rd (predOf fun e => elemNonzero f.rs2.toNat (rv (ops s) f.rs1.toNat).toNat e)

/-- Lanes of an image. -/
def imageLane (img i : Nat) : Word := BitVec.ofNat 32 (bits img (32 * i) 32)
/-- Planes of VPACKB's and VUNPKB's forms (R289). -/
def packPlanes (func : Nat) : Nat := if func = 0 then 4 else if func = 1 then 2 else 1
/-- The code that VPACKB makes of a lane (R289). -/
def packCode (func : Nat) (w : Word) : Nat := if func = 2 then bit01 (decide (0 < w.toInt)) else w.toNat
def packImage (func : Nat) (a : Vec) : Nat :=
  let w := packPlanes func
  pack 1 (fun b => packCode func (lane a (64 * (b / 64 / w) + b % 64)) / 2 ^ (b / 64 % w) % 2) (256 * w)
/-- VPACKB (R289). -/
def execVpackb (gp : BitVec 2) (f : FmtR) (s : State) : Host.Outcome State Fault Refusal :=
  issue s (.vpackb gp f) fun s =>
    let img := packImage f.func.toNat (rv (ops s) f.rs1.toNat)
    putV s gp f.rd (imageLane img)
/-- Element e of VUNPKB's forms 0 to 3 (R289). -/
def unpackLane (func img e : Nat) : Word :=
  match func with
  | 0 => BitVec.ofInt 32 (intVal 9 4 (planeCode 4 img e))
  | 1 => BitVec.ofInt 32 (intVal 10 2 (planeCode 2 img e))
  | 2 => BitVec.ofInt 32 (intVal 11 1 (planeCode 1 img e))
  | _ => BitVec.ofNat 32 (asF32 f16 (cb4Code img e))
def execVunpkb (gp : BitVec 2) (f : FmtR) (s : State) : Host.Outcome State Fault Refusal :=
  issue s (.vunpkb gp f) fun s =>
    putV s gp f.rd (unpackLane f.func.toNat (rv (ops s) f.rs1.toNat).toNat)
/-- VUNPKB.zx8 (R289), its blocks good. -/
def execVunpkbZx8 (gp : BitVec 2) (f : FmtR) (s : State) : Host.Outcome State Fault Refusal :=
  issue s (.vunpkbZx8 gp f) fun s =>
    let bs := (zxBlocks (bits (rv (ops s) f.rs2.toNat).toNat 0 1024) (rv (ops s) f.rs1.toNat).toNat 8 0).1
    putV s gp f.rd fun e => BitVec.ofNat 32 (asF32 e4m3 (bs.getD e 0))

/-- The set bits of a predicate, ascending. -/
def setBits (p : Pred) : List Nat := (List.range 256).filter fun i => p.getLsbD i
/-- The MGATH index vector of R290. -/
def indexImage (l : List Nat) (b : Nat) : Nat := l.length + 2 ^ 64 * pack 16 (fun k => b + l.getD k 0) l.length
/-- VIDX (R290). -/
def execVidx (gp : BitVec 2) (f : FmtR) (s : State) : Host.Outcome State Fault Refusal :=
  issue s (.vidx gp f) fun s =>
    let img := indexImage (setBits (rp (ops s) f.rs1.toNat)) (rx (ops s) f.rs2.toNat).toNat
    putV s gp f.rd (imageLane img)
def execVidxI32 (gp : BitVec 2) (f : FmtR) (s : State) : Host.Outcome State Fault Refusal :=
  issue s (.vidxI32 gp f) fun s =>
    let l := setBits (rp (ops s) f.rs1.toNat)
    let b := (rx (ops s) f.rs2.toNat).toNat
    putV s gp f.rd fun k => if k < l.length then BitVec.ofNat 32 (b + l.getD k 0) else BitVec.allOnes 32

/-- An accumulator's lane: 0 under ZERO (R255, R291). -/
def accRead (a : Acc) (i : Nat) : Dword := if a.kind = .zero then 0 else accLane a.lanes i
/-- An accumulator written under a predicate: its KIND changes all the same (R255, R291). -/
def putAcc (s : State) (gp : BitVec 2) (rd : BitVec 6) (kind : AccKind) (g : Nat → Dword) : State :=
  let m := gpOf s gp
  let old := racc (ops s) rd.toNat
  modCur s fun c => writeAcc c rd.toNat { kind := kind, lanes := accOf fun i => if m.getLsbD i then g i else accRead old i }
/-- ACLR (R291). -/
def execAclr (gp : BitVec 2) (f : FmtR) (s : State) : Host.Outcome State Fault Refusal :=
  issue s (.aclr gp f) fun s => modCur s fun c => writeAcc c f.rd.toNat { kind := .zero, lanes := 0 }
/-- An FP32 lane widened exactly to FP64, a NaN with its sign and payload (R292). -/
def widen64 (fz : Bool) (w : Word) : Dword :=
  match laneIn fz w with
  | .nan _ => dn (w.toNat / 2 ^ 31 * 2 ^ 63 + 0x7FF * 2 ^ 52 + w.toNat % 2 ^ 23 * 2 ^ 29)
  | v => dn (exactBits f64 v)
/-- AMOV into an accumulator (R292). -/
def execAmovToAcc (gp : BitVec 2) (f : FmtR) (s : State) : Host.Outcome State Fault Refusal :=
  issue s (.amovToAcc gp f) fun s =>
    let a := rv (ops s) f.rs1.toNat
    let b := rv (ops s) f.rs2.toNat
    let fz := fzOf (ops s)
    putAcc s gp f.rd (if f.func.toNat % 2 = 1 then .i else .f) fun i =>
      match f.func.toNat with
      | 0 => widen64 fz (lane a i)
      | 1 => (lane a i).signExtend 64
      | _ => dn ((lane b i).toNat * 2 ^ 32 + (lane a i).toNat)
/-- AMOV out of an accumulator (R292): h is the rs2 field. -/
def execAmovFromAcc (gp : BitVec 2) (f : FmtR) (s : State) : Host.Outcome State Fault Refusal :=
  issue s (.amovFromAcc gp f) fun s =>
    let a := racc (ops s) f.rs1.toNat
    putV s gp f.rd fun i => BitVec.ofNat 32 (bits (accRead a i).toNat (32 * f.rs2.toNat) 32)
/-- A lane of VMAC (R293). -/
def macF (fz : Bool) (acc : Dword) (a b : Word) : Nat × Flags :=
  fmadd f64 { mode := 0, fz := false, r := 0 } (laneIn fz a) (laneIn fz b) (decodeF f64 acc.toNat)
def macI (acc : Dword) (a b : Word) : Dword := acc + dw (a.toInt * b.toInt)
/-- VMAC (R293). -/
def execVmac (gp : BitVec 2) (f : FmtR) (s : State) : Host.Outcome State Fault Refusal :=
  issue s (.vmac gp f) fun s =>
    let a := rv (ops s) f.rs1.toNat
    let b := rv (ops s) f.rs2.toNat
    let old := racc (ops s) f.rd.toNat
    let fz := fzOf (ops s)
    if isI32 f then putAcc s gp f.rd .i fun i => macI (accRead old i) (lane a i) (lane b i)
    else
      let x (i : Nat) := macF fz (accRead old i) (lane a i) (lane b i)
      let fl := laneFlags (gpOf s gp) fun i => (x i).2
      modCur (putAcc s gp f.rd .f fun i => dn (x i).1) fun c => orFlags c fl
/-- An accumulator's lane as an exact value (R256). -/
def accVal (a : Acc) (i : Nat) : FVal :=
  match a.kind with
  | .zero => .exact false 0 0
  | .f => decodeF f64 (accLane a.lanes i).toNat
  | .i => .ofInt (accLane a.lanes i).toInt
/-- VNAR (R256, R294). -/
def execVnar (gp : BitVec 2) (f : FmtR) (s : State) : Host.Outcome State Fault Refusal :=
  issue s (.vnar gp f) fun s =>
    let a := racc (ops s) f.rs1.toNat
    lanesOut s gp f.rd fun i => convLane f.rs2.toNat (convMode s f) (srLane s 0 i) (fzOf (ops s)) (accVal a i)

end Sys2Proof.Machine
end

