-- ==== Sys2Proof/Machine/Integer.lean ====
section
/-! DEFINITION. Integer instructions (spec/06 R99-R105). -/

namespace Sys2Proof.Machine

/-- A three-register integer instruction: the result of rs1 and rs2 goes to rd. -/
def intRR (s : State) (i : Instr) (gp : BitVec 2) (f : FmtR) (g : Dword → Dword → Dword) :
    Host.Outcome State Fault Refusal :=
  issue s i fun s => putX s gp f.rd (g (rx (ops s) f.rs1.toNat) (rx (ops s) f.rs2.toNat))
/-- An immediate integer instruction. -/
def intRI (s : State) (i : Instr) (gp : BitVec 2) (f : FmtI) (g : Dword → Dword → Dword) :
    Host.Outcome State Fault Refusal :=
  issue s i fun s => putX s gp f.rd (g (rx (ops s) f.rs1.toNat) (immI f))
/-- A shift by a constant: imm10 is an unsigned count (R104). -/
def intShift (s : State) (i : Instr) (gp : BitVec 2) (f : FmtI) (g : Dword → Nat → Dword) :
    Host.Outcome State Fault Refusal :=
  issue s i fun s => putX s gp f.rd (g (rx (ops s) f.rs1.toNat) f.imm.toNat)

def truth (b : Bool) : Dword := if b then 1 else 0
def shiftCount (b : Dword) : Nat := b.toNat % 64
def shl (a : Dword) (n : Nat) : Dword := a <<< n
def shr (a : Dword) (n : Nat) : Dword := a >>> n
def sar (a : Dword) (n : Nat) : Dword := a.sshiftRight n
def sLess (a b : Dword) : Bool := decide (a.toInt < b.toInt)
def uLess (a b : Dword) : Bool := decide (a.toNat < b.toNat)
def mulHigh (a b : Dword) : Dword := dw (a.toInt * b.toInt / 2 ^ 64)
def mulHighU (a b : Dword) : Dword := dn (a.toNat * b.toNat / 2 ^ 64)
/-- R101. -/
def divS (a b : Dword) : Dword := if b = 0 then BitVec.allOnes 64 else dw (a.toInt.tdiv b.toInt)
def divU (a b : Dword) : Dword := if b = 0 then BitVec.allOnes 64 else dn (a.toNat / b.toNat)
def remS (a b : Dword) : Dword := if b = 0 then a else dw (a.toInt.tmod b.toInt)
def remU (a b : Dword) : Dword := if b = 0 then a else dn (a.toNat % b.toNat)
/-- R103. -/
def clz (a : Dword) : Dword := dn (leastBit (fun i => a.getLsbD (63 - i)) 64)
def ctz (a : Dword) : Dword := dn (leastBit a.getLsbD 64)
def popc (a : Dword) : Dword := dn (popcount a.toNat 64)
/-- The bits of a selected by mask b below bit n, packed, and how many there are. -/
def extractBits (a b : Dword) : Nat → Nat × Nat
  | 0 => (0, 0)
  | n + 1 =>
    let p := extractBits a b n
    if b.getLsbD n then (p.1 + bit01 (a.getLsbD n) * 2 ^ p.2, p.2 + 1) else p
/-- The low bits of a placed at the 1 bits of mask b below bit n. -/
def depositBits (a b : Dword) : Nat → Nat × Nat
  | 0 => (0, 0)
  | n + 1 =>
    let p := depositBits a b n
    if b.getLsbD n then (p.1 + bit01 (a.getLsbD p.2) * 2 ^ n, p.2 + 1) else p
def bext (a b : Dword) : Dword := dn (extractBits a b 64).1
def bdep (a b : Dword) : Dword := dn (depositBits a b 64).1

/-- R100. -/
def execAdd (gp : BitVec 2) (f : FmtR) (s : State) := intRR s (.add gp f) gp f (· + ·)
def execSub (gp : BitVec 2) (f : FmtR) (s : State) := intRR s (.sub gp f) gp f (· - ·)
def execAnd (gp : BitVec 2) (f : FmtR) (s : State) := intRR s (.and gp f) gp f (· &&& ·)
def execOr (gp : BitVec 2) (f : FmtR) (s : State) := intRR s (.or gp f) gp f (· ||| ·)
def execXor (gp : BitVec 2) (f : FmtR) (s : State) := intRR s (.xor gp f) gp f (· ^^^ ·)
def execSll (gp : BitVec 2) (f : FmtR) (s : State) := intRR s (.sll gp f) gp f fun a b => shl a (shiftCount b)
def execSrl (gp : BitVec 2) (f : FmtR) (s : State) := intRR s (.srl gp f) gp f fun a b => shr a (shiftCount b)
def execSra (gp : BitVec 2) (f : FmtR) (s : State) := intRR s (.sra gp f) gp f fun a b => sar a (shiftCount b)
def execSlt (gp : BitVec 2) (f : FmtR) (s : State) := intRR s (.slt gp f) gp f fun a b => truth (sLess a b)
def execSltu (gp : BitVec 2) (f : FmtR) (s : State) := intRR s (.sltu gp f) gp f fun a b => truth (uLess a b)
def execMin (gp : BitVec 2) (f : FmtR) (s : State) := intRR s (.min gp f) gp f fun a b => if sLess b a then b else a
def execMax (gp : BitVec 2) (f : FmtR) (s : State) := intRR s (.max gp f) gp f fun a b => if sLess a b then b else a
def execMinu (gp : BitVec 2) (f : FmtR) (s : State) := intRR s (.minu gp f) gp f fun a b => if uLess b a then b else a
def execMaxu (gp : BitVec 2) (f : FmtR) (s : State) := intRR s (.maxu gp f) gp f fun a b => if uLess a b then b else a
def execMul (gp : BitVec 2) (f : FmtR) (s : State) := intRR s (.mul gp f) gp f (· * ·)
def execMulh (gp : BitVec 2) (f : FmtR) (s : State) := intRR s (.mulh gp f) gp f mulHigh
def execMulhu (gp : BitVec 2) (f : FmtR) (s : State) := intRR s (.mulhu gp f) gp f mulHighU
/-- R101 (DESIGN CHOICE, log 62). -/
def execDiv (gp : BitVec 2) (f : FmtR) (s : State) := intRR s (.div gp f) gp f divS
def execDivu (gp : BitVec 2) (f : FmtR) (s : State) := intRR s (.divu gp f) gp f divU
def execRem (gp : BitVec 2) (f : FmtR) (s : State) := intRR s (.rem gp f) gp f remS
def execRemu (gp : BitVec 2) (f : FmtR) (s : State) := intRR s (.remu gp f) gp f remU
/-- R102: func is the shift. -/
def execAddsh (gp : BitVec 2) (f : FmtR) (s : State) := intRR s (.addsh gp f) gp f fun a b => a + shl b f.func.toNat
/-- R103. -/
def execClz (gp : BitVec 2) (f : FmtR) (s : State) := intRR s (.clz gp f) gp f fun a _ => clz a
def execCtz (gp : BitVec 2) (f : FmtR) (s : State) := intRR s (.ctz gp f) gp f fun a _ => ctz a
def execPopc (gp : BitVec 2) (f : FmtR) (s : State) := intRR s (.popc gp f) gp f fun a _ => popc a
def execBext (gp : BitVec 2) (f : FmtR) (s : State) := intRR s (.bext gp f) gp f bext
def execBdep (gp : BitVec 2) (f : FmtR) (s : State) := intRR s (.bdep gp f) gp f bdep
/-- R102: func names the predicate whose bit 0 selects. -/
def execSel (gp : BitVec 2) (f : FmtR) (s : State) : Host.Outcome State Fault Refusal :=
  issue s (.sel gp f) fun s =>
    let r := ops s
    putX s gp f.rd (if (rp r f.func.toNat).getLsbD 0 then rx r f.rs1.toNat else rx r f.rs2.toNat)
/-- R104. -/
def execAddi (gp : BitVec 2) (f : FmtI) (s : State) := intRI s (.addi gp f) gp f (· + ·)
def execAndi (gp : BitVec 2) (f : FmtI) (s : State) := intRI s (.andi gp f) gp f (· &&& ·)
def execOri (gp : BitVec 2) (f : FmtI) (s : State) := intRI s (.ori gp f) gp f (· ||| ·)
def execXori (gp : BitVec 2) (f : FmtI) (s : State) := intRI s (.xori gp f) gp f (· ^^^ ·)
def execSlli (gp : BitVec 2) (f : FmtI) (s : State) := intShift s (.slli gp f) gp f shl
def execSrli (gp : BitVec 2) (f : FmtI) (s : State) := intShift s (.srli gp f) gp f shr
def execSrai (gp : BitVec 2) (f : FmtI) (s : State) := intShift s (.srai gp f) gp f sar
def execSlti (gp : BitVec 2) (f : FmtI) (s : State) := intRI s (.slti gp f) gp f fun a b => truth (sLess a b)
def execSltiu (gp : BitVec 2) (f : FmtI) (s : State) := intRI s (.sltiu gp f) gp f fun a b => truth (uLess a b)
/-- R105. -/
def execLi (gp : BitVec 2) (f : FmtU) (s : State) : Host.Outcome State Fault Refusal :=
  issue s (.li gp f) fun s => putX s gp f.rd (immU f)
/-- LIH keeps rd[31:0] (R105). -/
def execLih (gp : BitVec 2) (f : FmtU) (s : State) : Host.Outcome State Fault Refusal :=
  issue s (.lih gp f) fun s =>
    putX s gp f.rd (dn ((rx (ops s) f.rd.toNat).toNat % 2 ^ 32 + (immHigh f).toNat * 2 ^ 32))

end Sys2Proof.Machine
end

