-- ==== Sys2Proof/Machine/Scalar.lean ====
section
/-! DEFINITION. Scalar floating-point instructions (spec/06 R107-R114). -/

namespace Sys2Proof.Machine

/-- A floating instruction of width func[28:27] on the low bits of its registers (R108). -/
def floatOp (s : State) (i : Instr) (gp : BitVec 2) (f : FmtR) (g : Fmt → Env → FVal → FVal → FVal → Nat × Flags) :
    Host.Outcome State Fault Refusal :=
  issue s i fun s =>
    let fmt := scalarFmt (f.func.toNat % 4)
    let e := envOf s 0
    let v (r : BitVec 6) : FVal := operand fmt e (rx (ops s) r.toNat).toNat
    putXF s gp f.rd (g fmt e (v f.rs1) (v f.rs2) (v f.rd))

/-- R109. -/
def execFadd (gp : BitVec 2) (f : FmtR) (s : State) := floatOp s (.fadd gp f) gp f fun t e a b _ => fadd t e a b
def execFsub (gp : BitVec 2) (f : FmtR) (s : State) := floatOp s (.fsub gp f) gp f fun t e a b _ => fadd t e a (negF b)
def execFmul (gp : BitVec 2) (f : FmtR) (s : State) := floatOp s (.fmul gp f) gp f fun t e a b _ => fmul t e a b
def execFdiv (gp : BitVec 2) (f : FmtR) (s : State) := floatOp s (.fdiv gp f) gp f fun t e a b _ => fdiv t e a b
def execFsqrt (gp : BitVec 2) (f : FmtR) (s : State) := floatOp s (.fsqrt gp f) gp f fun t e a _ _ => fsqrt t e a
/-- c is the old rd (R109). -/
def execFma (gp : BitVec 2) (f : FmtR) (s : State) := floatOp s (.fma gp f) gp f fun t e a b c => fmadd t e a b c
/-- R110. -/
def execFmin (gp : BitVec 2) (f : FmtR) (s : State) := floatOp s (.fmin gp f) gp f fun t _ a b _ => fminmax t false a b
def execFmax (gp : BitVec 2) (f : FmtR) (s : State) := floatOp s (.fmax gp f) gp f fun t _ a b _ => fminmax t true a b
/-- R111. -/
def execFcmp (gp : BitVec 2) (f : FmtR) (s : State) := floatOp s (.fcmp gp f) gp f fun _ _ a b _ => fcmp a b
/-- R112: the encoding alone, no flag. -/
def execFclass (gp : BitVec 2) (f : FmtR) (s : State) : Host.Outcome State Fault Refusal :=
  issue s (.fclass gp f) fun s =>
    putX s gp f.rd (dn (fclass (scalarFmt (f.func.toNat % 4)) (rx (ops s) f.rs1.toNat).toNat))
/-- An integer result sign-extended to 64 bits, with its flags. -/
def intResult (x : Int × Flags) : Nat × Flags := ((dw x.1).toNat, x.2)
/-- FCVT's result of a register value (R113): rs2 holds SRC [5:4], IW [3] and RND [2:0]. -/
def fcvt (s : State) (f : FmtR) (w : Nat) : Nat × Flags :=
  let k := f.rs2.toNat
  let e := envRnd s (k % 8) 0
  let width := scalarFmt (f.func.toNat % 4)
  let n := if bitAt k 3 then 32 else 64
  if f.func.toNat / 4 = 1 then intResult (fcvtI n e (operand width e w))
  else if k / 16 = 3 then fcvtF width e (FVal.ofInt (sext n w))
  else fcvtF width e (operand (scalarFmt (k / 16)) e w)
/-- R113. -/
def execFcvt (gp : BitVec 2) (f : FmtR) (s : State) : Host.Outcome State Fault Refusal :=
  issue s (.fcvt gp f) fun s => putXF s gp f.rd (fcvt s f (rx (ops s) f.rs1.toNat).toNat)

end Sys2Proof.Machine
end

