-- ==== Sys2Proof/Machine/Loader.lean ====
section
/-! DEFINITION. Loading a code object (spec/22 R380-R389, R407; spec/19 R337): the object's layout, the list of
candidates, the rewriter (registers, relocations, w bits), the portable form, and placement. -/

namespace Sys2Proof.Machine

/-- The places of the body fields of an instruction that name an x register (R86, R383). -/
def xPlaces : Instr → List Nat
  | .pref _ | .invr _ | .wbr _ | .regset _ | .wsclr _ | .publ _ | .send _ | .sendg _ | .mgath _ | .mscale _
  | .ctxsave _ | .xinv _ =>
    [13, 19]
  | .jr _ | .ldv _ | .stv _ | .ldvx _ | .stvx _ | .sigclr _ | .regclr _ | .retype _ | .sbind _ | .mldb _
  | .mmuls _ | .mstore _ | .npcfg _ | .vbcast _ _ | .pset _ _ =>
    [13]
  | .vidx _ _ | .vidxI32 _ _ =>
    [19]
  | .clz _ _ | .ctz _ _ | .popc _ _ | .addi _ _ | .andi _ _ | .ori _ _ | .xori _ _ | .slli _ _ | .srli _ _
  | .srai _ _ | .slti _ _ | .sltiu _ _ | .fsqrt _ _ | .fclass _ _ | .fcvt _ _ | .jrl _ | .bcEq _ | .bcNe _
  | .bcLt _ | .bcGe _ | .bcLtu _ | .bcGeu _ | .ldb _ | .ldbu _ | .ldh _ | .ldhu _ | .ldw _ | .ldwu _ | .ldd _
  | .stb _ | .sth _ | .stw _ | .std _ | .ldaq _ | .strl _ | .spawn _ | .steal _ | .qdepth _ | .ncheck _
  | .ctxload _ =>
    [7, 13]
  | .add _ _ | .sub _ _ | .and _ _ | .or _ _ | .xor _ _ | .sll _ _ | .srl _ _ | .sra _ _ | .slt _ _
  | .sltu _ _ | .min _ _ | .max _ _ | .minu _ _ | .maxu _ _ | .mul _ _ | .mulh _ _ | .mulhu _ _ | .div _ _
  | .divu _ _ | .rem _ _ | .remu _ _ | .addsh _ _ | .bext _ _ | .bdep _ _ | .sel _ _ | .fadd _ _ | .fsub _ _
  | .fmul _ _ | .fdiv _ _ | .fma _ _ | .fmin _ _ | .fmax _ _ | .fcmp _ _ | .amoadd _ | .amoand _ | .amoor _
  | .amoxor _ | .amomin _ | .amomax _ | .amominu _ | .amomaxu _ | .amoswp _ | .amocas _ | .amofadd _
  | .amoaddt _ | .cpy _ | .cpy2 _ | .cpym _ | .cpyw _ | .spawnh _ | .npred _ =>
    [7, 13, 19]
  | .vext _ _ =>
    [7, 19]
  | .li _ _ | .lih _ _ | .brl _ | .loop _ | .crrd _ | .crwr _ | .cpyq _ | .take _ | .stealAny _ | .qdepthIn _
  | .treel _ | .wfa _ | .semtry _ | .mstat _ | .vred _ _ | .vnzc _ _ | .pcnt _ _ | .pfirst _ _ =>
    [7]
  | .bcz f => if f.vec == 1 then [] else [7]
  | .waitf f => if f.func == 1 then [] else [13]
  | _ => []
/-- The places of its w bits (R86): of the first source, and of the second. -/
def wPlaces : Instr → Option Nat × Option Nat
  | .bcz _ | .loop _ =>
    (some 13, none)
  | .bcEq _ | .bcNe _ | .bcLt _ | .bcGe _ | .bcLtu _ | .bcGeu _ | .stb _ | .sth _ | .stw _ | .std _ | .strl _
  | .stv _ =>
    (some 19, some 20)
  | .addi _ _ | .andi _ _ | .ori _ _ | .xori _ _ | .slli _ _ | .srli _ _ | .srai _ _ | .slti _ _ | .sltiu _ _
  | .jr _ | .jrl _ | .ldb _ | .ldbu _ | .ldh _ | .ldhu _ | .ldw _ | .ldwu _ | .ldd _ | .ldaq _ | .ldv _ =>
    (some 19, none)
  | .add _ _ | .sub _ _ | .and _ _ | .or _ _ | .xor _ _ | .sll _ _ | .srl _ _ | .sra _ _ | .slt _ _
  | .sltu _ _ | .min _ _ | .max _ _ | .minu _ _ | .maxu _ _ | .mul _ _ | .mulh _ _ | .mulhu _ _ | .div _ _
  | .divu _ _ | .rem _ _ | .remu _ _ | .addsh _ _ | .bext _ _ | .bdep _ _ | .sel _ _ | .fadd _ _ | .fsub _ _
  | .fmul _ _ | .fdiv _ _ | .fma _ _ | .fmin _ _ | .fmax _ _ | .fcmp _ _ | .ldvx _ | .stvx _ | .pref _
  | .invr _ | .wbr _ | .amoadd _ | .amoand _ | .amoor _ | .amoxor _ | .amomin _ | .amomax _ | .amominu _
  | .amomaxu _ | .amoswp _ | .amocas _ | .amofadd _ | .amoaddt _ | .regset _ | .wsclr _ | .publ _ | .send _
  | .sendg _ | .mgath _ | .mscale _ | .npred _ | .ctxsave _ | .xinv _ | .vadd _ _ | .vsub _ _ | .vmul _ _
  | .vfma _ _ | .vmac _ _ | .vmin _ _ | .vmax _ _ | .vand _ _ | .vor _ _ | .vxor _ _ | .vsll _ _ | .vsrl _ _
  | .vsra _ _ | .vcmp _ _ | .vsel _ _ | .vext _ _ | .vperm _ _ | .vunpkbZx8 _ _ | .amovToAcc _ _ =>
    (some 25, some 26)
  | .clz _ _ | .ctz _ _ | .popc _ _ | .fsqrt _ _ | .fclass _ _ | .fcvt _ _ | .crwr _ | .waitf _ | .sigclr _
  | .regclr _ | .retype _ | .steal _ | .qdepth _ | .mldb _ | .mmuls _ | .mstore _ | .npcfg _ | .ncheck _
  | .ctxload _ | .vabs _ _ | .vneg _ _ | .vsllImm _ _ | .vsrlImm _ _ | .vsraImm _ _ | .vbcast _ _ | .vred _ _
  | .vcvt _ _ | .vexp2 _ _ | .vrcp _ _ | .vrsq _ _ | .vlog2 _ _ | .vnzc _ _ | .vbmap _ _ | .vpackb _ _
  | .vunpkb _ _ | .pset _ _ =>
    (some 25, none)
  | .vidx _ _ | .vidxI32 _ _ =>
    (none, some 26)
  | _ => (none, none)

/-- A place of a load's refusal or failure (R386): the code, and for RELOC_RANGE its KIND and place offset. -/
structure LoadErr where
  code : Nat
  kind : Nat := 0
  off  : Nat := 0
  deriving DecidableEq, Repr

/-- A field of an object's bytes, a dword, or one that lies outside and reads as 0. -/
def dwordAt (b : List Byte) (off : Nat) : Nat := byteField b off 8
/-- A directory entry (R381). -/
structure DirEntry where
  portable : Bool
  rev      : Nat
  level    : Nat
  off      : Nat
  size     : Nat
  deriving DecidableEq, Repr
def dirEntry (b : List Byte) (i : Nat) : DirEntry :=
  let o := 64 + 32 * i
  let w := dwordAt b o
  { portable := bitAt w 0, rev := bits w 8 16, level := bits w 24 8, off := dwordAt b (o + 8), size := dwordAt b (o + 16) }
/-- The images that an object's header counts; a header, and a directory, that break R381; the directory of an object,
or none where either does. -/
def images (b : List Byte) : Nat := bits (dwordAt b 0) 48 16
def headerBad (b : List Byte) : Bool :=
  let w := dwordAt b 0
  bits w 0 32 != 0x4F5A5342 || bits w 32 16 != 1 || images b == 0 || decide (64 < images b) || byteField b 16 48 != 0 ||
  decide (dwordAt b 8 < 64 + 32 * images b)
def entriesBad (b : List Byte) : Bool :=
  let n := images b
  let l := (List.range n).map (dirEntry b)
  (List.range n).any (fun i => dwordAt b (64 + 32 * i + 24) != 0) ||
  l.any (fun e => decide (dwordAt b 8 < e.off + e.size)) || decide (1 < (l.filter (·.portable)).length)
def directory (b : List Byte) : Option (List DirEntry) :=
  if b.length < 64 || headerBad b || dwordAt b 8 != b.length || entriesBad b then none
  else some ((List.range (images b)).map (dirEntry b))

/-- Of two native images of the generation, the one tried first: the higher level, then the higher revision (R337). -/
def triedFirst (a b : Nat × DirEntry) : Bool :=
  decide (b.2.level < a.2.level ∨ (b.2.level = a.2.level ∧ b.2.rev ≤ a.2.rev))
def placeImage (a : Nat × DirEntry) : List (Nat × DirEntry) → List (Nat × DirEntry)
  | [] => [a]
  | b :: l => if triedFirst a b then a :: b :: l else b :: placeImage a l
/-- The candidates in the order they are tried (R337): the exact revision, the generation's images, the portable
form; none whose level exceeds the device's. -/
def candidates (l : List DirEntry) : List (Nat × DirEntry) :=
  let all := (l.zipIdx.map fun e => (e.2, e.1)).filter fun e => decide (e.2.level ≤ Config.level)
  let native := all.filter fun e => !e.2.portable
  let exact := native.filter fun e => e.2.rev == Config.revision
  let near := native.filter fun e => e.2.rev != Config.revision && e.2.rev / 256 == Config.revision / 256
  exact ++ near.foldr placeImage [] ++ all.filter fun e => e.2.portable

/-- A section of an image (R382). -/
structure Section where
  ty    : Nat
  ptype : Nat
  bytes : List Byte
  deriving DecidableEq, Repr
def sections (b : List Byte) : Option (List Section) :=
  let n := dwordAt b 0
  if b.length < 8 ∨ b.length < 8 + 16 * n then none
  else
    let raw := (List.range n).map fun i => (dwordAt b (8 + 16 * i), dwordAt b (16 + 16 * i))
    if raw.any fun e => bits e.1 0 8 == 0 || decide (10 < bits e.1 0 8) || decide (3 < bits e.1 8 8) ||
        decide (b.length < bits e.2 0 32 + bits e.2 32 32) then none
    else some (raw.map fun e =>
      { ty := bits e.1 0 8, ptype := bits e.1 8 8, bytes := (b.drop (bits e.2 0 32)).take (bits e.2 32 32) })
def ofType (l : List Section) (t : Nat) : List Section := l.filter fun x => x.ty == t
def bytesOf (l : List Section) (t : Nat) : List Byte := ((ofType l t).map (·.bytes)).flatten
/-- A section table that breaks R382: bundles are whole, and the sections that have one place stand once
(DESIGN CHOICE, log 94). -/
def sectionsBad (portable : Bool) (l : List Section) : Bool :=
  l.any (fun x => (x.ty == 1 || x.ty == 3) && x.bytes.length % 8 != 0) ||
  l.any (fun x => !portable && 9 ≤ x.ty) || [1, 2, 5, 7].any fun t => decide (1 < (ofType l t).length)

def roundUp (n k : Nat) : Nat := (n + k - 1) / k * k
/-- The bases of the placed sections, by index (R382, R407): from DBASE the data, then the body table, then the
overlay text; the resident text and TCM data by TCM offset. -/
def placeTypes (t align : Nat) : List (Section × Nat) → Nat → List (Nat × Nat) × Nat
  | [], next => ([], next)
  | (x, i) :: l, next =>
    if x.ty == t then
      let base := roundUp next align
      let r := placeTypes t align l (base + x.bytes.length)
      ((i, base) :: r.1, r.2)
    else placeTypes t align l next
structure Layout where
  bases : List (Nat × Nat)
  table : Nat
  deriving DecidableEq, Repr
def layout (l : List Section) (dbase : Nat) : Layout :=
  let x := l.zipIdx
  let data := placeTypes 4 4096 x dbase
  let table := roundUp data.2 8192
  let body := placeTypes 5 8192 x data.2
  let overlays := placeTypes 3 4096 x body.2
  let text := placeTypes 1 8 x 0
  let tdata := placeTypes 2 1 x (bytesOf l 1).length
  { bases := data.1 ++ body.1 ++ overlays.1 ++ text.1 ++ tdata.1, table := table }
def baseOf (y : Layout) (i : Nat) : Option Nat := (y.bases.find? fun e => e.1 == i).map (·.2)

/-- The register map (R383): the identity where the image has none; none where it breaks the rule. -/
def regMapOf (l : List Section) : Option (List Nat) :=
  match ofType l 7 with
  | [] => some (List.range 64)
  | x :: _ =>
    let m := x.bytes.map (·.toNat)
    if m.length = 64 && (List.range 64).all m.contains && m.take 7 == List.range 7 then some m else none

/-- Replaces n bits of a word. -/
def putField32 (w lo n v : Nat) : Nat := putBits w lo n (v % 2 ^ n)
/-- The words of a bundle with its x registers renumbered (R383). -/
def renumberWord (m : List Nat) (i : Instr) (w : Nat) : Nat :=
  (xPlaces i).foldl (fun w p => putField32 w p 6 (m.getD (bits w p 6) 0)) w
def renumber (m : List Nat) (shape : Option Bundle) (d : Nat) : Nat :=
  let w0 := bits d 0 32
  let w1 := bits d 32 32
  match shape with
  | none => d
  | some (.lone i) => renumberWord m i w0 + w1 * 2 ^ 32
  | some (.pair c a) => renumberWord m c w0 + renumberWord m a w1 * 2 ^ 32
/-- What the rewriter decodes of a dword of text, once (R383). -/
def shapeOf (d : Nat) : Option Bundle :=
  match decodeBundle false (bits d 0 32) (bits d 32 32) with | .ok b => some b | .error _ => none

/-- A relocation (R384). -/
structure Reloc where
  off    : Nat
  place  : Nat
  target : Nat
  kind   : Nat
  addend : Nat
  deriving DecidableEq, Repr
def relocs (b : List Byte) : List Reloc :=
  (List.range (b.length / 16)).map fun i =>
    let w := dwordAt b (16 * i)
    { off := bits w 0 32, place := bits w 32 4, target := bits w 36 4, kind := bits w 40 8, addend := dwordAt b (16 * i + 8) }
/-- A signed 64-bit value lies in a range. -/
def inSigned (v lo hi : Nat) : Bool :=
  let s : Int := (dn v).toInt
  decide (-(lo : Int) ≤ s ∧ s ≤ hi)
/-- V passes the check of its KIND (R384). -/
def relocFits (kind v tcm : Nat) : Bool :=
  match kind with
  | 3 => inSigned v (2 ^ 31) (2 ^ 31 - 1)
  | 4 => inSigned v 512 511
  | 5 => v % 8 == 0 && decide (v / 8 < 65536) && decide (v < tcm)
  | _ => true
/-- The bundle at the place, with V written; one that did not decode when the rewriter took it up stays as it is
(R383). -/
def relocDword (kind v off : Nat) (decoded : Bool) (d : Nat) : Nat :=
  if !decoded then d
  else match kind with
    | 1 | 3 => putField32 d 32 32 v
    | 2 => putField32 d 32 32 (v / 2 ^ 32)
    | 4 => putField32 d (if off % 8 = 4 then 52 else 20) 10 v
    | 6 => v
    | _ => putField32 d 32 16 (v / 8)
/-- Dwords with n bytes of a value written from a byte offset on. -/
def putSpan (l : List Nat) (off n v : Nat) : List Nat :=
  let i := off / 8
  let w := putBits (l.getD i 0 + l.getD (i + 1) 0 * 2 ^ 64) (8 * (off % 8)) (8 * n) (v % 2 ^ (8 * n))
  (l.set i (w % 2 ^ 64)).set (i + 1) (w / 2 ^ 64)
/-- The bytes that a relocation writes of a place that holds no bundles; none of a bundle's field (R384). -/
def placeBytes : Nat → Nat
  | 6 => 8 | 5 => 2 | _ => 0
/-- A place that the rewriter cannot take: it lies outside its section, or is no word of a bundle (DEDUCED, log 95).
Elsewhere R384 asks no alignment of it. -/
def placeBad (text : Bool) (n : Nat) (r : Reloc) : Bool :=
  if text then decide (8 * n ≤ r.off) || r.off % 4 != 0 || (r.kind == 6 && r.off % 8 != 0)
  else decide (8 * n < r.off + placeBytes r.kind || 8 * n ≤ r.off)
/-- Applies a relocation to the sections' dwords (DEDUCED, log 95). -/
def applyReloc (y : Layout) (tys : List Nat) (shapes : List (List (Option Bundle))) (tcm : Nat) (r : Reloc) (l : List (List Nat)) : Except LoadErr (List (List Nat)) :=
  match baseOf y r.target, baseOf y r.place with
  | some base, some _ =>
    let v := (base + r.addend) % 2 ^ 64
    let ds := l.getD r.place []
    let ty := tys.getD r.place 0
    let text := ty == 1 || ty == 3
    if r.kind = 0 ∨ 6 < r.kind ∨ placeBad text ds.length r then .error { code := 3 }
    else if !relocFits r.kind v tcm then .error { code := 2, kind := r.kind, off := r.off }
    else if !text then .ok (l.set r.place (putSpan ds r.off (placeBytes r.kind) (if r.kind = 5 then v / 8 else v)))
    else .ok (l.set r.place (ds.set (r.off / 8) (relocDword r.kind v r.off
      (((shapes.getD r.place []).getD (r.off / 8) none).isSome) (ds.getD (r.off / 8) 0))))
  | _, _ => .error { code := 3 }
def applyRelocs (y : Layout) (tys : List Nat) (shapes : List (List (Option Bundle))) (tcm : Nat) : List Reloc → List (List Nat) → Except LoadErr (List (List Nat))
  | [], l => .ok l
  | r :: rs, l => match applyReloc y tys shapes tcm r l with
    | .error e => .error e
    | .ok l => applyRelocs y tys shapes tcm rs l

/-- Unloaded latency of a row of R155, from 1; a miss at the farthest slice (R155, R385). -/
def latency : Nat → Option Nat
  | 1 => some 2 | 2 => some 5 | 3 => some 4 | 4 => some 24 | 5 => some 40 | 6 => some 140 | 7 => some 500
  | _ => none
/-- Writes w = 1 in one source of one word of a bundle, as it decoded when the rewriter took it up; one that did not
stays as it is (R383, R385). -/
def setW (word second : Bool) (shape : Option Bundle) (d : Nat) : Nat :=
  let put (i : Instr) (base : Nat) : Nat :=
    match (if second then (wPlaces i).2 else (wPlaces i).1) with
    | some p => d ||| 2 ^ (base + p)
    | none => d
  match shape with
  | none => d
  | some (.lone i) => if word then d else put i 0
  | some (.pair c a) => if word then put a 32 else put c 0
/-- One w-map entry (R385). -/
def applyW (shapes : List (Option Bundle)) (e : Nat) (l : List Nat) : Except LoadErr (List Nat) :=
  match latency (bits e 36 4) with
  | none => .error { code := 3 }
  | some n =>
    let i := bits e 0 32 / 8
    if bits e 0 32 % 8 ≠ 0 ∨ l.length ≤ i then .error { code := 3 }
    else if n ≤ bits e 48 16 then .ok l
    else .ok (l.set i (setW (bitAt e 32) (bitAt e 33) (shapes.getD i none) (l.getD i 0)))
def applyWs (shapes : List (Option Bundle)) : List Nat → List Nat → Except LoadErr (List Nat)
  | [], l => .ok l
  | e :: es, l => match applyW shapes e l with
    | .error x => .error x
    | .ok l => applyWs shapes es l
/-- The k-th w map belongs to the k-th text section (DEDUCED, log 95). -/
def applyMaps (shapes : List (List (Option Bundle))) : List Nat → List Section → List (List Nat) → Except LoadErr (List (List Nat))
  | i :: is, m :: ms, l =>
    (match applyWs (shapes.getD i []) (dwordsOf m.bytes) (l.getD i []) with
    | .error e => .error e
    | .ok x => applyMaps shapes is ms (l.set i x))
  | [], _ :: _, _ => .error { code := 3 }
  | _, [], l => .ok l
where
  dwordsOf (b : List Byte) : List Nat := (List.range (b.length / 8)).map fun i => dwordAt b (8 * i)

/-- An image ready to be placed: the sections' types, bases and bytes, and the address of its body table. -/
structure Ready where
  parts : List (Nat × Nat × List Byte)
  text  : Nat
  tcm   : Nat
  table : Option Nat
  deriving DecidableEq, Repr
/-- A near entry in an image's body table (R407). -/
def hasNear (l : List Section) : Bool :=
  let b := bytesOf l 5
  (List.range (b.length / 8)).any fun i => bitAt (dwordAt b (8 * i)) 63 && bodyNear (dwordAt b (8 * i))
def padDwords (b : List Byte) : List Nat := (List.range ((b.length + 7) / 8)).map fun i => dwordAt b (8 * i)
/-- A native image through the checks and the rewriter (R382-R385, R407). `near`: it must fit home cores
(DESIGN CHOICE, log 94). -/
def rewrite (b : List Byte) (dbase : Nat) (near : Bool) : Except LoadErr Ready :=
  match sections b with
  | none => .error { code := 3 }
  | some l =>
    if sectionsBad false l then .error { code := 3 }
    else
      let tcm := (bytesOf l 1).length + (bytesOf l 2).length
      if 0x80000 < tcm ∨ (0x20000 < tcm ∧ (near || hasNear l)) then .error { code := 5 }
      else match regMapOf l with
        | none => .error { code := 4 }
        | some m =>
          let y := layout l dbase
          let tys := l.map (·.ty)
          let ds := l.map fun x => if x.ty == 1 || x.ty == 3 then (padDwords x.bytes).map fun d => renumber m (shapeOf d) d else padDwords x.bytes
          let shapes := l.map fun x => if x.ty == 1 || x.ty == 3 then (padDwords x.bytes).map shapeOf else []
          let rs := bytesOf l 6
          if rs.length % 16 ≠ 0 then .error { code := 3 }
          else match applyRelocs y tys shapes (if tcm ≤ 0x20000 then 0x20000 else 0x80000) (relocs rs) ds with
            | .error e => .error e
            | .ok ds =>
              let texts := (l.zipIdx.filter fun e => e.1.ty == 1 || e.1.ty == 3).map (·.2)
              match applyMaps shapes texts (ofType l 8) ds with
              | .error e => .error e
              | .ok ds =>
                .ok { parts := l.zipIdx.filterMap fun e => (baseOf y e.2).map fun base =>
                        (e.1.ty, base, (((ds.getD e.2 []).map fun d => toBytes d 8).flatten).take e.1.bytes.length)
                      text := (bytesOf l 1).length, tcm := tcm
                      table := if (ofType l 5).isEmpty then none else some y.table }

/-- The operands of a virtual instruction (R387): its registers stand in word A, where 0 names x0, p0 or none, and a
register that may not be x0 or p0, or must be one of v16 to v31, is any other; the rest stands in the native body
(DEDUCED, log 142). -/
def virtualOperandBad (wa : Nat) (i : Instr) : Bool :=
  let rd := bits wa 48 16
  let rs1 := bits wa 32 16
  match i with
  | .bcz f => f.vec == 1 && rd == 0 && rs1 == 0
  | .loop _ => rd == 0 && rs1 == 0
  | .sbind _ | .sunbind _ | .vcmp _ _ | .vbmap _ _ | .pand _ _ | .por _ _ | .pxor _ _ | .pnot _ _ | .pset _ _ => rd == 0
  | i => operandBad false i
/-- A virtual instruction that fails the portable form (R387): it does not decode, its w fields are not zero, or it
is one of those that R387 bars. -/
def virtualBad (wa wb : Nat) : Bool :=
  let op := bits wa 0 7
  let lit : Word := BitVec.ofNat 32 (bits wb 32 32)
  let body := bits wb 0 30 + op
  let r := if bitAt wa 7 then buildA body lit 0 else buildC body lit
  let barred := !bitAt wa 7 && decide (0x78 ≤ op ∧ op ≤ 0x7E)
  bits wa 8 8 != 0 || bits wb 0 7 != 0 || bits wb 30 2 != 0 || barred ||
  match r with
  | none => true
  | some i =>
    let isOn (p : Option Nat) : Bool := match p with | some k => bitAt body k | none => false
    !funcOk i || rsvd i || virtualOperandBad wa i || literalHigh i || (lit != 0 && (literal i).isNone) ||
    isOn (wPlaces i).1 || isOn (wPlaces i).2 ||
    (match i with | .rope _ | .unrope _ | .ropeck _ | .treel _ => true | _ => false)
/-- The places of the w bits of the sources that an instruction has: a w field that must be zero is none's (R117,
R292). -/
def waitPlaces (i : Instr) : Option Nat × Option Nat :=
  match i with
  | .bcz f => if f.vec == 1 then (none, none) else wPlaces i
  | .amovToAcc _ f => if f.func.toNat < 2 then ((wPlaces i).1, none) else wPlaces i
  | i => wPlaces i
/-- Every source of a bundle has w = 1 (R388). -/
def allWaits (d : Nat) : Bool :=
  let on (base : Nat) (i : Instr) : Bool :=
    let p := waitPlaces i
    p.1.all (fun k => bitAt d (base + k)) && p.2.all (fun k => bitAt d (base + k))
  match shapeOf d with
  | none => true
  | some (.lone i) => on 0 i
  | some (.pair c a) => on 0 c && on 32 a
/-- The body entry of a handler (R388): far-only or both as placed, threshold 0, class 1. -/
def handlerBody (place e : Nat) : Bool :=
  bodyValid e && bodyKind e == (if place = 0 then 0 else 2) && bits e 34 10 == 0 && bits e 44 2 == 1
/-- What the translator's output holds, whatever the rest (R388): w = 1 on every source, and one body for each
handler, by its index. -/
def translatedOk (hs : List (Nat × Nat)) (t : List Byte) : Bool :=
  match sections t with
  | none => false
  | some l =>
    (padDwords (bytesOf l 1)).all allWaits && (padDwords (bytesOf l 3)).all allWaits &&
    (bytesOf l 5).length == 8 * hs.length &&
    hs.zipIdx.all fun e => handlerBody (bits e.1.1 32 2) (dwordAt (bytesOf l 5) (8 * e.2))
/-- The portable form (R387, R388): its tables are checked, and the runtime's translator makes native text for the
partition's core map (DESIGN CHOICE, log 96). -/
def portable (map : List Nat × List Nat) (b : List Byte) (dbase : Nat) : Except LoadErr Ready :=
  match sections b with
  | none => .error { code := 3 }
  | some l =>
    let h := bytesOf l 9
    let v := bytesOf l 10
    let n := dwordAt h 0
    let hs := (List.range n).map fun i => (dwordAt h (8 + 16 * i), dwordAt h (16 + 16 * i))
    if sectionsBad true l || decide (h.length < 8 + 16 * n) || v.length % 16 != 0 ||
        hs.any (fun e => 3 ≤ bits e.1 32 2 || decide (v.length ≤ e.2) || e.2 % 16 != 0) then .error { code := 3 }
    else if (List.range (v.length / 16)).any fun i => virtualBad (dwordAt v (16 * i)) (dwordAt v (16 * i + 8)) then
      .error { code := 6 }
    else match (Config.translate b map.1 map.2).filter (translatedOk hs) with
      | none => .error { code := 5 }
      | some t => rewrite t dbase (hs.any fun e => bits e.1 32 2 == 0)

/-- Tries the candidates in order (R381, R386): the image with its index, or the last failure. -/
def tryAll (map : List Nat × List Nat) (b : List Byte) (dbase : Nat) : List (Nat × DirEntry) → Nat × LoadErr → Except (Nat × LoadErr) (Nat × Ready)
  | [], e => .error e
  | (i, d) :: l, _ =>
    let img := (b.drop d.off).take d.size
    match (if d.portable then portable map img dbase else rewrite img dbase false) with
    | .ok r => .ok (i, r)
    | .error e => tryAll map b dbase l (i, e)
/-- The choice of an image from an object's bytes (R381, R386). -/
def chooseImage (map : List Nat × List Nat) (b : List Byte) (dbase : Nat) : Except (Nat × LoadErr) (Nat × Ready) :=
  match directory b with
  | none => .error (0, { code := 3 })
  | some l => tryAll map b dbase (candidates l) (0, { code := 1 })

/-- What a read or write of memory by the loader ends in. -/
inductive LoadMem where
  | ok (s : State) (bytes : List Byte)
  | refused (s : State)
  | late
  deriving DecidableEq, Repr
/-- Reads n dwords of partition memory. -/
def loadBytes (p va : Nat) : Nat → State → LoadMem
  | 0, s => .ok s []
  | n + 1, s =>
    match loadBytes p va n s with
    | .ok s b =>
      (match performRead s { walk := walkerFree s p (va + 8 * n), grant := true } (deviceAccess p) (va + 8 * n) 8 false false with
      | .done s v _ => .ok s (b ++ toBytes v 8)
      | .refuse s _ _ | .refuseVal s _ _ _ => .refused s
      | _ => .late)
    | r => r
/-- The loader's write of one byte at its home, whatever the page's type (R380). -/
def loadByte (s : State) (p va v : Nat) : LoadMem :=
  let home := homeIn s p va
  let k := lineKey p va
  let tr := match translate s home p va true false with
    | .needWalk s => if walkerFree s p va then walk s home p va true false none else .needWalk s
    | r => r
  match tr with
  | .ok s t =>
    if t.hw then .ok (hostStore s home p (leafPa t 0 va) 1 v) []
    else match fillHome s k (leafPa t 0 va / 64 * 64) t.w t.ct with
      | .refuse _ => .refused s
      | .retry _ | .busy => .late
      | .ok s =>
        let s := if t.ct == ctSC || t.ct == ctPV then recallAll s k else s
        let s := putHome s k (va % 64) 1 v
        let s := if t.ct == ctWS then setWsFull s home k t va (wsFull s home k t va ||| dwordMask (va % 64) 1) else s
        .ok (if t.ct == ctSC then fireMonitor s p (va / 64) else s) []
  | .refuse s _ _ => .refused s
  | .needWalk _ | .park _ _ _ _ | .retry _ _ _ | .busy _ _ => .late
def storeBytes (p : Nat) : List Byte → State → Nat → LoadMem
  | [], s, _ => .ok s []
  | b :: l, s, va => match loadByte s p va b.toNat with
    | .ok s _ => storeBytes p l s (va + 1)
    | r => r
/-- Stores the sections that lie in partition memory. -/
def storeParts (p : Nat) : List (Nat × Nat × List Byte) → State → LoadMem
  | [], s => .ok s []
  | (ty, base, b) :: l, s =>
    if ty = 3 ∨ ty = 4 ∨ ty = 5 then
      match storeBytes p b s base with
      | .ok s _ => storeParts p l s
      | r => r
    else storeParts p l s
/-- A core receives the resident text and TCM data, XB and a SYNCI; a home core too small for them has XB.BOUND = 0
(R380, R407). -/
def fillTcm (r : Ready) (n : Nat) (c : Core) : Core :=
  let c := { c with fetched := [], bodies := [] }
  if Config.isHome n && decide (0x20000 < r.tcm) then { c with xb := 0 }
  else
    let put (m : FMap Byte) (x : Nat × Nat × List Byte) : FMap Byte :=
      if x.1 = 1 ∨ x.1 = 2 then writeBytes m x.2.1 x.2.2.length (pack 8 (fun i => (x.2.2.getD i 0).toNat) x.2.2.length) else m
    { c with tcm := r.parts.foldl put c.tcm, xb := r.text }
def placeAll (s : State) (p : Nat) (r : Ready) : State :=
  let s := { s with cores := s.cores.map fun (e : Nat × Core) =>
    if e.2.part == some p then (e.1, fillTcm r e.1 e.2) else e }
  match r.table with
  | some a => setBodytab s p (dn (a + 1))
  | none => s

/-- The end of a load (R380, R386). -/
def endLoad (s : State) (p code kind off idx : Nat) : State :=
  interrupt (modPart s p fun q =>
    { q with loadQ := none, loading := false, loadGo := 0,
             loadStat := dn (code + kind * 2 ^ 8 + off % 2 ^ 32 * 2 ^ 16 + idx % 2 ^ 8 * 2 ^ 48) }) p 1
/-- A load that runs goes on (R380): the header, the directory and then the object are read (R381); it ends in one
step, but where its memory cannot be reached yet. -/
def loadOn (s : State) (p : Nat) : State :=
  match (partAt s p).loadQ with
  | none => s
  | some r =>
    let obj := r.obj.toNat
    if obj % 64 ≠ 0 ∨ r.dbase.toNat % 8192 ≠ 0 ∨ 2 ^ 57 < obj + 64 ∨ 2 ^ 57 ≤ r.dbase.toNat then endLoad s p 3 0 0 0
    else match loadBytes p obj 8 s with
      | .late => s
      | .refused s => endLoad s p 3 0 0 0
      | .ok s h =>
        let size := dwordAt h 8
        if 2 ^ 57 < obj + size ∨ headerBad h then endLoad s p 3 0 0 0
        else match loadBytes p obj (8 + 4 * images h) s with
          | .late => s
          | .refused s => endLoad s p 3 0 0 0
          | .ok s d =>
            if entriesBad d then endLoad s p 3 0 0 0
            else match loadBytes p obj ((size + 7) / 8) s with
              | .late => s
              | .refused s => endLoad s p 3 0 0 0
              | .ok s b => match chooseImage ((partAt s p).clusters, (partAt s p).slices) (b.take size) r.dbase.toNat with
                | .error (i, e) => endLoad s p e.code e.kind e.off i
                | .ok (i, x) => match storeParts p x.parts s with
                  | .late => s
                  | .refused s => endLoad s p 3 0 0 i
                  | .ok s _ => endLoad (placeAll s p x) p 0 0 0 i
/-- A core of the partition has a running context (R389). -/
def anyRunning (s : State) (p : Nat) : Bool :=
  (coresOf s p).any fun n => (List.range (Config.contexts n)).any fun k => (ctxAt s n k).running
/-- A load record's GO is written nonzero (R380, R389). -/
def loadRec (s : State) (p : Nat) (r : LoadRecord) : State :=
  if (partAt s p).loadQ.isSome || r.go == 0 then s
  else if anyRunning s p then modPart s p fun q => { q with loadStat := 7, loadGo := BitVec.allOnes 64 }
  else loadOn (modPart s p fun q => { q with loadQ := some r, loading := true, loadGo := r.go }) p

end Sys2Proof.Machine
end

