-- ==== Sys2Proof/Machine/Window.lean ====
section
/-! DEFINITION. A partition's service window (spec/23 R390, R391; spec/10 R195; spec/21 R367-R369, R378): the records and
registers that the host writes there, in the order of their service core, and what it reads. -/

namespace Sys2Proof.Machine

/-- The dwords of a launch record and of a load record as the window keeps them (R57, R380): without GO, and without
STATUS. -/
def launchDwords (r : LaunchRecord) : List Dword := [r.start, r.ap, r.cls, r.bodyt, r.res4, r.res5, r.res6]
def putDwords (m : FMap Dword) (i : Nat) (l : List Dword) : FMap Dword := l.zipIdx.foldl (fun m e => fset m (i + e.2) e.1) m

/-- Partition information (R391, R393). -/
def infoDword (s : State) (p i : Nat) : Nat :=
  let q := partAt s p
  let mask (l : List Nat) : Nat := pack 1 (fun k => bit01 (l.contains k)) 256
  match i with
  | 0 => p % 64
  | 1 => bits (mask q.clusters) 0 64
  | 2 | 3 | 4 | 5 => bits (mask q.slices) (64 * (i - 2)) 64
  | 6 => q.ceiling.toNat
  | 7 => q.hkey.toNat
  | _ => 0
/-- A dword of a core's debug module as the tenant's debugger reads it (R367-R373, R378): DCTL shows HALT while the
core is stopped; what belongs to a closed STOP or COUNT reads 0; the copy engine's counters stand in core 0 of a
cluster. -/
def moduleRead (s : State) (n off : Nat) : Dword :=
  let c := coreAt s n
  let stop (v : Dword) : Dword := if facility s n 0 then v else 0
  let count (i : Nat) : Dword := if facility s n 3 then (c.counters.getD i 0).setWidth 64 else 0
  match off / 8 with
  | 0 => stop (c.dctl &&& 8 ||| dn (bit01 c.halted))
  | 1 => c.dstat
  | 2 | 3 | 4 | 5 => stop (c.bp.getD (off / 8 - 2) 0)
  | 6 | 7 => stop (c.wpa.getD (off / 8 - 6) 0)
  | 8 | 9 => stop (c.wpc.getD (off / 8 - 8) 0)
  | 10 => c.trctl
  | i =>
    if 16 ≤ i && i < 24 then count (i - 16)
    else if 24 ≤ i && i < 28 && !Config.isHome n && n % 8 == 0 then count (i - 16)
    else 0
/-- A dword of the window (R391). What it reads where the rule names nothing is 0, and a record's dwords as they were
written (DESIGN CHOICE, log 124). -/
def windowDword (s : State) (p off : Nat) : Nat :=
  let q := partAt s p
  if off = 0x38 then q.launchGo.toNat
  else if off = 0x810 then q.loadStat.toNat
  else if off = 0x818 then q.loadGo.toNat
  else if off = 0x1000 then q.stopHead
  else if 0x1040 ≤ off && off < 0x2000 then
    (((ffind q.stopLog ((off - 0x1040) / 64)).getD []).getD ((off - 0x1040) % 64 / 8) 0).toNat
  else if 0x3000 ≤ off && off < 0x3040 then infoDword s p ((off - 0x3000) / 8)
  else if 0x100000 ≤ off && off < 0x130000 then
    let n := (off - 0x100000) / 256
    if inPart s p n then (moduleRead s n ((off - 0x100000) % 256)).toNat else 0
  else (fget 0 q.winRec (off / 8)).toNat
/-- n bytes of the window; a TDI that is not in RUN reads 0 (R390). -/
def windowBytes (s : State) (p off n : Nat) : List Byte :=
  (List.range n).map fun i =>
    if (partAt s p).live && (partAt s p).tdi == .run then
      BitVec.ofNat 8 (windowDword s p ((off + i) / 8 * 8) / 2 ^ (8 * ((off + i) % 8)))
    else 0

/-- The service core performs a request to the window (R57, R354, R368, R380, R391). -/
def windowDo (s : State) (p id : Nat) (r : WinReq) : State :=
  let note (i : Nat) (l : List Dword) : State := modPart s p fun q => { q with winRec := putDwords q.winRec i l }
  match r with
  | .read off n => modPart s p fun q => { q with answers := q.answers ++ [(id, some (windowBytes s p off n))] }
  | _ =>
    if !windowOpen s p then s
    else match r with
      | .launch r => launchRec (note 0 (launchDwords r)) p r
      | .load r => loadRec (note 0x100 [r.obj, r.dbase]) p r
      | .release w => releaseStopped (note 0x400 [w]) p w
      | .debug core off v => if inPart s p core then moduleWrite s core off v else s
      | .read _ _ => s
/-- A request to the window arrives: it is performed behind the earlier ones of its service core (R195), and waits
while a cut keeps the service cores from taking it (R363). -/
def windowReq (s : State) (p : Nat) (r : WinReq) : State :=
  let id := s.accessId
  let busy := takesNone s p || serviceBusy s (windowService s p) p id
  let s := { s with accessId := id + 1 }
  if busy then modPart s p fun q => { q with winQ := q.winQ ++ [(id, r)] } else windowDo s p id r
/-- The first of those that wait goes on, once nothing earlier waits at its service core. -/
def windowOn (s : State) (p : Nat) : State :=
  match (partAt s p).winQ with
  | [] => s
  | x :: l =>
    if takesNone s p || serviceBusy s (windowService s p) p x.1 then s
    else windowDo (modPart s p fun q => { q with winQ := l }) p x.1 x.2

/-- LAUNCH_RECORD (R57-R59). -/
def execLaunchRecord (part : Nat) (record : LaunchRecord) (s : State) : Host.Outcome State Fault Refusal :=
  if noPart part then .fault .noSuchUnit else .next (windowReq s part (.launch record))
/-- LOAD_RECORD (R380, R389). -/
def execLoadRecord (part : Nat) (record : LoadRecord) (s : State) : Host.Outcome State Fault Refusal :=
  if noPart part then .fault .noSuchUnit else .next (windowReq s part (.load record))
/-- RELEASE_RECORD (R354, R391). -/
def execReleaseRecord (part : Nat) (dword : Dword) (s : State) : Host.Outcome State Fault Refusal :=
  if noPart part then .fault .noSuchUnit else .next (windowReq s part (.release dword))
/-- DEBUG_REGISTER_WRITE (R368): through the virtual function of the core's partition. -/
def execDebugRegisterWrite (core offset : Nat) (value : Dword) (s : State) : Host.Outcome State Fault Refusal :=
  if noCore core then .fault .noSuchUnit
  else .next (if (coreAt s core).part.isSome then windowReq s (partOf s core) (.debug core offset value) else s)
/-- Where a host's read names the service window: behind the virtual memory of the partition (DESIGN CHOICE, log 111). -/
def windowStart : Nat := 2 ^ 57
/-- HOST_READ (R195, R196): of partition memory, or of the 2 MiB of the service window (R391). -/
def execHostRead (part va size : Nat) (s : State) : Host.Outcome State Fault Refusal :=
  if noPart part then .fault .noSuchUnit
  else if va < windowStart then
    (if windowStart < va + size then .fault .noSuchUnit else .next (hostRequest s part va size false 0))
  else if windowStart + 2 ^ 21 < va + size then .fault .noSuchUnit
  else .next (windowReq s part (.read (va - windowStart) size))

end Sys2Proof.Machine
end

