-- ==== Sys2Proof/Machine/Dispatch.lean ====
section
/-! DEFINITION. One arm for each constructor of Instr: the call of its meaning. -/

namespace Sys2Proof.Machine

/-- What an instruction or event does. -/
def exec (i : Instr) (s : State) : Host.Outcome State Fault Refusal :=
  match i with
  | .add gp f => Sys2Proof.Machine.execAdd gp f s
  | .sub gp f => Sys2Proof.Machine.execSub gp f s
  | .and gp f => Sys2Proof.Machine.execAnd gp f s
  | .or gp f => Sys2Proof.Machine.execOr gp f s
  | .xor gp f => Sys2Proof.Machine.execXor gp f s
  | .sll gp f => Sys2Proof.Machine.execSll gp f s
  | .srl gp f => Sys2Proof.Machine.execSrl gp f s
  | .sra gp f => Sys2Proof.Machine.execSra gp f s
  | .slt gp f => Sys2Proof.Machine.execSlt gp f s
  | .sltu gp f => Sys2Proof.Machine.execSltu gp f s
  | .min gp f => Sys2Proof.Machine.execMin gp f s
  | .max gp f => Sys2Proof.Machine.execMax gp f s
  | .minu gp f => Sys2Proof.Machine.execMinu gp f s
  | .maxu gp f => Sys2Proof.Machine.execMaxu gp f s
  | .mul gp f => Sys2Proof.Machine.execMul gp f s
  | .mulh gp f => Sys2Proof.Machine.execMulh gp f s
  | .mulhu gp f => Sys2Proof.Machine.execMulhu gp f s
  | .div gp f => Sys2Proof.Machine.execDiv gp f s
  | .divu gp f => Sys2Proof.Machine.execDivu gp f s
  | .rem gp f => Sys2Proof.Machine.execRem gp f s
  | .remu gp f => Sys2Proof.Machine.execRemu gp f s
  | .addsh gp f => Sys2Proof.Machine.execAddsh gp f s
  | .clz gp f => Sys2Proof.Machine.execClz gp f s
  | .ctz gp f => Sys2Proof.Machine.execCtz gp f s
  | .popc gp f => Sys2Proof.Machine.execPopc gp f s
  | .bext gp f => Sys2Proof.Machine.execBext gp f s
  | .bdep gp f => Sys2Proof.Machine.execBdep gp f s
  | .sel gp f => Sys2Proof.Machine.execSel gp f s
  | .addi gp f => Sys2Proof.Machine.execAddi gp f s
  | .andi gp f => Sys2Proof.Machine.execAndi gp f s
  | .ori gp f => Sys2Proof.Machine.execOri gp f s
  | .xori gp f => Sys2Proof.Machine.execXori gp f s
  | .slli gp f => Sys2Proof.Machine.execSlli gp f s
  | .srli gp f => Sys2Proof.Machine.execSrli gp f s
  | .srai gp f => Sys2Proof.Machine.execSrai gp f s
  | .slti gp f => Sys2Proof.Machine.execSlti gp f s
  | .sltiu gp f => Sys2Proof.Machine.execSltiu gp f s
  | .li gp f => Sys2Proof.Machine.execLi gp f s
  | .lih gp f => Sys2Proof.Machine.execLih gp f s
  | .fadd gp f => Sys2Proof.Machine.execFadd gp f s
  | .fsub gp f => Sys2Proof.Machine.execFsub gp f s
  | .fmul gp f => Sys2Proof.Machine.execFmul gp f s
  | .fdiv gp f => Sys2Proof.Machine.execFdiv gp f s
  | .fsqrt gp f => Sys2Proof.Machine.execFsqrt gp f s
  | .fma gp f => Sys2Proof.Machine.execFma gp f s
  | .fmin gp f => Sys2Proof.Machine.execFmin gp f s
  | .fmax gp f => Sys2Proof.Machine.execFmax gp f s
  | .fcmp gp f => Sys2Proof.Machine.execFcmp gp f s
  | .fclass gp f => Sys2Proof.Machine.execFclass gp f s
  | .fcvt gp f => Sys2Proof.Machine.execFcvt gp f s
  | .br f => Sys2Proof.Machine.execBr f s
  | .brl f => Sys2Proof.Machine.execBrl f s
  | .jr f => Sys2Proof.Machine.execJr f s
  | .jrl f => Sys2Proof.Machine.execJrl f s
  | .bcEq f => Sys2Proof.Machine.execBcEq f s
  | .bcNe f => Sys2Proof.Machine.execBcNe f s
  | .bcLt f => Sys2Proof.Machine.execBcLt f s
  | .bcGe f => Sys2Proof.Machine.execBcGe f s
  | .bcLtu f => Sys2Proof.Machine.execBcLtu f s
  | .bcGeu f => Sys2Proof.Machine.execBcGeu f s
  | .bcz f => Sys2Proof.Machine.execBcz f s
  | .loop f => Sys2Proof.Machine.execLoop f s
  | .crrd f => Sys2Proof.Machine.execCrrd f s
  | .crwr f => Sys2Proof.Machine.execCrwr f s
  | .crsetb f => Sys2Proof.Machine.execCrsetb f s
  | .crclrb f => Sys2Proof.Machine.execCrclrb f s
  | .waitf f => Sys2Proof.Machine.execWaitf f s
  | .synci f => Sys2Proof.Machine.execSynci f s
  | .ldb f => Sys2Proof.Machine.execLdb f s
  | .ldbu f => Sys2Proof.Machine.execLdbu f s
  | .ldh f => Sys2Proof.Machine.execLdh f s
  | .ldhu f => Sys2Proof.Machine.execLdhu f s
  | .ldw f => Sys2Proof.Machine.execLdw f s
  | .ldwu f => Sys2Proof.Machine.execLdwu f s
  | .ldd f => Sys2Proof.Machine.execLdd f s
  | .stb f => Sys2Proof.Machine.execStb f s
  | .sth f => Sys2Proof.Machine.execSth f s
  | .stw f => Sys2Proof.Machine.execStw f s
  | .std f => Sys2Proof.Machine.execStd f s
  | .ldaq f => Sys2Proof.Machine.execLdaq f s
  | .strl f => Sys2Proof.Machine.execStrl f s
  | .ldv f => Sys2Proof.Machine.execLdv f s
  | .stv f => Sys2Proof.Machine.execStv f s
  | .ldvx f => Sys2Proof.Machine.execLdvx f s
  | .stvx f => Sys2Proof.Machine.execStvx f s
  | .pref f => Sys2Proof.Machine.execPref f s
  | .invr f => Sys2Proof.Machine.execInvr f s
  | .wbr f => Sys2Proof.Machine.execWbr f s
  | .amoadd f => Sys2Proof.Machine.execAmoadd f s
  | .amoand f => Sys2Proof.Machine.execAmoand f s
  | .amoor f => Sys2Proof.Machine.execAmoor f s
  | .amoxor f => Sys2Proof.Machine.execAmoxor f s
  | .amomin f => Sys2Proof.Machine.execAmomin f s
  | .amomax f => Sys2Proof.Machine.execAmomax f s
  | .amominu f => Sys2Proof.Machine.execAmominu f s
  | .amomaxu f => Sys2Proof.Machine.execAmomaxu f s
  | .amoswp f => Sys2Proof.Machine.execAmoswp f s
  | .amocas f => Sys2Proof.Machine.execAmocas f s
  | .amofadd f => Sys2Proof.Machine.execAmofadd f s
  | .amoaddt f => Sys2Proof.Machine.execAmoaddt f s
  | .fence f => Sys2Proof.Machine.execFence f s
  | .sigclr f => Sys2Proof.Machine.execSigclr f s
  | .regset f => Sys2Proof.Machine.execRegset f s
  | .regclr f => Sys2Proof.Machine.execRegclr f s
  | .retype f => Sys2Proof.Machine.execRetype f s
  | .wsclr f => Sys2Proof.Machine.execWsclr f s
  | .publ f => Sys2Proof.Machine.execPubl f s
  | .sbind f => Sys2Proof.Machine.execSbind f s
  | .sunbind f => Sys2Proof.Machine.execSunbind f s
  | .cpy f => Sys2Proof.Machine.execCpy f s
  | .cpy2 f => Sys2Proof.Machine.execCpy2 f s
  | .cpym f => Sys2Proof.Machine.execCpym f s
  | .cpyw f => Sys2Proof.Machine.execCpyw f s
  | .cpyq f => Sys2Proof.Machine.execCpyq f s
  | .spawn f => Sys2Proof.Machine.execSpawn f s
  | .spawnh f => Sys2Proof.Machine.execSpawnh f s
  | .take f => Sys2Proof.Machine.execTake f s
  | .steal f => Sys2Proof.Machine.execSteal f s
  | .stealAny f => Sys2Proof.Machine.execStealAny f s
  | .tend f => Sys2Proof.Machine.execTend f s
  | .tabort f => Sys2Proof.Machine.execTabort f s
  | .qdepth f => Sys2Proof.Machine.execQdepth f s
  | .qdepthIn f => Sys2Proof.Machine.execQdepthIn f s
  | .send f => Sys2Proof.Machine.execSend f s
  | .sendg f => Sys2Proof.Machine.execSendg f s
  | .gjoin f => Sys2Proof.Machine.execGjoin f s
  | .gleave f => Sys2Proof.Machine.execGleave f s
  | .gtag f => Sys2Proof.Machine.execGtag f s
  | .gbar f => Sys2Proof.Machine.execGbar f s
  | .garrive f => Sys2Proof.Machine.execGarrive f s
  | .gwait f => Sys2Proof.Machine.execGwait f s
  | .treel f => Sys2Proof.Machine.execTreel f s
  | .launchTreeMessage n => Sys2Proof.Machine.execLaunchTreeMessage n s
  | .wfa f => Sys2Proof.Machine.execWfa f s
  | .semp f => Sys2Proof.Machine.execSemp f s
  | .semv f => Sys2Proof.Machine.execSemv f s
  | .semtry f => Sys2Proof.Machine.execSemtry f s
  | .prio f => Sys2Proof.Machine.execPrio f s
  | .rope f => Sys2Proof.Machine.execRope f s
  | .unrope f => Sys2Proof.Machine.execUnrope f s
  | .ropeck f => Sys2Proof.Machine.execRopeck f s
  | .belay f => Sys2Proof.Machine.execBelay f s
  | .unbelay f => Sys2Proof.Machine.execUnbelay f s
  | .mwait f => Sys2Proof.Machine.execMwait f s
  | .mstat f => Sys2Proof.Machine.execMstat f s
  | .mgath f => Sys2Proof.Machine.execMgath f s
  | .mldb f => Sys2Proof.Machine.execMldb f s
  | .mmul f => Sys2Proof.Machine.execMmul f s
  | .mmuls f => Sys2Proof.Machine.execMmuls f s
  | .mscale f => Sys2Proof.Machine.execMscale f s
  | .mstore f => Sys2Proof.Machine.execMstore f s
  | .mclr f => Sys2Proof.Machine.execMclr f s
  | .arrayCommandStart cluster => Sys2Proof.Machine.execArrayCommandStart cluster s
  | .npcfg f => Sys2Proof.Machine.execNpcfg f s
  | .npred f => Sys2Proof.Machine.execNpred f s
  | .ncheck f => Sys2Proof.Machine.execNcheck f s
  | .trap f => Sys2Proof.Machine.execTrap f s
  | .tret f => Sys2Proof.Machine.execTret f s
  | .upcret f => Sys2Proof.Machine.execUpcret f s
  | .ctxsave f => Sys2Proof.Machine.execCtxsave f s
  | .ctxload f => Sys2Proof.Machine.execCtxload f s
  | .xinv f => Sys2Proof.Machine.execXinv f s
  | .replayall f => Sys2Proof.Machine.execReplayall f s
  | .dbrk f => Sys2Proof.Machine.execDbrk f s
  | .vadd gp f => Sys2Proof.Machine.execVadd gp f s
  | .vsub gp f => Sys2Proof.Machine.execVsub gp f s
  | .vmul gp f => Sys2Proof.Machine.execVmul gp f s
  | .vfma gp f => Sys2Proof.Machine.execVfma gp f s
  | .vmac gp f => Sys2Proof.Machine.execVmac gp f s
  | .vmin gp f => Sys2Proof.Machine.execVmin gp f s
  | .vmax gp f => Sys2Proof.Machine.execVmax gp f s
  | .vabs gp f => Sys2Proof.Machine.execVabs gp f s
  | .vneg gp f => Sys2Proof.Machine.execVneg gp f s
  | .vand gp f => Sys2Proof.Machine.execVand gp f s
  | .vor gp f => Sys2Proof.Machine.execVor gp f s
  | .vxor gp f => Sys2Proof.Machine.execVxor gp f s
  | .vsll gp f => Sys2Proof.Machine.execVsll gp f s
  | .vsllImm gp f => Sys2Proof.Machine.execVsllImm gp f s
  | .vsrl gp f => Sys2Proof.Machine.execVsrl gp f s
  | .vsrlImm gp f => Sys2Proof.Machine.execVsrlImm gp f s
  | .vsra gp f => Sys2Proof.Machine.execVsra gp f s
  | .vsraImm gp f => Sys2Proof.Machine.execVsraImm gp f s
  | .vcmp gp f => Sys2Proof.Machine.execVcmp gp f s
  | .vsel gp f => Sys2Proof.Machine.execVsel gp f s
  | .vbcast gp f => Sys2Proof.Machine.execVbcast gp f s
  | .vext gp f => Sys2Proof.Machine.execVext gp f s
  | .vred gp f => Sys2Proof.Machine.execVred gp f s
  | .vperm gp f => Sys2Proof.Machine.execVperm gp f s
  | .vcvt gp f => Sys2Proof.Machine.execVcvt gp f s
  | .vexp2 gp f => Sys2Proof.Machine.execVexp2 gp f s
  | .vrcp gp f => Sys2Proof.Machine.execVrcp gp f s
  | .vrsq gp f => Sys2Proof.Machine.execVrsq gp f s
  | .vlog2 gp f => Sys2Proof.Machine.execVlog2 gp f s
  | .vnzc gp f => Sys2Proof.Machine.execVnzc gp f s
  | .vbmap gp f => Sys2Proof.Machine.execVbmap gp f s
  | .vpackb gp f => Sys2Proof.Machine.execVpackb gp f s
  | .vunpkb gp f => Sys2Proof.Machine.execVunpkb gp f s
  | .vunpkbZx8 gp f => Sys2Proof.Machine.execVunpkbZx8 gp f s
  | .vidx gp f => Sys2Proof.Machine.execVidx gp f s
  | .vidxI32 gp f => Sys2Proof.Machine.execVidxI32 gp f s
  | .vnar gp f => Sys2Proof.Machine.execVnar gp f s
  | .aclr gp f => Sys2Proof.Machine.execAclr gp f s
  | .amovToAcc gp f => Sys2Proof.Machine.execAmovToAcc gp f s
  | .amovFromAcc gp f => Sys2Proof.Machine.execAmovFromAcc gp f s
  | .pand gp f => Sys2Proof.Machine.execPand gp f s
  | .por gp f => Sys2Proof.Machine.execPor gp f s
  | .pxor gp f => Sys2Proof.Machine.execPxor gp f s
  | .pnot gp f => Sys2Proof.Machine.execPnot gp f s
  | .pcnt gp f => Sys2Proof.Machine.execPcnt gp f s
  | .pfirst gp f => Sys2Proof.Machine.execPfirst gp f s
  | .pset gp f => Sys2Proof.Machine.execPset gp f s
  | .valueArrival core ctx n => Sys2Proof.Machine.execValueArrival core ctx n s
  | .refusal core ctx => Sys2Proof.Machine.execRefusal core ctx s
  | .budget core ctx => Sys2Proof.Machine.execBudget core ctx s
  | .enqueue n => Sys2Proof.Machine.execEnqueue n s
  | .retirement n => Sys2Proof.Machine.execRetirement n s
  | .inboundDelivery core => Sys2Proof.Machine.execInboundDelivery core s
  | .upcallStart core => Sys2Proof.Machine.execUpcallStart core s
  | .pageWalk slice n => Sys2Proof.Machine.execPageWalk slice n s
  | .monitorRewalk slice => Sys2Proof.Machine.execMonitorRewalk slice s
  | .transientTimeout n => Sys2Proof.Machine.execTransientTimeout n s
  | .persistentActivate part line => Sys2Proof.Machine.execPersistentActivate part line s
  | .copyComplete cluster n => Sys2Proof.Machine.execCopyComplete cluster n s
  | .belayGrant cluster => Sys2Proof.Machine.execBelayGrant cluster s
  | .powerLeaveGrant die kind => Sys2Proof.Machine.execPowerLeaveGrant die kind s
  | .limitChange die kind value => Sys2Proof.Machine.execLimitChange die kind value s
  | .preemptionRequest core => Sys2Proof.Machine.execPreemptionRequest core s
  | .preemptionLift core => Sys2Proof.Machine.execPreemptionLift core s
  | .consistentCut part stop => Sys2Proof.Machine.execConsistentCut part stop s
  | .marker part src dst => Sys2Proof.Machine.execMarker part src dst s
  | .cutResume part => Sys2Proof.Machine.execCutResume part s
  | .launchRecord part record => Sys2Proof.Machine.execLaunchRecord part record s
  | .loadRecord part record => Sys2Proof.Machine.execLoadRecord part record s
  | .releaseRecord part dword => Sys2Proof.Machine.execReleaseRecord part dword s
  | .hostRead part va size => Sys2Proof.Machine.execHostRead part va size s
  | .hostWrite part va bytes => Sys2Proof.Machine.execHostWrite part va bytes s
  | .partitionCreate spec => Sys2Proof.Machine.execPartitionCreate spec s
  | .partitionTeardown part => Sys2Proof.Machine.execPartitionTeardown part s
  | .coldStart => Sys2Proof.Machine.execColdStart s
  | .warmStart measured => Sys2Proof.Machine.execWarmStart measured s
  | .getVersion mailbox => Sys2Proof.Machine.execGetVersion mailbox s
  | .getCapabilities mailbox => Sys2Proof.Machine.execGetCapabilities mailbox s
  | .negotiateAlgorithms mailbox => Sys2Proof.Machine.execNegotiateAlgorithms mailbox s
  | .getDigests mailbox => Sys2Proof.Machine.execGetDigests mailbox s
  | .getCertificate mailbox => Sys2Proof.Machine.execGetCertificate mailbox s
  | .challenge mailbox nonce => Sys2Proof.Machine.execChallenge mailbox nonce s
  | .getMeasurements mailbox index signed => Sys2Proof.Machine.execGetMeasurements mailbox index signed s
  | .keyExchange mailbox nonce => Sys2Proof.Machine.execKeyExchange mailbox nonce s
  | .finish mailbox verified => Sys2Proof.Machine.execFinish mailbox verified s
  | .endSession mailbox => Sys2Proof.Machine.execEndSession mailbox s
  | .vendorDefinedRequest mailbox request => Sys2Proof.Machine.execVendorDefinedRequest mailbox request s
  | .halt core => Sys2Proof.Machine.execHalt core s
  | .resume core => Sys2Proof.Machine.execResume core s
  | .debugRegisterWrite core offset value => Sys2Proof.Machine.execDebugRegisterWrite core offset value s
  | .sampleTick part => Sys2Proof.Machine.execSampleTick part s
  | .hbmReadError line => Sys2Proof.Machine.execHbmReadError line s
  | .hbmRetry line succeeds => Sys2Proof.Machine.execHbmRetry line succeeds s
  | .lifetimeFlush verifies => Sys2Proof.Machine.execLifetimeFlush verifies s
  | .counterRead => Sys2Proof.Machine.execCounterRead s
  | .overlayFetch core ctx => Sys2Proof.Machine.execOverlayFetch core ctx s
  | .unassignedBundle core ctx => Sys2Proof.Machine.execUnassignedBundle core ctx s
  | .tdispRequest part request => Sys2Proof.Machine.execTdispRequest part request s
  | .peerRequest request => Sys2Proof.Machine.execPeerRequest request s
  | .pcieLinkDown down => Sys2Proof.Machine.execPcieLinkDown down s
  | .dumpRequest core => Sys2Proof.Machine.execDumpRequest core s

end Sys2Proof.Machine
end

