-- ==== Sys2Proof/Machine/Work.lean ====
section
/-! DEFINITION. What can happen in the package next besides the events of the schedule: work that is under way at its
units, and the bundles that can issue (spec/03 R48, R50, R62; spec/21 R370). The spec leaves its order open; `step`
takes it from free values. -/

namespace Sys2Proof.Machine

/-- Work under way. -/
inductive Work where
  | event (i : Instr)
  /-- a trap whose waits are over (R353) -/
  | trapNow (core ctx : Nat)
  /-- an instruction that waits tries again (R128) -/
  | wake (core ctx : Nat)
  /-- a delivery goes on whose body entry has arrived, or is read again since the cache has lost it (R24) -/
  | begin (core ctx : Nat)
  /-- an access goes on; with a grant it gathers its tokens (R178) -/
  | go (id : Nat) (grant : Bool)
  /-- one part of an access whose parts have no order is performed (R207) -/
  | part (id i : Nat)
  /-- a store is answered before it is performed (R202) -/
  | accept (id : Nat)
  /-- a controller does an operation (R34, R139) -/
  | ctl (op : CtlOp)
  /-- a queue's change reaches its die's bitmap (R36) -/
  | advert (slice part : Nat)
  /-- a persistent request for a line is activated (R179) -/
  | activate (part line : Nat)
  /-- a part of an access reaches its bank of a scratchpad (R8, R152); a bank grants -/
  | reach (id i : Nat)
  | bank (cluster bank : Nat)
  /-- a request goes on its way to a queue or semaphore, or its answer comes (R34) -/
  | serve (i : Nat)
  /-- a predictor serves an instruction (R271) -/
  | predict (cluster i : Nat)
  /-- a stream engine reads a beat ahead (R218) -/
  | ahead (core ctx eng : Nat)
  /-- a copy engine writes one piece (R222), an MSTORE one row (R305) -/
  | copyNext (cluster i : Nat)
  /-- one of the writes that a copy makes to TCMs and scratchpads (R194) -/
  | copyWord (cluster i j : Nat)
  | writeRow (cluster i : Nat)
  /-- the image of a CTXLOAD has been read, or refused (R344) -/
  | loaded (id : Nat)
  | launch (part : Nat)
  | load (part : Nat)
  | dumps (part : Nat)
  /-- a request to a service window goes on (R195), one of a peer (R198) -/
  | window (part : Nat)
  | peer (i : Nat)
  /-- an L1 drops a line (R153, R177), a slice one that no L1 holds (R154) -/
  | evictL1 (core key : Nat)
  | evictHome (key : Nat)
  /-- a core's stride prefetcher requests a line (R378) -/
  | prefetch (core : Nat)
  /-- a line that a prefetch asked for comes (R208, R378) -/
  | fillPref (core key : Nat)
  /-- a second try of an HBM read ends (R400) -/
  | hbmRetry (line : Nat) (ok : Bool)
  deriving DecidableEq, Repr

/-- Continues an outcome. -/
def andThen (o : Host.Outcome State Fault Refusal) (f : State → Host.Outcome State Fault Refusal) :
    Host.Outcome State Fault Refusal :=
  match o with
  | .next s => f s
  | .fault e => .fault e
  | .refused r => .refused r

/-- The effect of an instruction that waited; a SENDG keeps the members that it fixed when it issued, a ROPE the
seconds that it has started (R128, R131, R141). -/
def effectAgain (s : State) (w : Wait) : Host.Outcome State Fault Refusal :=
  match w.instr with
  | .sendg f => .next (recordEff s (.sendg f) { sendgReq s (ops s) f with dest := .set w.mem })
  | .rope f => .next (ropeEff s f w.mem)
  | i => exec i s
/-- An instruction that waits performs its effect on the operands it read (R128). -/
def wakeAgain (s : State) (n k : Nat) (w : Wait) : Host.Outcome State Fault Refusal :=
  let core := s.core
  let ctx := s.ctx
  let s := modCtx { s with core := n, ctx := k, latch := some w.ops, tail := none } n k fun c =>
    { c with wait := none, pc := w.pc, npc := c.pc, icount := c.icount - 1 }
  andThen (effectAgain s w) fun s =>
    .next (modCtx { s with core := core, ctx := ctx, latch := none } n k fun c =>
      { c with pc := c.npc, icount := c.icount + 1, wait := c.wait.map fun x => { x with half := w.half } })
/-- The A-class half of a bundle whose SEMV has been served is performed on the operands it read, with its own pops
(R83, R138) (DEDUCED, log 23). -/
def wakeHalf (s : State) (n k : Nat) (w : Wait) (a : Instr) : Host.Outcome State Fault Refusal :=
  let core := s.core
  let ctx := s.ctx
  let s := modCtx { s with core := n, ctx := k, latch := some w.ops } n k fun c =>
    { c with wait := none, pc := w.pc, npc := c.pc, icount := c.icount - 1 }
  let s := { s with tail := tailOf s [a] }
  andThen (exec a (popAll s [a])) fun s => .next { endBundle s with core := core, ctx := ctx }
def wakeCtx (s : State) (n k : Nat) : Host.Outcome State Fault Refusal :=
  match (ctxAt s n k).wait with
  | none => .next s
  | some w =>
    match w.fin with
    | .again => wakeAgain s n k w
    | .half => (match w.half with | some a => wakeHalf s n k w a | none => .next s)
    | .dormant => .next (if sendsOut s n k then s else makeDormant s n k)
    | .release =>
      (match w.instr with
      | .replayall _ => .next (if replayDone s n then modCtx s n k fun c => { c with wait := none } else s)
      | _ => .next s)
/-- Does a piece of work. -/
def doWork (s : State) : Work → Host.Outcome State Fault Refusal
  | .event i => exec i s
  | .trapNow n k =>
    match (ctxAt s n k).trapWait with
    | some t => .next (if (ctxAt s n k).wait.isSome then s else takeTrapAt s n k t)
    | none => .next s
  | .wake n k => wakeCtx s n k
  | .begin n k =>
    match (ctxAt s n k).starting with
    | some b => .next (startBody s n k b)
    | none => .next s
  | .go id grant =>
    match s.accesses.find? fun a => a.id == id with
    | some a => .next (runAny s { walk := inWalk a, grant := grant } a)
    | none => .next s
  | .part id i =>
    match s.accesses.find? fun a => a.id == id with
    | some a => .next (runPart s {} a i)
    | none => .next s
  | .accept id =>
    match s.accesses.find? fun a => a.id == id with
    | some a => .next (if acceptable a then acceptStore s a else s)
    | none => .next s
  | .ctl op => .next (doOp s op)
  | .advert x p => .next (modSP s x p advertise)
  | .activate p line => .next (activate s p line)
  | .reach id i => .next (reachBank s id i)
  | .bank n b => .next (grantBank s n b)
  | .serve i => .next (reqOn s i)
  | .predict n i => .next (servePred s n i)
  | .ahead n k e => .next (aheadOn s n k e)
  | .copyNext n i => .next (copyNext s n i)
  | .copyWord n i j => .next (copyWord s n i j)
  | .writeRow n i => .next (writeRow s n i)
  | .loaded id =>
    match s.accesses.find? fun a => a.id == id with
    | some a => .next (ctxloadEnd s a)
    | none => .next s
  | .launch p => .next (launchOn s p)
  | .load p => .next (loadOn s p)
  | .dumps p => .next (dueDumps s p)
  | .window p => .next (windowOn s p)
  | .peer i => .next (peerOn s i)
  | .evictL1 n k => .next (dropL1 s n k)
  | .evictHome k => .next (evictHome s k)
  | .prefetch n => .next (stridePrefetch s n)
  | .fillPref n k => .next (prefCome s n k)
  | .hbmRetry line ok => execHbmRetry line ok s

/-- Work of a context (DEDUCED, log 113). -/
def ctxWork (s : State) (n k : Nat) (c : Ctx) : List Work :=
  (if c.trapWait.isSome && c.wait.isNone && !(copiesLeft s n k || commandsLeft s n k || secondsLag s n k) then [.trapNow n k] else []) ++
  (if c.wait.isSome then [.wake n k] else []) ++
  (if c.starting.isSome && c.refusals.isEmpty && !((ownAccesses s n k).any fun a => match a.kind with | .body _ => true | _ => false)
    then [.begin n k] else []) ++
  (if c.refusals.isEmpty then [] else [.event (.refusal n k)])
/-- Beats that the stream engines of a context can read ahead (R218). -/
def aheadWork (s : State) (n k : Nat) (c : Ctx) : List Work :=
  c.streams.filterMap fun e => if (nextBeat s n k e.1 e.2).isSome then some (.ahead n k e.1) else none
/-- Values on their way arrive whether or not their core is stopped for debug (R372). -/
def arrivals (n k : Nat) (c : Ctx) : List Work :=
  (List.range c.pend.length).map fun i => .event (.valueArrival n k i)
/-- The lines of an L1 that may leave it: those of a full set (R153) (DEDUCED, log 27). -/
def evictable (c : Core) : List Nat :=
  if c.l1.length < 16 then []
  else
    let set (k : Nat) : Nat := Config.l1Set k % 2048
    (c.l1.map (·.1)).filter fun k => decide (16 ≤ (c.l1.filter fun e => set e.1 == set k).length)
/-- (DEDUCED, log 113) -/
def coreWork (s : State) (n : Nat) (c : Core) : List Work :=
  ((c.ctxs.map fun e => arrivals n e.1 e.2 ++ aheadWork s n e.1 e.2 ++ if c.halted then [] else ctxWork s n e.1 e.2).flatten) ++
  (if c.inbound.isEmpty then [] else [.event (.inboundDelivery n)]) ++
  (if c.upcalls.isEmpty then [] else [.event (.upcallStart n)]) ++
  (if !Config.isHome n && (strideLine c.seen 0).isSome then [.prefetch n] else []) ++
  (if Config.isHome n then [] else ((coreRequests s n).filter farFromBank).map fun x => .reach x.1.id x.2) ++
  (c.inflight.map fun e => .fillPref n e.1) ++ (evictable c).map (.evictL1 n)
/-- A message on its way; one that has reached its home queue waits for the controller there (R34). -/
def msgWork (i : Nat) (m : Msg) : List Work :=
  match m.body with
  | .inbound _ _ _ => [.event (.enqueue i)]
  | .launch _ _ _ _ _ _ _ _ => [.event (.launchTreeMessage i)]
  | .enqueue _ _ _ => if m.arr.isSome then [] else [.event (.enqueue i)]
  | .retire _ _ _ => if m.arr.isSome then [] else [.event (.retirement i)]
/-- A request on its way, or its answer (R34). -/
def reqWork (s : State) (i : Nat) (q : QReq) : List Work :=
  if reqHeld s q || (q.arr.isSome && (askCtl s q).isSome) then [] else [.serve i]
/-- Work of an access at place i; an HBM retry's outcome is open (R400). -/
def accessWork (s : State) (i : Nat) (a : Access) : List Work :=
  match a.stage with
  | .ready | .held =>
    if a.spm then [] else
    [.go a.id false] ++ (if acceptable a then [.accept a.id] else []) ++
      (if unordered a && decide (1 < a.pieces.length) then (List.range a.pieces.length).map (.part a.id) else [])
  | .way | .walkWay _ _ => [.go a.id false]
  | .untaken => if takesNone s a.part then [] else [.go a.id false]
  | .walk slice =>
    if walkable s a then [.event (.pageWalk slice ((s.accesses.take i).filter fun b => b.stage == .walk slice).length)] else []
  | .parked slice _ _ _ => if unwatched s slice a then [.event (.monitorRewalk slice)] else []
  | .token _ none => if s.cycle < a.sent + 2048 then [.go a.id true] else []
  | .token _ (some _) => [.event (.persistentActivate a.part (headVa a / 64))]
  | .hbm line | .table line _ => [.hbmRetry line true, .hbmRetry line false]
  | .performed | .failed _ _ _ => (match a.kind with
    | .loadCtx _ _ _ => if (coreAt s a.core).preempt then [] else [.loaded a.id]
    | _ => [])
  | .word _ | .claimed _ | .saving => []
def clusterWork (n : Nat) (c : Cluster) : List Work :=
  (List.range c.copies.length).map (fun i => Work.event (.copyComplete n i)) ++
  (List.range c.copies.length).map (Work.copyNext n) ++
  (c.copies.zipIdx.flatMap fun e => (List.range e.1.words.length).map (Work.copyWord n e.2)) ++
  (match c.cmds with
    | m :: _ => (match m.out with | some l => (List.range l.length).map (Work.writeRow n) | none => [])
    | [] => []) ++
  (List.range c.npq.length).map (Work.predict n) ++
  (if c.cmds.isEmpty then [] else [.event (.arrayCommandStart n)]) ++
  (if c.belays.isEmpty then [] else [.event (.belayGrant n)])
def dieWork (n : Nat) (d : Die) : List Work :=
  if d.leaveQ.isEmpty then [] else [.event (.powerLeaveGrant n 0), .event (.powerLeaveGrant n 1)]
/-- Markers that can arrive in a cut (R363). -/
def markerWork (s : State) (p : Nat) : List Work :=
  match (partAt s p).cut with
  | none => []
  | some c =>
    if !allPreempted s p then []
    else ((cutQueues s p).map fun dst => (cutInputs s p dst).filterMap fun src =>
      if c.markers.contains (src, dst) then none else some (Work.event (.marker p src dst))).flatten
def partWork (s : State) (p : Nat) (q : Partition) : List Work :=
  (if q.launchQ.isSome then [.launch p] else []) ++ (if q.loadQ.isSome then [.load p] else []) ++
  (if q.dumpDue.isEmpty then [] else [.dumps p]) ++
  (match q.winQ with
    | x :: _ => if takesNone s p || serviceBusy s (windowService s p) p x.1 then [] else [.window p]
    | [] => []) ++ markerWork s p
def sliceWork (s : State) (x : Slice) : List Work :=
  (x.lines.filter fun e => (holders s e.1).isEmpty && e.2.claim.isNone).map fun e => .evictHome e.1
/-- Changes on their way to the bitmaps, which reach them within 6 cycles, at any point of these (R36) (DEDUCED, log 22).
-/
def adverts (s : State) : List Work :=
  s.slices.flatMap fun e => e.2.parts.filterMap fun p => p.2.advDue.map fun _ => .advert e.1 p.1
/-- All the work under way (DESIGN CHOICE, log 2). -/
def works (s : State) : List Work :=
  (s.cores.map fun e => coreWork s e.1 e.2).flatten ++
  (s.msgs.zipIdx.flatMap fun e => msgWork e.2 e.1) ++
  (s.accesses.zipIdx.map fun e => accessWork s e.2 e.1).flatten ++
  (s.reqs.zipIdx.flatMap fun e => reqWork s e.2 e.1) ++
  (s.clusters.map fun e => clusterWork e.1 e.2).flatten ++
  (s.dies.map fun e => dieWork e.1 e.2).flatten ++
  (s.parts.map fun e => partWork s e.1 e.2).flatten ++
  (s.slices.map fun e => sliceWork s e.2).flatten ++ adverts s ++
  ((List.range s.peerWait.length).filter (peerFree s)).map Work.peer
/-- Values that must arrive by now (R119, R309). -/
def lateDue (s : State) : List Work :=
  s.cores.flatMap fun e => e.2.ctxs.flatMap fun c => c.2.pend.zipIdx.filterMap fun p =>
    match p.1 with
    | .late _ _ due => if due ≤ s.cycle then some (.event (.valueArrival e.1 c.1 p.2)) else none
    | _ => none
/-- Changes that must reach a bitmap by now (R36). -/
def advertDue (s : State) : List Work :=
  s.slices.flatMap fun e => e.2.parts.filterMap fun p =>
    match p.2.advDue with
    | some t => if t ≤ s.cycle then some (.advert e.1 p.1) else none
    | none => none
/-- Attempts to gather tokens that have failed by now (R178): the fourth where its agent can have a persistent request
(R179). -/
def expired (s : State) : List Work :=
  s.accesses.zipIdx.filterMap fun e => match e.1.stage with
    | .token k none =>
      if s.cycle < e.1.sent + 2048 ∨ (3 ≤ k ∧ agentBusy s e.1 = true) then none else some (.event (.transientTimeout e.2))
    | _ => none
/-- What happens now, before any other work and before a cycle passes: operations of controllers, what is due by this
cycle, and the grants of the banks (R34, R36, R139, R152, R178, R179). -/
def dues (s : State) : List Work :=
  (dueOps s).map Work.ctl ++ lateDue s ++ advertDue s ++ expired s ++ ((activations s).map fun e => Work.activate e.1 e.2) ++
  (dueBanks s).map fun e => Work.bank e.1 e.2
/-- The partitions whose sampling tick is now (R375): no cycle passes before it is taken. -/
def ticks (s : State) : List Nat := (s.parts.filter fun e => tickDue s e.1).map (·.1)
/-- The contexts that take BUDGET now (R65). -/
def budgets (s : State) : List (Nat × Nat) :=
  (s.cores.map fun e => (e.2.ctxs.filter fun c => budgetDue s e.1 c.1).map fun c => (e.1, c.1)).flatten

/-- A breakpoint that the issuing context's next bundle matches (R370); on a rope, the lead's alone. -/
def bpHit (s : State) : Option Nat :=
  let c := cur s
  if c.bpSkip || isSecond c then none
  else [0, 1, 2, 3].find? fun i =>
    let w := ((coreAt s s.core).bp.getD i 0).toNat
    bitAt w 63 && c.pc == 8 * bits w 0 16
/-- TEND, TABORT and the others whose A-class half takes effect before them (R83, R219, R358, R359). -/
def afterA : Instr → Bool
  | .tend _ | .tabort _ | .upcret _ | .tret _ | .sunbind _ | .trap _ | .dbrk _ => true
  | _ => false
/-- Both halves of a paired bundle on the operands it has read: C-class first, but for those that end or unbind. A BCZ
judges its stream before the bundle's own beats are popped (R117). A SEMV may still trap in place of its bundle: the
other half, its pops and p15 wait until it has been served (R83, R90, R138) (DEDUCED, log 23). SBIND binds before the
other half writes its register (R90, R254): a write stream takes that write as a beat, and where the stream reads, the
register itself takes it (DESIGN CHOICE, log 136). -/
def runHalves (s : State) (c a : Instr) : Host.Outcome State Fault Refusal :=
  match c with
  | .bcz _ => andThen (exec c s) fun s => exec a (popAll s [c, a])
  | .semv _ =>
    andThen (exec c { s with tail := none }) fun t =>
      if (cur t).wait.isSome then .next (modCur t fun x => { x with wait := x.wait.map fun w => { w with half := some a } })
      else exec a { popAll t [c, a] with tail := s.tail }
  | _ =>
    let s := popAll s [c, a]
    if afterA c then andThen (exec a s) (exec c) else andThen (exec c s) (exec a)
/-- A bundle that has been fetched (R83, R90) (DEDUCED, log 11). -/
def runBundle (s : State) (is : List (Instr × Nat)) : Host.Outcome State Fault Refusal :=
  match is with
  | [(c, _), (a, _)] =>
    let s := readEntry s is
    (match check s is with
    | .wait => .next s
    | .trap t => .next (trapIssue s [c, a] t)
    | .go =>
      let l := [c, a]
      andThen (runHalves (begin s l) c a) fun t => .next (watch s (cur s).pc l (snapshot s) (endBundle t)))
  | [(i, _)] => exec i s
  | _ => .next s
/-- A second issues the oldest bundle that its lead has forwarded, at the lead's pc (R62). -/
def runForwarded (s : State) (b : Fwd) : Host.Outcome State Fault Refusal :=
  let s := modCur s fun c => { c with pc := b.pc, npc := b.pc + 8 }
  andThen (runBundle s (numbered b.instrs)) fun t =>
    .next (if isSecond (cur t) then modCur (thaw t (cur t)) fun c => { c with fwd := c.fwd.drop 1 } else t)
/-- The context that issues attempts its next bundle (R90, R370). -/
def runNext (s : State) : Host.Outcome State Fault Refusal :=
  match bpHit s with
  | some i =>
    if bitAt ((coreAt s s.core).bp.getD i 0).toNat 62 then .next (debugStop s s.core)
    else .next (takeTrap s { cause := 0x16, val := dn (2 ^ 16 + i), tpc := (cur s).pc })
  | none =>
    let s := if (cur s).bpSkip then modCur s fun c => { c with bpSkip := false } else s
    match (cur s).rope, (cur s).fwd with
    | .second _ _, b :: _ => runForwarded s b
    | _, _ =>
      match fetchNext s with
      | (.overlay, _) => execOverlayFetch s.core s.ctx s
      | (.ill _, _) => execUnassignedBundle s.core s.ctx s
      | (.bundle is, s) => runBundle s is

/-- Nothing of its own keeps the context from issuing now (R48): nothing holds it, its budget is not out, and its next
bundle would not wait. -/
def couldIssue (s : State) (n k : Nat) : Bool :=
  let s := { s with core := n, ctx := k, latch := none, tail := none }
  attempts s && !budgetFallen s n k &&
  ((bpHit s).isSome || match (fetchNext s).1 with
    | .bundle is =>
      let s := match (cur s).rope, (cur s).fwd with
        | .second _ _, b :: _ => modCur s fun c => { c with pc := b.pc }
        | _, _ => s
      check s is != .wait
    | _ => true)
/-- The context can issue now (R48); on a frozen rope, where every member's bundle whose cycle had come can (R62). -/
def canIssue (s : State) (n k : Nat) : Bool :=
  couldIssue s n k && (match (ctxAt s n k).rope with
  | .second ln lk =>
    let t := ropeClock s ln lk
    decide (s.cycle ≤ t) || (match (ctxAt s ln lk).rope with
      | .lead l => l.all fun e => match (ctxAt s e.1 e.2.1).fwd with
        | b :: _ => decide (t < b.due) || couldIssue s e.1 e.2.1
        | [] => true
      | _ => true)
  | _ => true)
/-- The first of some contexts from a pointer on, in rotation (R48). -/
def rotate (ptr : Nat) (l : List Nat) : Option Nat :=
  match l.find? fun k => ptr ≤ k with
  | some k => some k
  | none => l.head?
/-- The context that a core's scheduler picks (R48, R50, R62) (DEDUCED, log 102); of two roped contexts of a core, each
of which R62 sets before every other, the one of the lower number (DESIGN CHOICE, log 130). -/
def pick (s : State) (n : Nat) : Option Nat :=
  let c := coreAt s n
  if c.part.isNone then none
  else
    let l := (List.range (Config.contexts n)).filter (canIssue s n)
    let zero := l.filter fun k => effClass s n k == 0
    let roped := l.filter fun k => (ctxAt s n k).rope != .none
    let top := (l.map (effClass s n)).foldl max 0
    if 63 ≤ c.sched && !zero.isEmpty then rotate (c.rotors.getD 0 0) zero
    else if !roped.isEmpty then roped.head?
    else rotate (c.rotors.getD top 0) (l.filter fun k => effClass s n k == top)
/-- The cores in rotation from a number on, as far as the first that can issue: those passed over, and it
(DEDUCED, log 8). -/
def nextCore (s : State) : List Nat → List Nat → Option (List Nat × Nat × Nat)
  | [], _ => none
  | n :: l, skipped =>
    match pick s n with
    | some k => some (skipped, n, k)
    | none => nextCore s l (n :: skipped)
def coreOrder (s : State) : List Nat :=
  let l := s.cores.map (·.1)
  l.filter (s.turn ≤ ·) ++ l.filter (· < s.turn)
/-- The scheduler's count and pointer after a context issues (R48, R50) (DEDUCED, log 102). -/
def served (s : State) (n k : Nat) : State :=
  let cls := effClass s n k
  modCore s n fun c =>
    { c with sched := if cls = 0 then 0 else c.sched + 1, rotors := c.rotors.set cls ((k + 1) % Config.contexts n) }
def passed (s : State) (l : List Nat) : State :=
  l.foldl (fun s n => modCore s n fun c => { c with sched := c.sched + 1 }) s

end Sys2Proof.Machine
end

