-- ==== Sys2Proof/Machine/Step.lean ====
section
/-! DEFINITION. One step of the package: the next event of the schedule, or work under way, or one bundle of one
core; and the state in which a given word is the next instruction. -/

namespace Sys2Proof.Machine

/-- One core issues one bundle of one context, in rotation over the cores, each at most once in a cycle (R48): a cycle
passes when the rotation begins anew, or when no core can issue (DEDUCED, log 8; DESIGN CHOICE, log 9). -/
def issueStep (s : State) : Host.Outcome State Fault Refusal :=
  match nextCore s (coreOrder s) [] with
  | none => .next { passed s ((coreOrder s).filter (s.turn ≤ ·)) with cycle := s.cycle + 1, turn := 0 }
  | some (skipped, n, k) =>
    runNext { served (passed s skipped) n k with
      core := n, ctx := k, turn := n + 1, cycle := if n < s.turn then s.cycle + 1 else s.cycle, latch := none, tail := none }

/-- One step: an event of the schedule; else a sampling tick, a BUDGET or other work that is due; else one of the
pieces of work under way or a bundle, as a free value says (DESIGN CHOICE, log 2; DESIGN CHOICE, log 98). -/
def step (s : State) : Host.Outcome State Fault Refusal :=
  match s.schedule with
  | i :: l => exec i { s with schedule := l }
  | [] =>
    match ticks s with
    | p :: _ => execSampleTick p s
    | [] =>
      match budgets s with
      | (n, k) :: _ => execBudget n k s
      | [] =>
        match dues s with
        | w :: _ => doWork s w
        | [] =>
          match works s with
          | [] => issueStep s
          | w :: ws =>
            let (v, s) := freeDword s
            match (w :: ws)[v.toNat % (ws.length + 2)]? with
            | some x => doWork s x
            | none => issueStep s

/-- The partitions, clusters, slices and dies with no work under way. -/
def quietPart (q : Partition) : Partition :=
  { q with launchQ := none, loadQ := none, loading := false, dumpDue := [], cut := none, sampcfg := 0,
           transit := [], winQ := [] }
def quietClu (c : Cluster) : Cluster :=
  { c with copies := [], cmds := [], belays := [], chosen := none, npq := [], starts := [] }
/-- Context 0 with no instruction, value or refusal under way, at pc 0. -/
def quietCtx (now : Nat) (c : Ctx) : Ctx :=
  { c with
    running := true, stopped := false, pc := 0, npc := 0, xp := 0, vp := 0, sends := [], record := none
    start := .other, budget0 := now, streams := [], pend := [], refusals := [], copies := [], cpyq := [], wait := none
    reserved := false, rope := .none, upcall := false, bpSkip := false, trapWait := none, starting := none, fwd := [], owed := false }
/-- Far core 0 of a live partition 0 runs context 0 alone, with nothing else under way in the package, and the words of
a table row stand at its pc 0, as a core stores them: each word little-endian, word 0 at the lower address (R82)
(DESIGN CHOICE, log 6). -/
def State.withFetchWord (s : State) (nbits w : Nat) : State :=
  let ws := tableWords nbits w
  let c : Core := { coreAt s 0 with
    part := some 0, xb := 16, halted := false, preempt := false, fetched := [], inbound := [], upcalls := [], l1 := [],
    inflight := [], seen := [],
    bp := [0, 0, 0, 0],
    tcm := writeBytes (coreAt s 0).tcm 0 8 (ws.1 + ws.2 * 2 ^ 32)
    ctxs := [(0, quietCtx s.cycle (ctxAt s 0 0))] }
  let p : Partition := { quietPart (partAt s 0) with live := true, clusters := [0], slices := [0], ceiling := 0x1000000, tdi := .run }
  { s with
    schedule := [], core := 0, ctx := 0, latch := none, tail := none, turn := 0, cores := [(0, c)], msgs := []
    accesses := [], reqs := [], peerWait := []
    clusters := s.clusters.map fun e => (e.1, quietClu e.2)
    slices := s.slices.map fun (e : Nat × Slice) => (e.1, { e.2 with lines := [], parts := e.2.parts.map fun (p : Nat × SlicePart) => (p.1, { p.2 with advDue := none }) })
    dies := s.dies.map fun (e : Nat × Die) => (e.1, { e.2 with leaveQ := [] })
    parts := fset (s.parts.map fun e => (e.1, quietPart e.2)) 0 p }

end Sys2Proof.Machine
end

