-- ==== Sys2Proof/Safety.lean ====
section
/-! DEFINITION. The terms in which statements speak of a run: when a bundle issues, what a step keeps, the bytes of
every memory, the canonical forms of the state, and when a state of the package is in order. -/

namespace Sys2Proof.Machine

/-- The state in which an instruction that issues alone performs its effect: operands read, beats popped, the
bundle forwarded to the seconds of a rope (R62, R83). -/
def reading (s : State) (i : Instr) : State := popAll (begin s [i]) [i]
/-- The bundle of one instruction issues now and has its effect at once: no other is being issued, the check of R90
passes, and nothing of its context that its effect waits for is under way (R128, R166). -/
def Issues (s : State) (i : Instr) : Prop :=
  s.latch = none ∧ s.tail = none ∧ check s [(i, 0)] = .go ∧ drains (reading s i) i = false
/-- No watchpoint of the core matches the bundle's accesses (R371). -/
def Unwatched (s : State) (i : Instr) : Prop :=
  ∀ w, w < 2 → watchHits (coreAt s s.core) (watchSpan (snapshot s) i) w = false

/-- The issuing context in a later state. -/
def now (s t : State) : Ctx := ctxAt t s.core s.ctx
/-- The bundle has ended and the next one stands after it (R82, R249). -/
def Advanced (s t : State) : Prop :=
  (now s t).pc = (cur s).pc + 8 ∧ (now s t).icount = (cur s).icount + 1 ∧ t.latch = none ∧ t.tail = none
/-- The same for a bundle that goes elsewhere. -/
def WentTo (s t : State) (pc : Nat) : Prop :=
  (now s t).pc = pc ∧ (now s t).icount = (cur s).icount + 1 ∧ t.latch = none ∧ t.tail = none

/-- x[rd] holds v and is full when `on`, and every other x register is as before; x0 is never written (R84, R88). -/
def WroteX (s t : State) (on : Bool) (rd : BitVec 6) (v : Dword) : Prop :=
  ∀ n, n < 64 →
    rx (now s t).regs n = (if n = rd.toNat ∧ n ≠ 0 ∧ on = true then v else rx (cur s).regs n) ∧
    xFull (now s t).regs n = (if n = rd.toNat ∧ on = true then true else xFull (cur s).regs n)
/-- Every x register is as before. -/
def KeptX (s t : State) : Prop :=
  ∀ n, n < 64 → rx (now s t).regs n = rx (cur s).regs n ∧ xFull (now s t).regs n = xFull (cur s).regs n
/-- Every v register is as before. -/
def KeptV (s t : State) : Prop := (now s t).regs.v = (cur s).regs.v ∧ (now s t).regs.ve = (cur s).regs.ve
/-- Every predicate, but p15 where `tail` is set, is as before (R254). -/
def KeptP (s t : State) (tail : Bool) : Prop :=
  ∀ n, n < 16 → (tail = true ∧ n = 15) ∨ rp (now s t).regs n = rp (cur s).regs n
/-- FRM ORs in the flags (R114), or is as before. -/
def Flagged (s t : State) (on : Bool) (fl : Flags) : Prop :=
  (now s t).regs.frm = if on then (cur s).regs.frm ||| BitVec.ofNat 64 (fl.toNat * 256) else (cur s).regs.frm
/-- Accumulators and the control registers that instructions sample are as before. -/
def KeptAcc (s t : State) : Prop := (now s t).regs.acc = (cur s).regs.acc
def KeptCr (s t : State) : Prop :=
  (now s t).regs.fmta = (cur s).regs.fmta ∧ (now s t).regs.fmtb = (cur s).regs.fmtb ∧
  (now s t).regs.fmto = (cur s).regs.fmto ∧ (now s t).regs.scla = (cur s).regs.scla ∧
  (now s t).regs.sclb = (cur s).regs.sclb ∧ (now s t).regs.mround = (cur s).regs.mround ∧
  (now s t).regs.npeps = (cur s).regs.npeps
/-- The governing predicate's bit 0 in the issuing context (R83); a lone bundle's is p0. -/
def onBit (s : State) (gp : BitVec 2) : Bool := (rp (cur s).regs gp.toNat).getLsbD 0

/-- Result lanes of a v register: lane l of v[rd] is `val l` where bit l of the governing predicate is 1, every other
lane and every other register is as before, and v[rd] is full (R88, R275). -/
def WroteV (s t : State) (gp : BitVec 2) (rd : BitVec 6) (val : Nat → Word) : Prop :=
  ∀ n, n < 32 →
    vFull (now s t).regs n = (if n = rd.toNat then true else vFull (cur s).regs n) ∧
    ∀ l, l < 256 → lane (rv (now s t).regs n) l =
      if n = rd.toNat ∧ (rp (cur s).regs gp.toNat).getLsbD l = true then val l else lane (rv (cur s).regs n) l
/-- The same for a predicate; p0 is never written (R84, R275). -/
def WroteP (s t : State) (gp : BitVec 2) (pd : BitVec 6) (val : Nat → Bool) : Prop :=
  ∀ n l, n < 16 → l < 256 → (rp (now s t).regs n).getLsbD l =
    if n = pd.toNat ∧ n ≠ 0 ∧ (rp (cur s).regs gp.toNat).getLsbD l = true then val l else (rp (cur s).regs n).getLsbD l
/-- The same for an accumulator: acc[rd] takes the kind, and each lane its value; others are as before (R255). -/
def WroteAcc (s t : State) (rd : BitVec 6) (kind : AccKind) (val : Nat → Dword) : Prop :=
  ∀ n, n < 8 →
    (n ≠ rd.toNat → racc (now s t).regs n = racc (cur s).regs n) ∧
    (n = rd.toNat → (racc (now s t).regs n).kind = kind ∧ ∀ l, l < 256 → accLane (racc (now s t).regs n).lanes l = val l)
/-- The flags of the lanes that the governing predicate enables, together (R275). -/
def flagsOf (s : State) (gp : BitVec 2) (fl : Nat → Flags) : Flags :=
  ((List.range 256).filter fun l => (rp (cur s).regs gp.toNat).getLsbD l).foldl (fun a l => a ||| fl l) 0
/-- No stream is bound to a vector register that the instruction reads or writes (R218). -/
def Unbound (s : State) (i : Instr) : Prop := ∀ e ∈ (cur s).streams, e.2.vd ∉ vReads i ++ vWrites i
/-- The random value of R249 for a lane of the issuing context. -/
def random (s : State) (l : Nat) : Nat := srHash (gOf s.core s.ctx) (cur s).icount 0 l

/-- Outside the cores and the bundle being issued, the package is as before: every memory, home, die, cluster,
partition, access and message. -/
def KeptUnits (s t : State) : Prop := { t with cores := s.cores, latch := s.latch, tail := s.tail } = s
/-- Every core is as before, but for its contexts. -/
def KeptCores (s t : State) : Prop := ∀ n, { coreAt t n with ctxs := [] } = { coreAt s n with ctxs := [] }
/-- Every other context is as before, but for the bundles that a lead forwards to it (R62). -/
def KeptOthers (s t : State) : Prop :=
  ∀ n k, (n, k) ≠ (s.core, s.ctx) → { ctxAt t n k with fwd := [] } = { ctxAt s n k with fwd := [] }
/-- The issuing context is as before in everything but its registers, pc, count of bundles, streams and values on
their way: trap registers, delivery registers, record, send buffer, class and the rest. -/
def KeptCtx (s t : State) : Prop :=
  { now s t with regs := {}, xp := 0, vp := 0, pc := 0, npc := 0, icount := 0, streams := [], fwd := [], pend := [] } =
  { cur s with regs := {}, xp := 0, vp := 0, pc := 0, npc := 0, icount := 0, streams := [], fwd := [], pend := [] }
/-- A bundle that touches the registers of its own context and nothing else. -/
def RegsOnly (s t : State) : Prop := KeptUnits s t ∧ KeptCores s t ∧ KeptOthers s t ∧ KeptCtx s t

/-- The state in which the context that the scheduler picked issues: core n, context k, past the cores passed
over (R48). -/
def issuing (s : State) (skipped : List Nat) (n k : Nat) : State :=
  { served (passed s skipped) n k with
    core := n, ctx := k, turn := n + 1, cycle := if n < s.turn then s.cycle + 1 else s.cycle, latch := none, tail := none }
/-- The dword at a core's TCM offset, and the core's note of what it fetched there (R98). -/
def tcmDword (s : State) (n pc : Nat) : Nat := readBytes (coreAt s n).tcm pc 8
def noteFetch (s : State) (n pc : Nat) : State :=
  modCore s n fun c => { c with fetched := fset c.fetched pc (BitVec.ofNat 64 (tcmDword s n pc)) }

/-- Where a byte can stand: HBM and host and peer memory by physical address, a TCM or scratchpad by offset, the
copies of a line (by key) at a home and in an L1 by place in the line. -/
inductive Place where
  | hbm
  | host
  | peer
  | tcm (core : Nat)
  | spm (cluster : Nat)
  | home (slice key : Nat)
  | l1 (core key : Nat)
  deriving DecidableEq, Repr
/-- The byte at a place. -/
def byteOf (s : State) : Place → Nat → Byte
  | .hbm, a => bget s.hbm a
  | .host, a => bget s.hostMem a
  | .peer, a => bget s.peerMem a
  | .tcm n, a => bget (coreAt s n).tcm a
  | .spm n, a => bget (cluAt s n).spm a
  | .home n k, a => match ffind (sliceAt s n).lines k with | some h => byteAt h.data.toNat a | none => 0
  | .l1 n k, a => match l1Line s n k with | some l => byteAt l.data.toNat a | none => 0
/-- Every byte of memory reads as before. -/
def KeptMemory (s t : State) : Prop := ∀ pl a, byteOf t pl a = byteOf s pl a
/-- The frame of a bundle that writes one x register and nothing else. -/
def OnlyX (s t : State) : Prop :=
  Advanced s t ∧ KeptV s t ∧ KeptP s t false ∧ KeptAcc s t ∧ KeptCr s t ∧ RegsOnly s t ∧ KeptMemory s t
/-- The frames of a bundle that writes one v register, one predicate or one accumulator and nothing else. -/
def OnlyV (s t : State) : Prop :=
  Advanced s t ∧ KeptX s t ∧ KeptP s t false ∧ KeptAcc s t ∧ KeptCr s t ∧ RegsOnly s t ∧ KeptMemory s t
def OnlyP (s t : State) : Prop :=
  Advanced s t ∧ KeptX s t ∧ KeptV s t ∧ KeptAcc s t ∧ KeptCr s t ∧ RegsOnly s t ∧ KeptMemory s t
def OnlyAcc (s t : State) : Prop :=
  Advanced s t ∧ KeptX s t ∧ KeptV s t ∧ KeptP s t false ∧ KeptCr s t ∧ RegsOnly s t ∧ KeptMemory s t

/-- Every byte of memory but n bytes from an offset of one TCM or scratchpad reads as before. -/
def KeptBut (s t : State) (pl : Place) (a n : Nat) : Prop :=
  ∀ pl' b, (pl' ≠ pl ∨ b < a ∨ a + n ≤ b) → byteOf t pl' b = byteOf s pl' b

/-- The instruction issues and its effect on the state its bundle reads is u; the bundle ends, and a watchpoint that
its accesses match is taken (R83, R90, R371). -/
def Gives (s : State) (i : Instr) (u : State → State) : Prop :=
  exec i s = .next (watch s (cur s).pc [i] (snapshot s) (endBundle (u (reading s i))))
/-- A bundle that changes nothing but its context's pc and count of bundles. -/
def Quiet (s t : State) : Prop :=
  Advanced s t ∧ KeptX s t ∧ KeptV s t ∧ KeptP s t false ∧ Flagged s t false 0 ∧ KeptAcc s t ∧ KeptCr s t ∧
  RegsOnly s t ∧ KeptMemory s t
/-- What a bundle leaves of registers when it writes none. -/
def KeptRegs (s t : State) : Prop :=
  KeptX s t ∧ KeptV s t ∧ KeptP s t false ∧ Flagged s t false 0 ∧ KeptAcc s t ∧ KeptCr s t
/-- x[rd] is empty and its value is on its way (R88, R202); a value for x0 is not sent. Other x registers are as
before. -/
def AwaitsX (s t : State) (rd : BitVec 6) (v : Dword) : Prop :=
  (∀ n, n < 64 → rx (now s t).regs n = rx (cur s).regs n ∧
    xFull (now s t).regs n = (if n = rd.toNat ∧ n ≠ 0 then false else xFull (cur s).regs n)) ∧
  (now s t).pend = (cur s).pend ++ (if rd = 0 then [] else [.x rd.toNat v])
/-- The same for a value that arrives within n cycles (R119, R309). -/
def AwaitsLate (s t : State) (rd : BitVec 6) (v : Dword) (n : Nat) : Prop :=
  (∀ k, k < 64 → rx (now s t).regs k = rx (cur s).regs k ∧
    xFull (now s t).regs k = (if k = rd.toNat ∧ k ≠ 0 then false else xFull (cur s).regs k)) ∧
  (now s t).pend = (cur s).pend ++ (if rd = 0 then [] else [.late rd.toNat v (s.cycle + n)])
/-- The same for v[rd]. -/
def AwaitsV (s t : State) (rd : BitVec 6) (v : Vec) : Prop :=
  (now s t).regs.v = (cur s).regs.v ∧
  (∀ n, n < 32 → vFull (now s t).regs n = (if n = rd.toNat then false else vFull (cur s).regs n)) ∧
  (now s t).pend = (cur s).pend ++ [.v rd.toNat v]
/-- The n bytes at a place as one number, the lowest address least significant (R7). -/
def bytesAt (s : State) (pl : Place) (a : Nat) : Nat → Nat
  | 0 => 0
  | n + 1 => (byteOf s pl a).toNat + 256 * bytesAt s pl (a + 1) n
/-- Where an access of space 1 (tcm) or 2 (spm) of the issuing core goes (R150, R151). -/
def localPlace (s : State) (space : Nat) : Place := if space = 1 then .tcm s.core else .spm (s.core / 8)
/-- The access is on its way, and no other has its number. -/
def Sole (s : State) (a : Access) : Prop := a ∈ s.accesses ∧ ∀ b ∈ s.accesses, b.id = a.id → b = a
/-- The state in which a bank has granted, before what it grants is performed (R152). -/
def granted1 (s : State) (clu bank : Nat) (b : Bank) : State := modClu s clu fun c => { c with banks := fset c.banks bank b }
/-- A later state with a core's latest demands as they were (R378). -/
def reseen (s t : State) : State := modCore t s.core fun c => { c with seen := (coreAt s s.core).seen }
/-- Everything but the bytes of TCMs and scratchpads, the contexts and the bundle being issued is as before. -/
def KeptButLocal (s t : State) : Prop :=
  { t with cores := s.cores, clusters := s.clusters, latch := s.latch, tail := s.tail } = s ∧
  (∀ n, { coreAt t n with ctxs := [], tcm := [] } = { coreAt s n with ctxs := [], tcm := [] }) ∧
  (∀ n, { cluAt t n with spm := [] } = { cluAt s n with spm := [] }) ∧ KeptOthers s t ∧ KeptCtx s t
/-- Everything that holds a bundle before its entries' traps lets the instruction through (R90). -/
def Reaches (s : State) (i : Instr) : Prop :=
  s.latch = none ∧ s.tail = none ∧ busy s = false ∧ emptyTrap s (cur s).pc [(i, 0)] = none ∧
  ready s [i] = true ∧ ropeFull s = false
/-- The core writes no trace (R373). -/
def Untraced (s : State) (n : Nat) : Prop := (coreAt s n).trctl.getLsbD 63 = false

/-- A queue whose sections and spill area hold its tasks in their order, and whose blocks (R32) count and cover what is
spilled: what an enqueue, a choice and a retirement keep. -/
def SpillOk (q : SlicePart) : Prop :=
  let l := q.front ++ q.spill ++ q.back
  (l.map (·.order)).Pairwise (· < ·) ∧ (∀ t ∈ l, t.order < q.order) ∧ (q.blocks.map (·.id)).Nodup ∧
  (∀ b ∈ q.blocks, b.id < q.nextBlk ∧ b.count = (q.spill.filter fun t => t.blk == some b.id).length) ∧
  ∀ t ∈ q.spill, ∃ b ∈ q.blocks, t.blk = some b.id ∧ b.lo ≤ qLo t ∧ qHi t ≤ b.hi

/-- Every byte memory of the package is in its canonical form, those of the recorded cuts among them. -/
def MemoryOk (s : State) : Prop :=
  Memory.wf s.hbm = true ∧ Memory.wf s.hostMem = true ∧ Memory.wf s.peerMem = true ∧
  (∀ e ∈ s.cores, Memory.wf e.2.tcm = true) ∧ (∀ e ∈ s.clusters, Memory.wf e.2.spm = true) ∧
  ∀ e ∈ s.parts, ∀ im, e.2.image = some im → Memory.wf im.frames = true ∧
    (∀ x ∈ im.cores, Memory.wf x.2.tcm = true) ∧ (∀ x ∈ im.clus, Memory.wf x.2.spm = true)

end Sys2Proof.Machine
end

