-- ==== Sys2Proof/Tables.lean ====
section
/-! DEFINITION. The result tables of the spec as statements use them: for each instruction of a table, its governing
predicate, its destination and the value the spec's row gives, in terms of the registers that the bundle reads. -/

namespace Sys2Proof.Machine

/-- A result for an x register: governing predicate, rd, value. -/
abbrev RowX := BitVec 2 × BitVec 6 × (Regs → Dword)
def rowR (gp : BitVec 2) (f : FmtR) (g : Dword → Dword → Dword) : Option RowX :=
  some (gp, f.rd, fun r => g (rx r f.rs1.toNat) (rx r f.rs2.toNat))
def rowI (gp : BitVec 2) (f : FmtI) (g : Dword → Dword → Dword) : Option RowX :=
  some (gp, f.rd, fun r => g (rx r f.rs1.toNat)
    (if f.lit = 0 then f.imm.signExtend 64 else f.lit.signExtend 64))

/-- R100, but for the division rows: 128-bit products by exact integer arithmetic. -/
def integerRow : Instr → Option RowX
  | .add gp f => rowR gp f fun a b => a + b
  | .sub gp f => rowR gp f fun a b => a - b
  | .and gp f => rowR gp f fun a b => a &&& b
  | .or gp f => rowR gp f fun a b => a ||| b
  | .xor gp f => rowR gp f fun a b => a ^^^ b
  | .sll gp f => rowR gp f fun a b => BitVec.ofNat 64 (a.toNat * 2 ^ (b.toNat % 64))
  | .srl gp f => rowR gp f fun a b => BitVec.ofNat 64 (a.toNat / 2 ^ (b.toNat % 64))
  | .sra gp f => rowR gp f fun a b => BitVec.ofInt 64 (a.toInt / 2 ^ (b.toNat % 64))
  | .slt gp f => rowR gp f fun a b => if a.toInt < b.toInt then 1 else 0
  | .sltu gp f => rowR gp f fun a b => if a.toNat < b.toNat then 1 else 0
  | .min gp f => rowR gp f fun a b => BitVec.ofInt 64 (min a.toInt b.toInt)
  | .max gp f => rowR gp f fun a b => BitVec.ofInt 64 (max a.toInt b.toInt)
  | .minu gp f => rowR gp f fun a b => BitVec.ofNat 64 (min a.toNat b.toNat)
  | .maxu gp f => rowR gp f fun a b => BitVec.ofNat 64 (max a.toNat b.toNat)
  | .mul gp f => rowR gp f fun a b => BitVec.ofNat 64 (a.toNat * b.toNat)
  | .mulh gp f => rowR gp f fun a b => BitVec.extractLsb' 64 64 (BitVec.ofInt 128 (a.toInt * b.toInt))
  | .mulhu gp f => rowR gp f fun a b => BitVec.extractLsb' 64 64 (BitVec.ofNat 128 (a.toNat * b.toNat))
  | _ => none

/-- The quotient rounded toward zero and its remainder (R101), by magnitudes and signs. -/
def quotient (a b : Int) : Int := if (a < 0) = (b < 0) then (a.natAbs / b.natAbs : Nat) else -(a.natAbs / b.natAbs : Nat)
def remainder (a b : Int) : Int := if a < 0 then -(a.natAbs % b.natAbs : Nat) else (a.natAbs % b.natAbs : Nat)
/-- R101 with its table of boundary cases. -/
def divisionRow : Instr → Option RowX
  | .div gp f => rowR gp f fun a b =>
    if b = 0 then 0xFFFFFFFFFFFFFFFF
    else if a = 0x8000000000000000 ∧ b = 0xFFFFFFFFFFFFFFFF then 0x8000000000000000
    else BitVec.ofInt 64 (quotient a.toInt b.toInt)
  | .rem gp f => rowR gp f fun a b =>
    if b = 0 then a
    else if a = 0x8000000000000000 ∧ b = 0xFFFFFFFFFFFFFFFF then 0
    else BitVec.ofInt 64 (remainder a.toInt b.toInt)
  | .divu gp f => rowR gp f fun a b => if b = 0 then 0xFFFFFFFFFFFFFFFF else BitVec.ofNat 64 (a.toNat / b.toNat)
  | .remu gp f => rowR gp f fun a b => if b = 0 then a else BitVec.ofNat 64 (a.toNat % b.toNat)
  | _ => none

/-- The dword whose bit i is f i. -/
def dwordOf (f : Nat → Bool) : Dword :=
  BitVec.ofNat 64 ((List.range 64).map fun i => if f i then 2 ^ i else 0).sum
/-- The places of the 1 bits of a mask, ascending. -/
def onesOf (b : Dword) : List Nat := (List.range 64).filter fun i => b.getLsbD i
/-- R102 and R103: the k-th selected bit goes to place k, and the k-th low bit to the k-th selected place. -/
def bitRow : Instr → Option RowX
  | .addsh gp f => rowR gp f fun a b => BitVec.ofNat 64 (a.toNat + b.toNat * 2 ^ f.func.toNat)
  | .sel gp f => some (gp, f.rd, fun r =>
      if (rp r f.func.toNat).getLsbD 0 then rx r f.rs1.toNat else rx r f.rs2.toNat)
  | .clz gp f => rowR gp f fun a _ => if a = 0 then 64 else BitVec.ofNat 64 (63 - Nat.log2 a.toNat)
  | .ctz gp f => rowR gp f fun a _ => BitVec.ofNat 64 ((onesOf a).headD 64)
  | .popc gp f => rowR gp f fun a _ => BitVec.ofNat 64 (onesOf a).length
  | .bext gp f => rowR gp f fun a b => dwordOf fun k =>
      match (onesOf b)[k]? with | some i => a.getLsbD i | none => false
  | .bdep gp f => rowR gp f fun a b => dwordOf fun i =>
      b.getLsbD i && a.getLsbD ((onesOf b).filter (· < i)).length
  | _ => none

/-- R104 and R105: immediates in the short and the long form. -/
def immediateRow : Instr → Option RowX
  | .addi gp f => rowI gp f fun a b => a + b
  | .andi gp f => rowI gp f fun a b => a &&& b
  | .ori gp f => rowI gp f fun a b => a ||| b
  | .xori gp f => rowI gp f fun a b => a ^^^ b
  | .slti gp f => rowI gp f fun a b => if a.toInt < b.toInt then 1 else 0
  | .sltiu gp f => rowI gp f fun a b => if a.toNat < b.toNat then 1 else 0
  | .slli gp f => some (gp, f.rd, fun r => BitVec.ofNat 64 ((rx r f.rs1.toNat).toNat * 2 ^ f.imm.toNat))
  | .srli gp f => some (gp, f.rd, fun r => BitVec.ofNat 64 ((rx r f.rs1.toNat).toNat / 2 ^ f.imm.toNat))
  | .srai gp f => some (gp, f.rd, fun r => BitVec.ofInt 64 ((rx r f.rs1.toNat).toInt / 2 ^ f.imm.toNat))
  | .li gp f => some (gp, f.rd, fun _ => if f.lit = 0 then f.imm.signExtend 64 else f.lit.signExtend 64)
  | .lih gp f => some (gp, f.rd, fun r =>
      (if f.lit = 0 then f.imm.signExtend 32 else f.lit) ++ (rx r f.rd.toNat).setWidth 32)
  | _ => none

/-- A floating result: governing predicate, rd, and the pattern and flags under the random value r of R249. -/
abbrev RowF := BitVec 2 × BitVec 6 × (Regs → Nat → Nat × Flags)
/-- FRM's mode and flush control with a random value (R107, R249). -/
def envR (r : Regs) (v : Nat) : Env := { mode := r.frm.toNat % 8, fz := r.frm.getLsbD 3, r := v }
def rowFloat (gp : BitVec 2) (f : FmtR) (g : Fmt → Env → FVal → FVal → FVal → Nat × Flags) : Option RowF :=
  some (gp, f.rd, fun r v =>
    let fmt := scalarFmt (f.func.toNat % 4)
    let e := envR r v
    let x (n : BitVec 6) := operand fmt e (rx r n.toNat).toNat
    g fmt e (x f.rs1) (x f.rs2) (x f.rd))
/-- R108 to R113: each operation on the operands of its width, rounded once. -/
def floatRow : Instr → Option RowF
  | .fadd gp f => rowFloat gp f fun t e a b _ => fadd t e a b
  | .fsub gp f => rowFloat gp f fun t e a b _ => fadd t e a (negF b)
  | .fmul gp f => rowFloat gp f fun t e a b _ => fmul t e a b
  | .fdiv gp f => rowFloat gp f fun t e a b _ => fdiv t e a b
  | .fsqrt gp f => rowFloat gp f fun t e a _ _ => fsqrt t e a
  | .fma gp f => rowFloat gp f fun t e a b c => fmadd t e a b c
  | .fmin gp f => rowFloat gp f fun t _ a b _ => fminmax t false a b
  | .fmax gp f => rowFloat gp f fun t _ a b _ => fminmax t true a b
  | .fcmp gp f => rowFloat gp f fun _ _ a b _ => fcmp a b
  | .fclass gp f => some (gp, f.rd, fun r _ => (fclass (scalarFmt (f.func.toNat % 4)) (rx r f.rs1.toNat).toNat, 0))
  | .fcvt gp f => some (gp, f.rd, fun r v =>
      let fmt := scalarFmt (f.func.toNat % 4)
      let k := f.rs2.toNat
      let e := { envR r v with mode := if k % 8 = 6 then r.frm.toNat % 8 else k % 8 }
      let x := (rx r f.rs1.toNat).toNat
      if f.func.toNat / 4 = 1 then
        let y := roundToInt (if k / 8 % 2 = 1 then 32 else 64) e.mode e.r (operand fmt e x)
        ((BitVec.ofInt 64 y.1).toNat, y.2)
      else if k / 16 = 3 then fcvtF fmt e (FVal.ofInt (sext (if k / 8 % 2 = 1 then 32 else 64) x))
      else fcvtF fmt e (operand (scalarFmt (k / 16)) e x))
  | _ => none

/-- The value of a finite number (R234). -/
def realOf : FVal → Rat
  | .fin s m e _ => (if s then -1 else 1) * (m : Rat) * (2 : Rat) ^ e
  | _ => 0
def isFin : FVal → Bool
  | .fin _ _ _ _ => true
  | _ => false
/-- The value of a bit pattern, and whether it is finite. -/
def realOfBits (f : Fmt) (w : Nat) : Rat := realOf (decodeF f w)
def finBits (f : Fmt) (w : Nat) : Bool := isFin (decodeF f w) && decide (w < 2 ^ f.width)
/-- The floating formats (R108, R233). -/
def formats : List Fmt := [f64, f32, bf16, f16, e4m3, e5m2, e3m2, e2m3, e2m1]
/-- A pattern w is a correct rounding of v in a mode (R248): 0 to nearest, ties to even; 1 toward zero; 2 up; 3 down;
4 to nearest, ties away from zero. -/
def roundedTo (f : Fmt) (mode : Nat) (v : Rat) (w : Nat) : Prop :=
  match mode with
  | 0 => ∀ u, finBits f u = true → (realOfBits f w - v).abs ≤ (realOfBits f u - v).abs ∧
      (realOfBits f u ≠ realOfBits f w → (realOfBits f w - v).abs = (realOfBits f u - v).abs → w % 2 = 0)
  | 1 => 0 ≤ realOfBits f w * v ∧ (realOfBits f w).abs ≤ v.abs ∧ ∀ u, finBits f u = true → (realOfBits f u).abs ≤ v.abs →
      (realOfBits f u).abs ≤ (realOfBits f w).abs
  | 2 => v ≤ realOfBits f w ∧ ∀ u, finBits f u = true → v ≤ realOfBits f u → realOfBits f w ≤ realOfBits f u
  | 3 => realOfBits f w ≤ v ∧ ∀ u, finBits f u = true → realOfBits f u ≤ v → realOfBits f u ≤ realOfBits f w
  | _ => ∀ u, finBits f u = true → (realOfBits f w - v).abs ≤ (realOfBits f u - v).abs ∧
      (realOfBits f u ≠ realOfBits f w → (realOfBits f w - v).abs = (realOfBits f u - v).abs →
        v.abs ≤ (realOfBits f w).abs)

/-- Where a branch goes, and the x register it writes: from the registers and the pc. -/
abbrev RowB := Regs → Nat → Nat × Option (BitVec 6 × Dword)
/-- A displacement in bundles: the short field, or the literal (R85, R86). -/
def disp {n : Nat} (lit : Word) (off : BitVec n) : Dword := if lit = 0 then off.signExtend 64 else lit.signExtend 64
def plus (pc : Nat) (d : Dword) : Nat := (BitVec.ofNat 64 pc + 8 * d).toNat
def rowIf (f : FmtB) (c : Dword → Dword → Bool) : Option RowB :=
  some fun r pc => (if c (rx r f.rs1.toNat) (rx r f.rs2.toNat) then plus pc (disp f.lit f.off) else pc + 8, none)
/-- R116 to R118; BCZ on an x register. -/
def branchRow : Instr → Option RowB
  | .br f => some fun _ pc => (plus pc (disp f.lit f.off), none)
  | .brl f => some fun _ pc => (plus pc (disp f.lit f.off), some (f.rd, BitVec.ofNat 64 (pc + 8)))
  | .jr f => some fun r _ => ((rx r f.rs1.toNat + 8 * disp f.lit f.imm).toNat, none)
  | .jrl f => some fun r pc => ((rx r f.rs1.toNat + 8 * disp f.lit f.imm).toNat, some (f.rd, BitVec.ofNat 64 (pc + 8)))
  | .bcEq f => rowIf f fun a b => a == b
  | .bcNe f => rowIf f fun a b => a != b
  | .bcLt f => rowIf f fun a b => decide (a.toInt < b.toInt)
  | .bcGe f => rowIf f fun a b => decide (a.toInt ≥ b.toInt)
  | .bcLtu f => rowIf f fun a b => decide (a.toNat < b.toNat)
  | .bcGeu f => rowIf f fun a b => decide (a.toNat ≥ b.toNat)
  | .bcz f =>
    if f.vec = 0 then some fun r pc =>
      (if (rx r f.rs.toNat ≠ 0) ↔ f.ne = 1 then plus pc (disp f.lit f.off) else pc + 8, none)
    else none
  | .loop f => some fun r pc =>
      (if rx r f.rs.toNat ≠ 1 then plus pc (disp f.lit f.off) else pc + 8, some (f.rs, rx r f.rs.toNat - 1))
  | _ => none

/-- Lanes for a v register with no flags: governing predicate, rd, lane. -/
abbrev RowV := BitVec 2 × BitVec 6 × (Regs → Nat → Word)
def lane2 (gp : BitVec 2) (f : FmtR) (g : Word → Word → Word → Word) : Option RowV :=
  some (gp, f.rd, fun r l => g (lane (rv r f.rs1.toNat) l) (lane (rv r f.rs2.toNat) l) (lane (rv r f.rd.toNat) l))
/-- The low bytes of an image as lanes. -/
def laneOfImage (img l : Nat) : Word := BitVec.ofNat 32 (img / 2 ^ (32 * l))
/-- The bits set in a predicate, ascending. -/
def onesOfPred (p : Pred) : List Nat := (List.range 256).filter fun i => p.getLsbD i
/-- R279's bit operations and R280 to R283, R289, R290, R292: integer lanes, bits, moves, packing. -/
def laneRow : Instr → Option RowV
  | .vadd gp f => if f.func = 1 then lane2 gp f fun a b _ => a + b else none
  | .vsub gp f => if f.func = 1 then lane2 gp f fun a b _ => a - b else none
  | .vmul gp f => if f.func = 1 then lane2 gp f fun a b _ => BitVec.ofInt 32 (a.toInt * b.toInt) else none
  | .vfma gp f => if f.func = 1 then lane2 gp f fun a b d => BitVec.ofInt 32 (a.toInt * b.toInt + d.toInt) else none
  | .vmin gp f => if f.func = 1 then lane2 gp f fun a b _ => BitVec.ofInt 32 (min a.toInt b.toInt) else none
  | .vmax gp f => if f.func = 1 then lane2 gp f fun a b _ => BitVec.ofInt 32 (max a.toInt b.toInt) else none
  | .vabs gp f => if f.func = 1 then lane2 gp f fun a _ _ => BitVec.ofNat 32 a.toInt.natAbs
    else if f.func = 0 then lane2 gp f fun a _ _ => BitVec.ofNat 32 (a.toNat % 2 ^ 31) else none
  | .vneg gp f => if f.func = 1 then lane2 gp f fun a _ _ => 0 - a
    else if f.func = 0 then lane2 gp f fun a _ _ => a + 0x80000000 else none
  | .vand gp f => lane2 gp f fun a b _ => a &&& b
  | .vor gp f => lane2 gp f fun a b _ => a ||| b
  | .vxor gp f => lane2 gp f fun a b _ => a ^^^ b
  | .vsll gp f => lane2 gp f fun a b _ => BitVec.ofNat 32 (a.toNat * 2 ^ (b.toNat % 32))
  | .vsrl gp f => lane2 gp f fun a b _ => BitVec.ofNat 32 (a.toNat / 2 ^ (b.toNat % 32))
  | .vsra gp f => lane2 gp f fun a b _ => BitVec.ofInt 32 (a.toInt / 2 ^ (b.toNat % 32))
  | .vsllImm gp f => lane2 gp f fun a _ _ => BitVec.ofNat 32 (a.toNat * 2 ^ f.rs2.toNat)
  | .vsrlImm gp f => lane2 gp f fun a _ _ => BitVec.ofNat 32 (a.toNat / 2 ^ f.rs2.toNat)
  | .vsraImm gp f => lane2 gp f fun a _ _ => BitVec.ofInt 32 (a.toInt / 2 ^ f.rs2.toNat)
  | .vsel gp f => some (gp, f.rd, fun r l =>
      if (rp r f.func.toNat).getLsbD l then lane (rv r f.rs1.toNat) l else lane (rv r f.rs2.toNat) l)
  | .vbcast gp f => some (gp, f.rd, fun r _ => BitVec.ofNat 32 (rx r f.rs1.toNat).toNat)
  | .vperm gp f => some (gp, f.rd, fun r l =>
      lane (rv r f.rs1.toNat) ((lane (rv r f.rs2.toNat) l).toNat % 256))
  | .vpackb gp f =>
    some (gp, f.rd, fun r l =>
      -- bit q of a lane of the image: element 64g + b at plane p, where the image bit is 64(g·w + p) + b
      let w := if f.func = 0 then 4 else if f.func = 1 then 2 else 1
      let code (x : Word) : Nat := if f.func = 2 then (if 0 < x.toInt then 1 else 0) else x.toNat
      let bit (q : Nat) : Nat :=
        let at_ := 32 * l + q
        if 256 * w ≤ at_ then 0
        else code (lane (rv r f.rs1.toNat) (64 * (at_ / (64 * w)) + at_ % 64)) / 2 ^ (at_ / 64 % w) % 2
      BitVec.ofNat 32 (((List.range 32).map fun q => bit q * 2 ^ q).sum))
  | .vunpkb gp f => some (gp, f.rd, fun r l =>
      let img := (rv r f.rs1.toNat).toNat
      let plane (w p : Nat) : Nat := img / 2 ^ (64 * (w * (l / 64) + p) + l % 64) % 2
      if f.func = 0 then
        BitVec.ofInt 32 ((plane 4 0 + 2 * plane 4 1 + 4 * plane 4 2 : Nat) - (8 * plane 4 3 : Nat))
      else if f.func = 1 then BitVec.ofInt 32 ((plane 2 0 : Nat) - (2 * plane 2 1 : Nat))
      else if f.func = 2 then (if plane 1 0 = 1 then 1 else BitVec.ofInt 32 (-1))
      else BitVec.ofNat 32 (asF32 f16 (cb4Code img l)))
  | .vidx gp f => some (gp, f.rd, fun r l =>
      let ones := onesOfPred (rp r f.rs1.toNat)
      let b := (rx r f.rs2.toNat).toNat
      let half (j : Nat) : Nat := match ones[j]? with | some i => (b + i) % 2 ^ 16 | none => 0
      if l = 0 then BitVec.ofNat 32 ones.length
      else if l = 1 then 0 else BitVec.ofNat 32 (half (2 * l - 4) + 2 ^ 16 * half (2 * l - 3)))
  | .vidxI32 gp f => some (gp, f.rd, fun r l =>
      match (onesOfPred (rp r f.rs1.toNat))[l]? with
      | some i => BitVec.ofNat 32 ((rx r f.rs2.toNat).toNat + i)
      | none => 0xFFFFFFFF)
  | .amovFromAcc gp f => some (gp, f.rd, fun r l =>
      let a := racc r f.rs1.toNat
      if a.kind = .zero then 0 else BitVec.ofNat 32 ((accLane a.lanes l).toNat / 2 ^ (32 * f.rs2.toNat)))
  | .vunpkbZx8 gp f => some (gp, f.rd, fun r l =>
      BitVec.ofNat 32 (asF32 e4m3
        ((zxBlocks ((rv r f.rs2.toNat).toNat % 2 ^ 1024) (rv r f.rs1.toNat).toNat 8 0).1.getD l 0)))
  | _ => none

/-- Floating lanes with flags: governing predicate, rd, and the lane from the registers, the lane number and the
random value of R249. -/
abbrev RowVF := BitVec 2 × BitVec 6 × (Regs → Nat → Nat → Word × Flags)
/-- An FP32 result lane after the flush of R245. -/
def fp32Out (r : Regs) (x : Nat × Flags) : Word × Flags := flushRes (r.frm.getLsbD 3) x
def laneF (gp : BitVec 2) (f : FmtR) (g : Env → FVal → FVal → FVal → Nat × Flags) : Option RowVF :=
  some (gp, f.rd, fun r l v =>
    let x (n : BitVec 6) := laneIn (r.frm.getLsbD 3) (lane (rv r n.toNat) l)
    fp32Out r (g { mode := r.frm.toNat % 8, fz := false, r := v } (x f.rs1) (x f.rs2) (x f.rd)))
/-- R279, R286, R287, R294. -/
def floatLaneRow : Instr → Option RowVF
  | .vadd gp f => if f.func = 0 then laneF gp f fun e a b _ => fadd f32 e a b else none
  | .vsub gp f => if f.func = 0 then laneF gp f fun e a b _ => fadd f32 e a (negF b) else none
  | .vmul gp f => if f.func = 0 then laneF gp f fun e a b _ => fmul f32 e a b else none
  | .vfma gp f => if f.func = 0 then laneF gp f fun e a b d => fmadd f32 e a b d else none
  | .vmin gp f => if f.func = 0 then laneF gp f fun _ a b _ => fminmax f32 false a b else none
  | .vmax gp f => if f.func = 0 then laneF gp f fun _ a b _ => fminmax f32 true a b else none
  | .vexp2 gp f => laneF gp f fun e a _ _ => vexp2 e a
  | .vrcp gp f => laneF gp f fun e a _ _ => vrcp e a
  | .vrsq gp f => laneF gp f fun e a _ _ => vrsq e a
  | .vlog2 gp f => laneF gp f fun e a _ _ => vlog2 e a
  | .vcvt gp f => some (gp, f.rd, fun r l v =>
      let a := lane (rv r f.rs1.toNat) l
      let fz := r.frm.getLsbD 3
      convLane (f.rs2.toNat % 16) (if f.func = 6 then r.frm.toNat % 8 else f.func.toNat) v fz
        (if f.rs2.toNat / 32 = 1 then .ofInt a.toInt else laneIn fz a))
  | .vnar gp f => some (gp, f.rd, fun r l v =>
      let a := racc r f.rs1.toNat
      convLane f.rs2.toNat (if f.func = 6 then r.frm.toNat % 8 else f.func.toNat) v (r.frm.getLsbD 3)
        (match a.kind with
        | .zero => .exact false 0 0
        | .f => decodeF f64 (accLane a.lanes l).toNat
        | .i => .ofInt (accLane a.lanes l).toInt))
  | _ => none

/-- Bits for a predicate: governing predicate, pd, and bit with its flags (R281, R288, R295). -/
abbrev RowP := BitVec 2 × BitVec 6 × (Regs → Nat → Bool × Flags)
def rowP (gp : BitVec 2) (f : FmtR) (g : Regs → Nat → Bool) : Option RowP := some (gp, f.rd, fun r l => (g r l, 0))
def predRow : Instr → Option RowP
  | .pand gp f => rowP gp f fun r l => (rp r f.rs1.toNat).getLsbD l && (rp r f.rs2.toNat).getLsbD l
  | .por gp f => rowP gp f fun r l => (rp r f.rs1.toNat).getLsbD l || (rp r f.rs2.toNat).getLsbD l
  | .pxor gp f => rowP gp f fun r l => (rp r f.rs1.toNat).getLsbD l != (rp r f.rs2.toNat).getLsbD l
  | .pnot gp f => rowP gp f fun r l => !(rp r f.rs1.toNat).getLsbD l
  | .pset gp f => rowP gp f fun r l => decide (l < (rx r f.rs1.toNat).toNat)
  | .vbmap gp f => rowP gp f fun r l =>
      nonzeroCode f.rs2.toNat (kindCode f.rs2.toNat (rv r f.rs1.toNat).toNat l)
  | .vcmp gp f => some (gp, f.rd, fun r l =>
      let a := lane (rv r f.rs1.toNat) l
      let b := lane (rv r f.rs2.toNat) l
      let fz := r.frm.getLsbD 3
      let x := laneIn fz a
      let y := laneIn fz b
      let nv : Flags := if x.isSnan || y.isSnan then fNV else 0
      match f.func.toNat with
      | 0 => (a == b, 0)
      | 1 => (a != b, 0)
      | 2 => (decide (a.toInt < b.toInt), 0)
      | 3 => (decide (a.toInt ≥ b.toInt), 0)
      | 4 => (decide (a.toNat < b.toNat), 0)
      | 5 => (decide (a.toNat ≥ b.toNat), 0)
      | 6 => (!x.isNan && !y.isNan && ltF x y, nv)
      | _ => (!x.isNan && !y.isNan && !ltF x y, nv))
  | _ => none

/-- An x result of vector or predicate sources with its flags (R283, R284, R288, R295): governing predicate, rd,
value from the registers and the random values of R249 by lane. -/
abbrev RowVX := BitVec 2 × BitVec 6 × (Regs → (Nat → Nat) → Dword × Flags)
/-- The fixed tree of R251, level by level, with the flags of its steps. -/
def treeOf (step : Nat → Word → Word → Word × Flags) : List Nat → List Word → Flags → Word × Flags
  | [], w, fl => (w.headD 0, fl)
  | n :: l, w, fl =>
    let x := (List.range n).map fun i => step i (w.getD i 0) (w.getD (i + n) 0)
    treeOf step l (x.map (·.1)) (x.foldl (fun a y => a ||| y.2) fl)
def halves : List Nat := [128, 64, 32, 16, 8, 4, 2, 1]
def vectorXRow : Instr → Option RowVX
  | .vext gp f => some (gp, f.rd, fun r _ =>
      let w := lane (rv r f.rs1.toNat) ((rx r f.rs2.toNat).toNat % 256)
      (if f.func = 0 then w.signExtend 64 else w.setWidth 64, 0))
  | .vnzc gp f => some (gp, f.rd, fun r _ =>
      (BitVec.ofNat 64 ((List.range (imageCount f.rs2.toNat)).filter fun e =>
        nonzeroCode f.rs2.toNat (kindCode f.rs2.toNat (rv r f.rs1.toNat).toNat e)).length, 0))
  | .pcnt gp f => some (gp, f.rd, fun r _ => (BitVec.ofNat 64 (onesOfPred (rp r f.rs1.toNat)).length, 0))
  | .pfirst gp f => some (gp, f.rd, fun r _ => (BitVec.ofNat 64 ((onesOfPred (rp r f.rs1.toNat)).headD 256), 0))
  | .vred gp f => some (gp, f.rd, fun r v =>
      let a := rv r f.rs1.toNat
      let m := rp r f.rs2.toNat
      let op := f.func.toNat / 2
      let fz := r.frm.getLsbD 3
      if f.func.toNat % 2 = 1 then
        let vals := (onesOfPred m).map fun l => (lane a l).toInt
        (BitVec.signExtend 64 (BitVec.ofInt 32 (if op = 0 then vals.sum
          else if op = 1 then vals.foldl min (2 ^ 31 - 1) else vals.foldl max (-(2 ^ 31)))), 0)
      else
        let id : Word := if op = 0 then 0 else if op = 1 then 0x7F800000 else 0xFF800000
        let step (i : Nat) (x y : Word) : Word × Flags := flushRes fz
          (if op = 0 then fadd f32 { mode := r.frm.toNat % 8, fz := false, r := v i } (laneIn fz x) (laneIn fz y)
           else fminmax f32 (op != 1) (laneIn fz x) (laneIn fz y))
        let t := treeOf step halves ((List.range 256).map fun l => if m.getLsbD l then lane a l else id) 0
        (t.1.setWidth 64, t.2))
  | _ => none

/-- An accumulator: rd, KIND, lanes with flags from the registers (R255, R291 to R293); a lane that the governing
predicate excludes keeps its value, 0 under ZERO. -/
abbrev RowA := BitVec 2 × BitVec 6 × AccKind × (Regs → Nat → Dword × Flags)
def accWas (r : Regs) (n l : Nat) : Dword := if (racc r n).kind = .zero then 0 else accLane (racc r n).lanes l
def accRow : Instr → Option RowA
  | .aclr gp f => some (gp, f.rd, .zero, fun _ _ => (0, 0))
  | .amovToAcc gp f => some (gp, f.rd, if f.func.toNat % 2 = 1 then .i else .f, fun r l =>
      let a := lane (rv r f.rs1.toNat) l
      let b := lane (rv r f.rs2.toNat) l
      (if f.func = 0 then widen64 (r.frm.getLsbD 3) a
       else if f.func = 1 then a.signExtend 64 else b ++ a, 0))
  | .vmac gp f => some (gp, f.rd, if f.func.toNat % 2 = 1 then .i else .f, fun r l =>
      let a := lane (rv r f.rs1.toNat) l
      let b := lane (rv r f.rs2.toNat) l
      let fz := r.frm.getLsbD 3
      if f.func.toNat % 2 = 1 then
        (BitVec.ofInt 64 ((accWas r f.rd.toNat l).toInt + a.toInt * b.toInt), 0)
      else
        let x := fmadd f64 { mode := 0, fz := false, r := 0 } (laneIn fz a) (laneIn fz b)
          (decodeF f64 (accWas r f.rd.toNat l).toNat)
        (BitVec.ofNat 64 x.1, x.2))
  | _ => none

/-- An address of R199: a register and a short offset that counts units, or the literal when it is nonzero. -/
def addressOf {n : Nat} (r : Regs) (rs1 : BitVec 6) (lit : Word) (off : BitVec n) (unit : Nat) : Dword :=
  rx r rs1.toNat + (if lit = 0 then off.signExtend 64 * BitVec.ofNat 64 unit else lit.signExtend 64)
/-- R202: the scalar loads with their sizes in bytes, and whether the value is sign-extended. -/
def loadRow : Instr → Option (FmtL × Nat × Bool)
  | .ldb f => some (f, 1, true)
  | .ldbu f => some (f, 1, false)
  | .ldh f => some (f, 2, true)
  | .ldhu f => some (f, 2, false)
  | .ldw f => some (f, 4, true)
  | .ldwu f => some (f, 4, false)
  | .ldd f => some (f, 8, false)
  | _ => none
def loadAddr (r : Regs) (f : FmtL) (size : Nat) : Nat := (addressOf r f.rs1 f.lit f.off size).toNat
/-- A loaded value of a size in an x register (R202). -/
def extended (size : Nat) (signed : Bool) (v : Nat) : Dword :=
  if signed then (BitVec.ofNat (8 * size) v).signExtend 64 else (BitVec.ofNat (8 * size) v).setWidth 64
/-- R202: the scalar stores with their sizes. -/
def storeRow : Instr → Option (FmtS × Nat)
  | .stb f => some (f, 1)
  | .sth f => some (f, 2)
  | .stw f => some (f, 4)
  | .std f => some (f, 8)
  | _ => none
def storeAddr (r : Regs) (f : FmtS) (size : Nat) : Nat := (addressOf r f.rs1 f.lit f.off size).toNat
/-- The space of a load by its sp field: 1 tcm, 2 spm; 0 and 1 are virtual memory (R87). -/
def loadSpace (sp : BitVec 2) : Nat := if sp = 2 then 1 else if sp = 3 then 2 else 0
/-- The space (0 virtual, 1 tcm, 2 spm), address and size of a scalar access. -/
def scalarAccess (r : Regs) (i : Instr) : Option (Nat × Nat × Nat) :=
  match loadRow i, storeRow i with
  | some (f, size, _), _ => some (loadSpace f.sp, loadAddr r f size, size)
  | none, some (f, size) => some (f.sp.toNat, storeAddr r f size, size)
  | none, none => none
/-- R209: the atomics by their numbers. -/
def atomicRow : Instr → Option (FmtAM × Nat)
  | .amoadd f => some (f, 0)
  | .amoand f => some (f, 1)
  | .amoor f => some (f, 2)
  | .amoxor f => some (f, 3)
  | .amomin f => some (f, 4)
  | .amomax f => some (f, 5)
  | .amominu f => some (f, 6)
  | .amomaxu f => some (f, 7)
  | .amoswp f => some (f, 8)
  | .amocas f => some (f, 9)
  | .amofadd f => some (f, 10)
  | .amoaddt f => some (f, 11)
  | _ => none
/-- The access of the bundle that issues, as it leaves the core (R201). -/
def sent (s : State) (kind : AccessKind) (ps : List Piece) (data : Nat) (blocking : Bool) : Access :=
  { kind := kind, core := s.core, ctx := s.ctx, part := partOf s s.core, pc := (cur s).pc, word := 0, pieces := ps,
    data := data, blocking := blocking }
/-- A release's store or atomic leaves its core at a scope (R166, R183): beyond the core the core's dirty lines are
written back first, and it takes the signature of a far core, which is cleared. -/
def sentRel (r : State) (scope : BitVec 3) (a : Access) : State :=
  if scope.toNat < 2 then submit r a
  else
    let u := releaseAll r r.core
    if Config.isHome u.core then submit u a
    else submit (modCore u u.core fun c => { c with sig := 0 }) { a with sig := (coreAt u u.core).sig }
/-- A part of n bytes at an address. -/
def part1 (va n pos : Nat) (write : Bool) : Piece := { va := va, size := n, pos := pos, write := write }
/-- The active lanes of a gather or scatter with their addresses (R207). -/
def activeLanes (r : Regs) (f : FmtR) : List (Nat × Nat) :=
  (List.range 256).filterMap fun l =>
    let x := lane (rv r f.rs2.toNat) l
    if x = 0xFFFFFFFF then none
    else some (l, (rx r f.rs1.toNat + BitVec.ofNat 64 (x.toNat * 2 ^ (f.func.toNat % 4))).toNat)
/-- R220: the copies by their numbers. -/
def copyRow : Instr → Option (FmtC × Nat)
  | .cpy f => some (f, 0)
  | .cpy2 f => some (f, 1)
  | .cpym f => some (f, 2)
  | .cpyw f => some (f, 3)
  | _ => none
/-- The array commands with the operands that they read (R296, R301 to R306). -/
def commandRow : Instr → Option (Option (BitVec 6) × Option (BitVec 6))
  | .mgath f => some (some f.rs1, some f.rs2)
  | .mldb f => some (some f.rs1, none)
  | .mmul _ => some (none, none)
  | .mmuls f => some (some f.rs1, none)
  | .mscale f => some (some f.rs1, some f.rs2)
  | .mstore f => some (some f.rs1, none)
  | .mclr _ => some (none, none)
  | _ => none
def operandOf (r : Regs) (n : Option (BitVec 6)) : Nat := match n with | some n => (rx r n.toNat).toNat | none => 0

/-- The control registers that a core's own contexts read at once, with their values (R119, R120). -/
def crTable (s : State) : List (Nat × Dword) :=
  let core := coreAt s s.core
  let c := cur s
  let slot (i : Nat) : Dword := match core.gslots.getD i none with | some g => BitVec.ofNat 64 (2 ^ 63 + g) | none => 0
  [(0x000, BitVec.ofNat 64 core.xb), (0x001, core.bodytab), (0x002, core.tbudget),
   (0x003, BitVec.ofNat 64 (c.base.toNat + 4 * c.inh.toNat + 16 * effClass s s.core s.ctx)),
   (0x004, slot 0), (0x005, slot 1), (0x006, slot 2), (0x007, slot 3),
   (0x010, core.trapvec), (0x011, core.upcvec), (0x012, c.tstat), (0x013, c.tpc), (0x014, c.tcause), (0x015, c.tval),
   (0x020, c.msgid), (0x021, c.ancb), (0x022, c.ancl), (0x023, BitVec.ofNat 64 s.ctx), (0x024, BitVec.ofNat 64 s.core),
   (0x025, if Config.isHome s.core then BitVec.ofNat 64 (2 ^ 63 + clusterFor s s.core) else BitVec.ofNat 64 (s.core / 8)),
   (0x026, BitVec.ofNat 64 (if s.core < 512 then s.core / 128 else (s.core - 512) / 64)),
   (0x027, BitVec.ofNat 64 (partOf s s.core)), (0x030, BitVec.ofNat 64 s.cycle),
   (0x040, c.regs.frm), (0x041, c.regs.fmta), (0x042, c.regs.fmtb), (0x043, c.regs.fmto), (0x044, c.regs.scla),
   (0x045, c.regs.sclb), (0x046, c.regs.mround), (0x050, c.regs.npeps), (0x060, core.htable)]
/-- The late ones (R119). -/
def lateTable (s : State) : List (Nat × Dword) :=
  let p := partAt s (partOf s s.core)
  [(0x031, p.sampcfg), (0x070, p.ptroot), (0x071, p.walkcfg)]
/-- What a control register reads after a write of v, where the write is allowed: its clamps and read-only bits (R65,
R96, R123, R348); PRIO's other fields are of other rules. -/
def crWritten (s : State) (crn : Nat) (v : Dword) : Option Dword :=
  let ceiling := (partAt s (partOf s s.core)).ceiling.toNat
  match crn with
  | 0x000 => some (BitVec.ofNat 64 (min (v.toNat % 2 ^ 20) (if s.core < 512 then 2 ^ 19 else 2 ^ 17)))
  | 0x002 => some (BitVec.ofNat 64 (min (max v.toNat 4096) ceiling))
  | 0x012 => some (((cur s).tstat &&& ~~~0xFFFF1E) ||| (v &&& 0xFFFF1E))
  | 0x001 | 0x010 | 0x011 | 0x013 | 0x014 | 0x015 | 0x031 | 0x040 | 0x041 | 0x042 | 0x043 | 0x044 | 0x045 | 0x046
  | 0x050 | 0x060 => some v
  | _ => none
/-- What a control register reads for the issuing core. -/
def crNow (s t : State) (crn : Nat) : Dword := crRead t s.core s.ctx (now s t).regs crn
/-- Instructions that write a control register, with the value (R123, R124). -/
def crWriteRow : Instr → Option (Nat × (State → Dword))
  | .crwr f => some (f.crn.toNat, fun s => rx (cur s).regs f.x.toNat)
  | .crsetb f => some (f.crn.toNat, fun s => crNow s s f.crn.toNat ||| BitVec.ofNat 64 (2 ^ f.x.toNat))
  | .crclrb f => some (f.crn.toNat, fun s => crNow s s f.crn.toNat &&& ~~~(BitVec.ofNat 64 (2 ^ f.x.toNat)))
  | _ => none

/-- The lane of beat b's element in a stream of R252, from the bytes of the place it names (R253). -/
def beatOf (s : State) (st : Stream) (pl : Place) (l : Nat) : Word :=
  let n0 := st.bound.getD 0 1
  let n1 := st.bound.getD 1 1
  let e := 256 * st.count + l
  if e < n0 * n1 * st.bound.getD 2 1 then
    elemRead st.elem (bytesAt s pl (st.base + BitVec.ofNat 64 (e % n0) * st.stride.getD 0 0 +
      BitVec.ofNat 64 (e / n0 % n1) * st.stride.getD 1 0 + BitVec.ofNat 64 (e / n0 / n1) * st.stride.getD 2 0).toNat
      (elemSize st.elem))
  else 0

/-- The record that R131 makes of a body's entry, an anchor and x7 to x10 (R17, R22). -/
def taskOf (x : Regs) (body : Nat) (base len : Dword) (e : Nat) : TaskRecord :=
  let kind := e / 2 ^ 46 % 4
  { body := BitVec.ofNat 10 body, cls := BitVec.ofNat 2 (e / 2 ^ 44), near := kind == 0 || kind == 1,
    far := kind == 0 || kind == 2, alenm1 := BitVec.ofNat 21 (len.toNat - 1), thresh := BitVec.ofNat 10 (e / 2 ^ 34),
    abase := BitVec.ofNat 57 base.toNat, arg0 := rx x 7, arg1 := rx x 8, arg2 := rx x 9, arg3 := rx x 10 }
/-- The instructions that make a record, with its body, anchor and destination (R129 to R131). -/
def recordRow (s : State) : Instr → Option (Nat × Dword × Dword × Dest)
  | .spawn f =>
    let base := rx (cur s).regs f.rb.toNat
    some (f.body.toNat, base, rx (cur s).regs f.rl.toNat, .home (homeIn s (partOf s s.core) base.toNat))
  | .spawnh f =>
    let t := (rx (cur s).regs f.rt.toNat).toNat
    some (f.lit.toNat % 1024, rx (cur s).regs f.rb.toNat, rx (cur s).regs f.rl.toNat,
      if t / 1024 % 4 = 0 then .core (t % 1024) else .home (t % 1024))
  | .send f => some ((rx (cur s).regs f.rs2.toNat).toNat % 1024, rx (cur s).regs 4, rx (cur s).regs 5,
      .core ((rx (cur s).regs f.rs1.toNat).toNat % 1024))
  | .sendg f => some ((rx (cur s).regs f.rs2.toNat).toNat % 1024, rx (cur s).regs 4, rx (cur s).regs 5,
      .set (members s (partOf s s.core) ((rx (cur s).regs f.rs1.toNat).toNat % 256)))
  | _ => none
/-- A request starts the task that a queue gives it in the context it has reserved, and rd receives the message's
identifier (R14, R31, R132). -/
def started (r : State) (slice k : Nat) (q : QReq) (t : QTask) : State :=
  let u := deliver (modSP r slice (partOf r q.core) fun x => removeTask x t) q.core k t.record
  sendX (modCtx u q.core k fun c => { c with reserved := false }) q.core q.ctx q.rd (ctxAt u q.core k).msgid
/-- The end of a unit of work with the messages that it sends (R39, R134). -/
def unitEnd (s : State) (i : Instr) (ms : List Msg) (r : State) : State :=
  let r := releaseAll r r.core
  endOrWait (modCtx { r with msgs := r.msgs ++ ms } s.core s.ctx fun c => { c with sends := [] }) s.core s.ctx i

/-- The instruction has an encoding (R82); the others are events. -/
def hasWord : Instr → Bool
  | .launchTreeMessage _ | .arrayCommandStart _ | .valueArrival _ _ _ | .refusal _ _ | .budget _ _
  | .enqueue _ | .retirement _ | .inboundDelivery _ | .upcallStart _ | .pageWalk _ _
  | .monitorRewalk _ | .transientTimeout _ | .persistentActivate _ _ | .copyComplete _ _
  | .belayGrant _ | .powerLeaveGrant _ _ | .limitChange _ _ _ | .preemptionRequest _
  | .preemptionLift _ | .consistentCut _ _ | .marker _ _ _ | .cutResume _ | .launchRecord _ _
  | .loadRecord _ _ | .releaseRecord _ _ | .hostRead _ _ _ | .hostWrite _ _ _ | .partitionCreate _
  | .partitionTeardown _ | .coldStart | .warmStart _ | .getVersion _ | .getCapabilities _
  | .negotiateAlgorithms _ | .getDigests _ | .getCertificate _ | .challenge _ _
  | .getMeasurements _ _ _ | .keyExchange _ _ | .finish _ _ | .endSession _
  | .vendorDefinedRequest _ _ | .halt _ | .resume _ | .debugRegisterWrite _ _ _ | .sampleTick _
  | .hbmReadError _ | .hbmRetry _ _ | .lifetimeFlush _ | .counterRead | .overlayFetch _ _
  | .unassignedBundle _ _ | .tdispRequest _ _ | .peerRequest _ | .pcieLinkDown _ | .dumpRequest _ => false
  | _ => true

/-- A load record whose GO has been taken (R380, R391). -/
def loadAccepted (s : State) (p : Nat) (r : LoadRecord) : State :=
  let u := modPart { s with accessId := s.accessId + 1 } p fun q =>
    { q with winRec := fset (fset q.winRec 0x100 r.obj) 0x101 r.dbase }
  modPart u p fun q => { q with loadQ := some r, loading := true, loadGo := r.go }
/-- The loader reads an object's header, its directory and the rest, chooses an image and stores what of it lies in
memory (R380, R381): the state after that, the image and its number; none where any of these is not there at once. -/
def loadsTo (s : State) (p : Nat) (r : LoadRecord) : Option (State × Nat × Ready) :=
  let obj := r.obj.toNat
  let map := ((partAt s p).clusters, (partAt s p).slices)
  if obj % 64 ≠ 0 ∨ r.dbase.toNat % 8192 ≠ 0 ∨ 2 ^ 57 < obj + 64 ∨ 2 ^ 57 ≤ r.dbase.toNat then none
  else match loadBytes p obj 8 s with
    | .ok s h =>
      if 2 ^ 57 < obj + dwordAt h 8 ∨ headerBad h = true then none
      else match loadBytes p obj (8 + 4 * images h) s with
        | .ok s d =>
          if entriesBad d then none
          else match loadBytes p obj ((dwordAt h 8 + 7) / 8) s with
            | .ok s b => (match chooseImage map (b.take (dwordAt h 8)) r.dbase.toNat with
              | .ok (i, x) => (match storeParts p x.parts s with | .ok s _ => some (s, i, x) | _ => none)
              | .error _ => none)
            | _ => none
        | _ => none
    | _ => none

end Sys2Proof.Machine
end

