-- ==== Sys2Proof/Certificates/Slice0/Obligations.lean ====
section
/-! DEFINITION. The statements about the model, one for each claim drawn from the rules of the spec. -/

section
open Sys2Proof Sys2Proof.Machine

/-- R82 to R93: on either kind of core, a well-formed instruction that stands alone decodes from its words to itself,
every operand at every value. -/
def Obligations.LoneBundleDecodesToItself : Prop :=
  ∀ (home : Bool) (i : Instr), wellFormed home i = true → hasWord i = true → gpOf i = 0 →
    decodeBundle home (encode i).1 (encode i).2 = .ok (.lone i)

/-- R82 to R93: a well-formed pair of a C-class and an A-class instruction, neither with a literal, decodes to itself,
the governing predicate with it. -/
def Obligations.PairedBundleDecodesToItself : Prop :=
  ∀ (home : Bool) (c a : Instr), wellFormed home c = true → wellFormed home a = true → hasWord c = true →
    isA c = false → isA a = true → literalOnly c = false → (literal c).getD 0 = 0 → (literal a).getD 0 = 0 →
    decodeBundle home (encodePair c a).1 (encodePair c a).2 = .ok (.pair c a)

/-- R82 to R93: whatever decodes is well-formed on its kind of core, a pair is a C-class and an A-class instruction,
and its words are the ones that encode it: no two words mean one bundle. -/
def Obligations.DecodedBundleIsLegalAndUnique : Prop :=
  ∀ (home : Bool) (w0 w1 : Nat), w0 < 2 ^ 32 → w1 < 2 ^ 32 →
    (∀ i, decodeBundle home w0 w1 = .ok (.lone i) → wellFormed home i = true ∧ encode i = (w0, w1)) ∧
    (∀ c a, decodeBundle home w0 w1 = .ok (.pair c a) →
      wellFormed home c = true ∧ wellFormed home a = true ∧ isA c = false ∧ isA a = true ∧ encodePair c a = (w0, w1))

/-- R82 to R93, R360: a few words written out bit by bit, TRAP 5, TRET and DBRK 3 of R360 among them. -/
def Obligations.WrittenWordsDecode : Prop :=
  -- lone ADD x3, x1, x2: LONE, CLASS, w1 and w2 set, rs2 = 2, rs1 = 1, rd = 3, opcode 0
  decodeBundle false 0b11000110000100000010000110000000 0 = .ok (.lone (.add 0 ⟨0, 1, 1, 2, 1, 3⟩)) ∧
  -- lone BR with the literal −16
  decodeBundle false 0b10000000000000000000000000000001 0xFFFFFFF0 = .ok (.lone (.br ⟨0, 0, 0xFFFFFFF0⟩)) ∧
  -- LDD x9, 8(x13) beside VADD.i32 v3, v1, v2 under p2: imm 1 counts dwords, space 0, w1 = 1
  decodeBundle false 0b00000000010010011010010010010110 0b10001110000100000010000111000000 =
    .ok (.pair (.ldd ⟨1, 0, 1, 13, 9, 0⟩) (.vadd 2 ⟨1, 1, 1, 2, 1, 3⟩)) ∧
  -- TRAP 5, TRET and DBRK 3
  decodeBundle false 0b10000000000000001010000001111000 0 = .ok (.lone (.trap ⟨5, 0, 0⟩)) ∧
  decodeBundle false 0b10000000000000000000000001111001 0 = .ok (.lone (.tret ⟨0, 0, 0, 0, 0, 0⟩)) ∧
  decodeBundle false 0b10000000000000000110000001111111 0 = .ok (.lone (.dbrk ⟨3, 0, 0⟩)) ∧
  -- MWAIT on a home core; an unassigned C-class opcode; a pair whose word 0 has CLASS set
  decodeBundle true 0b10001000000000000000000001110001 0 = .error ⟨.notHere, 0b10001000000000000000000001110001, 0⟩ ∧
  decodeBundle false 0x80000000 0 = .error ⟨.enc, 0x80000000, 0⟩ ∧
  decodeBundle false 0x40000001 0 = .error ⟨.pair, 0x40000001, 0⟩

/-- R48, R82, R90: with nothing else under way, a step takes the context that the scheduler picks, and where the
dword at its pc decodes to a lone instruction, the step is exec of it. A pair whose bundle may issue performs both halves
on operands read before either (R83). That the cores issue in rotation, and that the cycle advances where the rotation
begins anew, is the model's choice (DEDUCED, log 8). -/
def Obligations.StepRunsTheDecodedBundle : Prop :=
  ∀ (s : State) (skipped : List Nat) (n k : Nat), s.schedule = [] → ticks s = [] → budgets s = [] → dues s = [] →
    works s = [] →
    nextCore s (coreOrder s) [] = some (skipped, n, k) →
    let u := issuing s skipped n k
    let pc := (cur u).pc
    (cur u).bpSkip = false → bpHit u = none → isSecond (cur u) = false → pc < boundary u n →
    ffind (coreAt u n).fetched pc = none →
    (∀ i, decodeBundle (Config.isHome n) (tcmDword u n pc % 2 ^ 32) (tcmDword u n pc / 2 ^ 32) = .ok (.lone i) →
      step s = exec i (noteFetch u n pc)) ∧
    (∀ c a, decodeBundle (Config.isHome n) (tcmDword u n pc % 2 ^ 32) (tcmDword u n pc / 2 ^ 32) = .ok (.pair c a) →
      pairDest c a = false →
      let v := readEntry (noteFetch u n pc) [(c, 0), (a, 1)]
      check v [(c, 0), (a, 1)] = .go → step s = andThen (runHalves (begin v [c, a]) c a) fun t =>
        .next (watch v pc [c, a] (snapshot v) (endBundle t)))

/-- R11, the model's schedule: a step takes the next event from outside first, and no cycle passes. -/
def Obligations.StepRunsTheScheduledEvent : Prop :=
  ∀ (s : State) (i : Instr) (l : List Instr), s.schedule = i :: l → step s = exec i { s with schedule := l }

/-- R90, R91, R94, R97: a context that may issue and whose pc is at or above the boundary traps OVERLAY with TVAL its
pc, and one whose word is no bundle traps ILL with the subcode and word of the decode; TPC is its pc. -/
def Obligations.FetchTrapsAreTaken : Prop :=
  ∀ (s : State) (n k : Nat), noCtx n k = false →
    let u := { s with core := n, ctx := k, latch := none, tail := none }
    attempts u = true → isSecond (cur u) = false →
    (boundary u n ≤ (cur u).pc →
      exec (.overlayFetch n k) s = .next (within s n k fun v =>
        takeTrapAt v n k { cause := 0x05, val := BitVec.ofNat 64 (cur u).pc, tpc := (cur u).pc })) ∧
    (∀ e : IllInfo, (cur u).pc < boundary u n → ffind (coreAt u n).fetched (cur u).pc = none →
      decodeBundle (Config.isHome n) (tcmDword u n (cur u).pc % 2 ^ 32) (tcmDword u n (cur u).pc / 2 ^ 32) = .error e →
      exec (.unassignedBundle n k) s = .next (within s n k fun v =>
        takeTrapAt (noteFetch v n (cur u).pc) n k
          { cause := 0x01, sub := e.sub.code, val := BitVec.ofNat 64 (e.hw + 2 ^ 32 * e.word), tpc := (cur u).pc }))

/-- R99 to R105: the integer instructions write their row's result to rd, full, where bit 0 of the governing predicate
is 1, and change nothing else. Three-register results wrap modulo 2^64; division has the boundary cases of R101, and
never traps; ADDSH, SEL and the bit instructions; the immediate forms, short and long, with LI and LIH. -/
def Obligations.IntegerInstructionsGiveTheirRows : Prop :=
  ∀ (s : State) (i : Instr) (gp : BitVec 2) (rd : BitVec 6) (g : Regs → Dword),
    (integerRow i = some (gp, rd, g) ∨ divisionRow i = some (gp, rd, g) ∨ bitRow i = some (gp, rd, g) ∨
      immediateRow i = some (gp, rd, g)) → Issues s i →
    ∃ t, exec i s = .next t ∧ WroteX s t (onBit s gp) rd (g (cur s).regs) ∧ Flagged s t false 0 ∧ OnlyX s t

/-- R107 to R114, R249: the scalar floating instructions write their row's pattern to rd and OR its flags into FRM,
where bit 0 of the governing predicate is 1; the random value of stochastic rounding is that of lane 0. -/
def Obligations.FloatInstructionsGiveTheirRows : Prop :=
  ∀ (s : State) (i : Instr) (gp : BitVec 2) (rd : BitVec 6) (g : Regs → Nat → Nat × Flags),
    floatRow i = some (gp, rd, g) → Issues s i →
    let w := g (cur s).regs (random s 0)
    ∃ t, exec i s = .next t ∧ WroteX s t (onBit s gp) rd (BitVec.ofNat 64 w.1) ∧ Flagged s t (onBit s gp) w.2 ∧ OnlyX s t

/-- R234, R235, R247, R248: a finite value rounds, in each mode but the stochastic one, to the pattern that the mode
names, unless it overflows, and NX tells whether the pattern's value differs; a pattern that is no NaN, rounded into
its own format, is itself, with no flag, whatever the mode and the random value. -/
def Obligations.RoundingFollowsTheMode : Prop :=
  (∀ (f : Fmt) (mode r : Nat) (neg : Bool) (m : Nat) (e : Int), f ∈ formats → mode < 5 →
    let v := FVal.exact neg m e
    let w := roundTo f mode r v
    w.2 &&& fOF = 0 → finBits f w.1 = true ∧ roundedTo f mode (realOf v) w.1 ∧
      (w.2 &&& fNX ≠ 0 ↔ realOfBits f w.1 ≠ realOf v)) ∧
  (∀ (f : Fmt) (mode r w : Nat), f ∈ formats → r < 2 ^ 16 → w < 2 ^ f.width → (decodeF f w).isNan = false →
    roundTo f mode r (decodeF f w) = (w, 0))

/-- R109: the value that FADD, FSUB and FMA round is the exact sum, that FMUL rounds the exact product; a quotient and a
root lie at or above theirs by less than a step, and are marked when they are not exact. -/
def Obligations.ArithmeticIsExactBeforeRounding : Prop :=
  ∀ (s t rdn : Bool) (m n : Nat) (e g : Int),
    let a := FVal.exact s m e
    let b := FVal.exact t n g
    realOf (addF rdn a b) = realOf a + realOf b ∧ realOf (mulF a b) = realOf a * realOf b ∧
    (n ≠ 0 → ∃ q k up, divFin (s != t) m e n g = .fin (s != t) q k up ∧
      (q : Rat) * 2 ^ k ≤ (realOf a).abs / (realOf b).abs ∧
      (realOf a).abs / (realOf b).abs < ((q : Rat) + 1) * 2 ^ k ∧
      (up = true ↔ (q : Rat) * 2 ^ k ≠ (realOf a).abs / (realOf b).abs)) ∧
    (∃ q k up, sqrtFin m e = .fin false q k up ∧ ((q : Rat) * 2 ^ k) ^ 2 ≤ (realOf a).abs ∧
      (realOf a).abs < (((q : Rat) + 1) * 2 ^ k) ^ 2 ∧ (up = true ↔ ((q : Rat) * 2 ^ k) ^ 2 ≠ (realOf a).abs))

/-- R111: FCMP's mask has exactly one bit: less, equal or greater by the values of finite operands, unordered on a NaN,
which sets NV when it is signalling. -/
def Obligations.CompareMasksFollowTheValues : Prop :=
  ∀ (f : Fmt) (x y : Nat), f ∈ formats →
    let a := decodeF f x
    let b := decodeF f y
    (isFin a = true → isFin b = true →
      fcmp a b = (if realOf a < realOf b then 1 else if realOf a = realOf b then 2 else 4, 0)) ∧
    (a.isNan = true ∨ b.isNan = true → fcmp a b = (8, if a.isSnan || b.isSnan then fNV else 0)) ∧
    (∀ s, a = .inf s → isFin b = true → fcmp a b = (if s then 1 else 4, 0)) ∧
    (∀ s, b = .inf s → isFin a = true → fcmp a b = (if s then 4 else 1, 0)) ∧
    (∀ s t, a = .inf s → b = .inf t → fcmp a b = (if s = t then 2 else if s then 1 else 4, 0))

/-- R115 to R118: branches, jumps and LOOP go where their row says, BRL and JRL write the link, LOOP its counter; a
second of a rope follows its lead instead (R62). BCZ on a vector register tests whether the stream bound to it has
beats left; an unbound register has none. -/
def Obligations.BranchesGoWhereTheirRowsSay : Prop :=
  (∀ (s : State) (i : Instr) (g : RowB), branchRow i = some g → Issues s i → Untraced s s.core →
    let w := g (cur s).regs (cur s).pc
    ∃ t, exec i s = .next t ∧ WentTo s t (if isSecond (cur s) then (cur s).pc + 8 else w.1) ∧
      (match w.2 with
       | some (rd, v) => WroteX s t true rd v
       | none => KeptX s t) ∧
      KeptV s t ∧ KeptP s t false ∧ Flagged s t false 0 ∧ KeptAcc s t ∧ KeptCr s t ∧ RegsOnly s t ∧ KeptMemory s t) ∧
  (∀ (s : State) (f : FmtZ), f.vec = 1 → Issues s (.bcz f) → Untraced s s.core → isSecond (cur s) = false →
    let more : Bool := match (cur s).streams.find? fun e => e.2.vd == f.rs.toNat with
      | some e => decide (e.2.count < beatCount e.2.bound)
      | none => false
    ∃ t, exec (.bcz f) s = .next t ∧ KeptRegs s t ∧ RegsOnly s t ∧ KeptMemory s t ∧
      WentTo s t (if (more == (f.ne == 1)) = true then plus (cur s).pc (disp f.lit f.off) else (cur s).pc + 8))

/-- R119, R120, R122: CRRD reads each register's value; that of a late register arrives within 300 cycles. -/
def Obligations.ControlReadsGiveTheRegisters : Prop :=
  ∀ (s : State) (f : FmtCR), Issues s (.crrd f) →
    (∀ v, (f.crn.toNat, v) ∈ crTable s →
      ∃ t, exec (.crrd f) s = .next t ∧ WroteX s t true f.x v ∧ Flagged s t false 0 ∧ OnlyX s t) ∧
    (∀ v, (f.crn.toNat, v) ∈ lateTable s →
      ∃ t, exec (.crrd f) s = .next t ∧ AwaitsLate s t f.x v 300 ∧ Flagged s t false 0 ∧ OnlyX s t)

/-- R65, R96, R119, R123, R124, R348: after CRWR, CRSETB or CRCLRB the register reads what was written, clamped as its
rule says, and every other control register of the core reads as before; no other register and no byte changes. A
write to a register that partition-mode code may not write, or of a rounding mode above 5, traps ILL STATE with the
value. -/
def Obligations.ControlWritesReadBackOrTrap : Prop :=
  (∀ (s : State) (i : Instr) (crn : Nat) (v : State → Dword), crWriteRow i = some (crn, v) → Issues s i →
    (coreAt s s.core).part.isSome = true →
    ∃ t, exec i s = .next t ∧ Advanced s t ∧
      (∀ w, crWritten s crn (v s) = some w → crNow s t crn = w) ∧
      (crn = 0x003 → (now s t).base = (v s).setWidth 2) ∧
      (∀ c, c ≠ crn → crNow s t c = crNow s s c) ∧
      KeptX s t ∧ KeptV s t ∧ KeptP s t false ∧ KeptAcc s t ∧ KeptMemory s t) ∧
  (∀ (s : State) (f : FmtCR), Reaches s (.crwr f) →
    (f.crn.toNat ∈ [0x004, 0x005, 0x006, 0x007, 0x020, 0x021, 0x022, 0x023, 0x024, 0x025, 0x026, 0x027, 0x030, 0x070,
      0x071] ∨ (f.crn = 0x040 ∧ 5 < (rx (cur s).regs f.x.toNat).toNat % 8)) →
    exec (.crwr f) s = .next (takeTrapAt s s.core s.ctx
      { cause := 0x01, sub := 7, val := rx (cur s).regs f.x.toNat, tpc := (cur s).pc }))

/-- R126, R127, R143: WAITF and a ROPECK that finds no difference change nothing; SYNCI drops the core's fetched bundles
and its body cache. That a WAITF on a finished read stream leaves p15 too is the model's choice (DESIGN CHOICE, log 119).
-/
def Obligations.WaitsAndSynciChangeNothingElse : Prop :=
  (∀ (s : State) (f : FmtR), Issues s (.waitf f) → ∃ t, exec (.waitf f) s = .next t ∧ Quiet s t) ∧
  (∀ (s : State) (f : FmtU), Issues s (.ropeck f) → ∃ t, exec (.ropeck f) s = .next t ∧ Quiet s t) ∧
  (∀ (s : State) (f : FmtR), Issues s (.synci f) →
    ∃ t, exec (.synci f) s = .next t ∧ Advanced s t ∧ KeptRegs s t ∧ KeptMemory s t ∧ KeptUnits s t ∧ KeptCtx s t ∧
      (coreAt t s.core).fetched = [] ∧ (coreAt t s.core).bodies = [] ∧
      ∀ n, { coreAt t n with ctxs := [], fetched := (coreAt s n).fetched, bodies := (coreAt s n).bodies } =
        { coreAt s n with ctxs := [] })

/-- R275, R279 to R283, R289, R290, R292: with no stream bound to an operand, integer and bit lanes, moves and packing
write their row to the lanes that the governing predicate enables. -/
def Obligations.LaneInstructionsGiveTheirRows : Prop :=
  ∀ (s : State) (i : Instr) (gp : BitVec 2) (rd : BitVec 6) (g : Regs → Nat → Word),
    laneRow i = some (gp, rd, g) → Issues s i → Unbound s i →
    ∃ t, exec i s = .next t ∧ WroteV s t gp rd (g (cur s).regs) ∧ Flagged s t false 0 ∧ OnlyV s t

/-- R245, R249, R275, R279, R286, R287, R294: floating lanes, conversions and special functions, each lane with its own
random value, the flags of the enabled lanes ORed into FRM. -/
def Obligations.FloatLanesGiveTheirRows : Prop :=
  ∀ (s : State) (i : Instr) (gp : BitVec 2) (rd : BitVec 6) (g : Regs → Nat → Nat → Word × Flags),
    floatLaneRow i = some (gp, rd, g) → Issues s i → Unbound s i →
    let w (l : Nat) := g (cur s).regs l (random s l)
    ∃ t, exec i s = .next t ∧ WroteV s t gp rd (fun l => (w l).1) ∧
      Flagged s t true (flagsOf s gp fun l => (w l).2) ∧ OnlyV s t

/-- R251, R275, R281, R283, R284, R288, R295: predicate results by lane; x results of vector and predicate sources;
VRED.f32 adds by the fixed tree. -/
def Obligations.PredicatesAndReductionsGiveTheirRows : Prop :=
  (∀ (s : State) (i : Instr) (gp : BitVec 2) (pd : BitVec 6) (g : Regs → Nat → Bool × Flags),
    predRow i = some (gp, pd, g) → Issues s i → Unbound s i →
    ∃ t, exec i s = .next t ∧ WroteP s t gp pd (fun l => (g (cur s).regs l).1) ∧
      Flagged s t true (flagsOf s gp fun l => (g (cur s).regs l).2) ∧ OnlyP s t) ∧
  (∀ (s : State) (i : Instr) (gp : BitVec 2) (rd : BitVec 6) (g : Regs → (Nat → Nat) → Dword × Flags),
    vectorXRow i = some (gp, rd, g) → Issues s i → Unbound s i →
    let w := g (cur s).regs (random s)
    ∃ t, exec i s = .next t ∧ WroteX s t (onBit s gp) rd w.1 ∧ Flagged s t (onBit s gp) w.2 ∧ OnlyX s t)

/-- R255, R291 to R293: accumulators. ACLR makes the kind ZERO whatever the predicate; the others set their kind, write
the enabled lanes and keep the rest, a ZERO accumulator's as 0. -/
def Obligations.AccumulatorsGiveTheirRows : Prop :=
  ∀ (s : State) (i : Instr) (gp : BitVec 2) (rd : BitVec 6) (kind : AccKind) (g : Regs → Nat → Dword × Flags),
    accRow i = some (gp, rd, kind, g) → Issues s i → Unbound s i →
    ∃ t, exec i s = .next t ∧ Flagged s t true (flagsOf s gp fun l => (g (cur s).regs l).2) ∧ OnlyAcc s t ∧
      WroteAcc s t rd kind fun l =>
        if kind = .zero then 0
        else if (rp (cur s).regs gp.toNat).getLsbD l then (g (cur s).regs l).1 else accWas (cur s).regs rd.toNat l

/-- R83, R218, R252 to R254: a register bound to a TCM or scratchpad read stream reads a beat as lanes: the one its
engine has read ahead, or, of a TCM stream that has none, the beat's elements as the memory holds them; it pops that
beat, and p15 takes its lane mask. A done stream reads zero with no lane. That a TCM stream's next beat is always ready,
though its engine has read none ahead, is the model's choice (DESIGN CHOICE, log 119). -/
def Obligations.BoundReadsPopOneBeat : Prop :=
  ∀ (s : State) (i : Instr) (gp : BitVec 2) (rd : BitVec 6) (g : Regs → Nat → Word) (eng : Nat) (st : Stream),
    laneRow i = some (gp, rd, g) → Issues s i → (cur s).streams = [(eng, st)] → st.write = false →
    (st.space = 1 ∨ st.space = 2) → st.vd ∈ vReads i → st.vd ≠ rd.toNat →
    ∀ (beat : Vec) (mask : Pred),
    (streamDone st = true ∧ beat = 0 ∧ mask = 0 ∨
      streamDone st = false ∧ ffind st.ready st.count = some (beat, mask, none) ∨
      st.space = 1 ∧ streamDone st = false ∧ ffind st.ready st.count = none ∧ s.accesses = [] ∧ beatFault s s.core st st.count = none ∧
        beat = vecOf (beatOf s st (.tcm s.core)) ∧
        mask = predOf fun l => decide (256 * st.count + l < elemCount st.bound)) →
    let r := { (cur s).regs with v := fset (cur s).regs.v st.vd beat }
    ∃ t, exec i s = .next t ∧ Advanced s t ∧ WroteV s t gp rd (g r) ∧ Flagged s t false 0 ∧
      rp (now s t).regs 15 = mask ∧ KeptP s t true ∧ KeptX s t ∧ KeptAcc s t ∧ KeptCr s t ∧
      (now s t).streams = [(eng, { st with
        count := if streamDone st then st.count else st.count + 1
        mask := if streamDone st then 0 else predOf fun l => decide (256 * st.count + l < elemCount st.bound)
        ready := if streamDone st then st.ready else fdel st.ready st.count })] ∧
      RegsOnly s t ∧ KeptMemory s t

/-- R83, R218, R253, R254, R276: a write of a register bound to a TCM write stream pushes one beat: the enabled lanes
whose element exists are converted and stored at the elements' addresses, in element order, and the register keeps
its value. -/
def Obligations.BoundWritesPushOneBeat : Prop :=
  ∀ (s : State) (i : Instr) (gp : BitVec 2) (rd : BitVec 6) (g : Regs → Nat → Word) (eng : Nat) (st : Stream),
    laneRow i = some (gp, rd, g) → Issues s i → (cur s).streams = [(eng, st)] → st.write = true → st.space = 1 →
    st.vd = rd.toNat → beatFault s s.core st st.count = none →
    let out := (beatElems st st.count).filter fun e => (rp (cur s).regs gp.toNat).getLsbD e.1
    let x (l : Nat) := elemWrite st.elem ((cur s).regs.frm.toNat % 8) (random s l) (g (cur s).regs l)
    ∃ t, exec i s = .next t ∧ Advanced s t ∧
      (coreAt t s.core).tcm =
        out.foldl (fun m e => writeBytes m e.2 (elemSize st.elem) (x e.1).1) (coreAt s s.core).tcm ∧
      (now s t).streams = [(eng, { st with count := st.count + 1 })] ∧
      Flagged s t true (out.foldl (fun f e => f ||| (x e.1).2) 0) ∧
      KeptX s t ∧ KeptV s t ∧ KeptP s t false ∧ KeptAcc s t ∧ KeptCr s t ∧ KeptButLocal s t

/-- R199, R202, R150, R151: a tcm: load empties rd and sends it the bytes at its address, the lowest least
significant, extended as its mnemonic says, and nothing else changes; an spm: load on its way does so when its bank
grants it (R152). -/
def Obligations.LocalLoadsGiveTheBytes : Prop :=
  (∀ (s : State) (i : Instr) (f : FmtL) (size : Nat) (signed : Bool), loadRow i = some (f, size, signed) → Issues s i →
    f.sp = 2 →
    let a := loadAddr (cur s).regs f size
    ∃ t, exec i s = .next t ∧ AwaitsX s t f.rd (extended size signed (bytesAt s (.tcm s.core) a size)) ∧
      Flagged s t false 0 ∧ OnlyX s t) ∧
  (∀ (s : State) (a : Access) (size o rd : Nat) (signed nw : Bool), Sole s a →
    a.spm = true → a.host = false → a.kind = .load size signed nw rd → a.pieces = [part1 o size 0 false] → a.data = 0 →
    ∀ b, bankGrant s (a.core / 8) (bankOf o) = some (.core a.core a.id 0, b) →
    doWork s (.bank (a.core / 8) (bankOf o)) = .next (sendX (dropAccess (granted1 s (a.core / 8) (bankOf o) b) a.id) a.core a.ctx rd
      (extended size signed (bytesAt s (.spm (a.core / 8)) o size))))

/-- R199, R202, R150 to R152, R267: a tcm: store writes the low bytes of rs2 at its address, the least significant at
the lowest, and no other byte; an spm: store on its way does so when its bank grants it, behind the commands of its
context that have still to read its bytes, and not while a fill has locked them. A bank grants once in a cycle: the engine side unless it won the last
grant while a core waits, else the waiting core that its pointer comes to first, which it passes. That the engine side
wins again where no core waits is the model's choice (DEDUCED, log 126). -/
def Obligations.LocalStoresWriteTheBytes : Prop :=
  (∀ (s : State) (i : Instr) (f : FmtS) (size : Nat), storeRow i = some (f, size) → Issues s i → MemoryOk s → f.sp = 1 →
    let a := storeAddr (cur s).regs f size
    ∃ t, exec i s = .next t ∧ Advanced s t ∧
      (∀ k, k < size → byteOf t (.tcm s.core) (a + k) = (rx (cur s).regs f.rs2.toNat).extractLsb' (8 * k) 8) ∧
      KeptBut s t (.tcm s.core) a size ∧ KeptRegs s t ∧ KeptButLocal s t) ∧
  (∀ (s : State) (a : Access) (size o : Nat), Sole s a → MemoryOk s →
    a.spm = true → a.host = false → a.kind = .store → a.pieces = [part1 o size 0 true] →
    (∀ b, bankGrant s (a.core / 8) (bankOf o) = some (.core a.core a.id 0, b) →
      ∃ t, doWork s (.bank (a.core / 8) (bankOf o)) = .next t ∧
        (∀ k, k < size → byteOf t (.spm (a.core / 8)) (o + k) = BitVec.ofNat 8 (a.data / 2 ^ (8 * k))) ∧
        KeptBut s t (.spm (a.core / 8)) o size ∧ t.accesses = (dropAccess s a.id).accesses ∧ t.cores = s.cores) ∧
    (commandHolds s a (part1 o size 0 true) = true → ∀ i, atBank s (a, i) = false)) ∧
  (∀ (s : State) (clu bank : Nat),
    let k := fget {} (cluAt s clu).banks bank
    let core := coresAt s clu bank
    let engine := (engineWords s clu).filter fun x => x.1 == bank
    (k.last = some s.cycle → bankGrant s clu bank = none) ∧
    (k.last ≠ some s.cycle → (∀ x l, engine = x :: l → (k.eng = false ∨ core = []) →
      bankGrant s clu bank = some (x.2, { k with eng := true, last := some s.cycle })) ∧
      ((engine = [] ∨ k.eng = true) → core ≠ [] →
        ∃ j g, (j, g) ∈ core ∧
          bankGrant s clu bank = some (g, { ptr := (j + 1) % 8, eng := false, last := some s.cycle }) ∧
          ∀ e ∈ core, (j + 8 - k.ptr) % 8 ≤ (e.1 + 8 - k.ptr) % 8)))

/-- R152, R206, R207: vector accesses of a tcm: move 1,024 bytes; those of the scratchpad on their way move each part
when its bank grants it, never before an earlier part that it overlaps, so that the highest of several lanes of a STVX
at one address stands last; the last part of a load sends its register the whole. -/
def Obligations.LocalVectorAccessesMoveTheirBytes : Prop :=
  (∀ (s : State) (f : FmtL), Issues s (.ldv f) → f.sp = 2 →
    let a := loadAddr (cur s).regs f 64
    ∃ t, exec (.ldv f) s = .next t ∧ Advanced s t ∧
      AwaitsV s t f.rd (vecOf fun l => BitVec.ofNat 32 (bytesAt s (.tcm s.core) (a + 4 * l) 4)) ∧
      KeptX s t ∧ KeptP s t false ∧ Flagged s t false 0 ∧ KeptAcc s t ∧ KeptCr s t ∧ RegsOnly s t ∧ KeptMemory s t) ∧
  (∀ (s : State) (f : FmtS), Issues s (.stv f) → Unbound s (.stv f) → MemoryOk s → f.sp = 1 →
    let a := storeAddr (cur s).regs f 64
    ∃ t, exec (.stv f) s = .next t ∧ Advanced s t ∧
      (∀ k, k < 1024 → byteOf t (.tcm s.core) (a + k) = (rv (cur s).regs f.rs2.toNat).extractLsb' (8 * k) 8) ∧
      KeptBut s t (.tcm s.core) a 1024 ∧ KeptRegs s t ∧ KeptButLocal s t) ∧
  (∀ (s : State) (a : Access) (i : Nat) (p : Piece), Sole s a → a.spm = true →
    a.host = false → a.pieces[i]? = some p → (a.kind = .stv ∨ a.kind = .stvx ∨ ∃ rd, a.kind = .ldvx rd ∨ ∃ nw, a.kind = .ldv nw rd) →
    p.write = storesKind a.kind → MemoryOk s →
    ∀ b, bankGrant s (a.core / 8) (bankOf p.va) = some (.core a.core a.id i, b) →
    let clu := a.core / 8
    let pl := Place.spm clu
    let gives (t : State) : Prop := doWork s (.bank clu (bankOf p.va)) = .next t
    let data := if p.write then a.data
      else a.data % 2 ^ (8 * p.pos) + bytesAt s pl p.va p.size * 2 ^ (8 * p.pos) +
        a.data / 2 ^ (8 * (p.pos + p.size)) * 2 ^ (8 * (p.pos + p.size))
    ((a.pieces.take i).any (overlaps p) = false) ∧
    (p.write = true → ∃ t, gives t ∧
      (∀ k, k < p.size → byteOf t pl (p.va + k) = BitVec.ofNat 8 (a.data / 2 ^ (8 * (p.pos + k)))) ∧
      KeptBut s t pl p.va p.size ∧ t.cores = s.cores) ∧
    (p.write = false → ∃ t, gives t ∧ KeptMemory s t) ∧
    (1 < a.pieces.length → ∃ t c, gives t ∧ t.cores = s.cores ∧ t.accesses = insertAcc c (dropAccess s a.id).accesses ∧
      c.id = a.id ∧ c.kind = a.kind ∧ c.pieces = a.pieces.eraseIdx i ∧ c.data = data) ∧
    (a.pieces.length = 1 → ∀ rd, (a.kind = .ldvx rd ∨ ∃ nw, a.kind = .ldv nw rd) →
      gives (sendV (dropAccess (granted1 s clu (bankOf p.va) b) a.id) a.core a.ctx rd (BitVec.ofNat 8192 data))))

/-- R157, R202, R378: a load of a far core that finds its line in the core's L1 sends rd the line's bytes, and changes
nothing else but the core's note of its latest demands, the lines from which its stride prefetcher goes on: that it keeps
the latest three is the model's choice (DEDUCED, log 26). -/
def Obligations.LoadsHitTheirLine : Prop :=
  ∀ (s : State) (i : Instr) (f : FmtL) (size : Nat) (signed : Bool) (l : L1Line),
    loadRow i = some (f, size, signed) → Issues s i → Unwatched s i → loadSpace f.sp = 0 → Config.isHome s.core = false →
    accessesOf s s.core s.ctx = [] →
    let a := loadAddr (cur s).regs f size
    let k := lineKey (partOf s s.core) a
    l1Line s s.core k = some l → l.pref = none →
    ∃ t, exec i s = .next t ∧ t.accessId = s.accessId + 1 ∧
      AwaitsX s t f.rd (extended size signed (bytesAt s (.l1 s.core k) (a % 64) size)) ∧
      Flagged s t false 0 ∧ OnlyX s (reseen s { t with accessId := s.accessId }) ∧
      (coreAt t s.core).seen = (if (coreAt s s.core).seen.head? = some (a / 64) then (coreAt s s.core).seen
        else (a / 64 :: (coreAt s s.core).seen).take 3)

/-- R159, R160, R202: a store of a far core into an RC or PV line that its L1 may write changes the bytes it stores,
marks them dirty, and changes no other byte of any memory. -/
def Obligations.StoresHitTheirLine : Prop :=
  ∀ (s : State) (i : Instr) (f : FmtS) (size : Nat) (l : L1Line),
    storeRow i = some (f, size) → Issues s i → Unwatched s i → f.sp = 0 → Config.isHome s.core = false →
    accessesOf s s.core s.ctx = [] →
    let a := storeAddr (cur s).regs f size
    let k := lineKey (partOf s s.core) a
    l1Line s s.core k = some l → l.wr = true → (l.ct = 1 ∨ l.ct = 3) →
    ∃ t, exec i s = .next t ∧ Advanced s t ∧
      (∀ j, j < size → byteOf t (.l1 s.core k) (a % 64 + j) = (rx (cur s).regs f.rs2.toNat).extractLsb' (8 * j) 8) ∧
      KeptBut s t (.l1 s.core k) (a % 64) size ∧
      (∃ l', l1Line t s.core k = some l' ∧ ∀ j, j < 64 →
        l'.dirty.getLsbD j = (l.dirty.getLsbD j || decide (a % 64 ≤ j ∧ j < a % 64 + size))) ∧
      KeptRegs s t ∧ KeptOthers s t ∧ KeptCtx s t ∧
      { t with cores := s.cores, latch := s.latch, tail := s.tail, accessId := s.accessId } = s ∧
      (∀ n, { coreAt t n with ctxs := [], l1 := [], sig := 0, seen := [], counters := [] } =
        { coreAt s n with ctxs := [], l1 := [], sig := 0, seen := [], counters := [] }) ∧
      (l.pref = none → ∀ n, (coreAt t n).counters = (coreAt s n).counters) ∧
      (∀ n, n ≠ s.core → (coreAt t n).seen = (coreAt s n).seen)

/-- R151, R166, R183, R199, R202, R204, R205: a load or store of virtual memory or the scratchpad, an LDAQ or STRL
sends one access from its core; STRL at scope clus or wider writes back first, and takes the core's signature, which
is then clear. A load's destination is empty from its issue on. -/
def Obligations.ScalarAccessesAreSent : Prop :=
  (∀ (s : State) (i : Instr) (f : FmtL) (size : Nat) (signed : Bool), loadRow i = some (f, size, signed) → Issues s i →
    f.sp ≠ 2 →
    Gives s i fun r => submit (modCur r fun c => emptyX c f.rd.toNat)
      { sent s (.load size signed (f.sp == 1) f.rd.toNat) [part1 (loadAddr (cur s).regs f size) size 0 false] 0 false with
        spm := f.sp == 3 }) ∧
  (∀ (s : State) (i : Instr) (f : FmtS) (size : Nat), storeRow i = some (f, size) → Issues s i → f.sp = 0 ∨ f.sp = 2 →
    Gives s i fun r => submit r
      { sent s .store [part1 (storeAddr (cur s).regs f size) size 0 true] (rx (cur s).regs f.rs2.toNat).toNat (f.sp == 0) with
        spm := f.sp == 2 }) ∧
  (∀ (s : State) (f : FmtLA), Issues s (.ldaq f) →
    Gives s (.ldaq f) fun r => submit (modCur r fun c => emptyX c f.rd.toNat)
      (sent s (.ldaq f.scope.toNat f.rd.toNat) [part1 (addressOf (cur s).regs f.rs1 f.lit f.off 8).toNat 8 0 false] 0 false)) ∧
  (∀ (s : State) (f : FmtSR), Issues s (.strl f) →
    Gives s (.strl f) fun r => sentRel r f.scope
      (sent s (.strl f.scope.toNat) [part1 (addressOf (cur s).regs f.rs1 f.lit f.off 8).toNat 8 0 true]
        (rx (cur s).regs f.rs2.toNat).toNat true))

/-- R151, R206, R207, R216, R217: vector accesses of virtual memory or the scratchpad, WSCLR and PUBL send one access
with its parts: 16 lines of 64 bytes, 128 dwords, a word for each active lane, the parts of the range that lie in one
granule each. -/
def Obligations.VectorAccessesAreSent : Prop :=
  (∀ (s : State) (f : FmtL), Issues s (.ldv f) → loadSpace f.sp = 0 →
    Gives s (.ldv f) fun r => submit (modCur r fun c => emptyV c f.rd.toNat)
      (sent s (.ldv (f.sp == 1) f.rd.toNat)
        ((List.range 16).map fun j => part1 (loadAddr (cur s).regs f 64 + 64 * j) 64 (64 * j) false) 0 false)) ∧
  (∀ (s : State) (f : FmtL), Issues s (.ldv f) → f.sp = 3 →
    Gives s (.ldv f) fun r => submit (modCur r fun c => emptyV c f.rd.toNat)
      { sent s (.ldv false f.rd.toNat)
        ((List.range 128).map fun j => part1 (loadAddr (cur s).regs f 64 + 8 * j) 8 (8 * j) false) 0 false with spm := true }) ∧
  (∀ (s : State) (f : FmtS), Issues s (.stv f) → f.sp = 0 ∨ f.sp = 2 →
    Gives s (.stv f) fun r => submit r
      { sent s .stv ((List.range 128).map fun j => part1 (storeAddr (cur s).regs f 64 + 8 * j) 8 (8 * j) true)
        (rv (snapshot s) f.rs2.toNat).toNat (f.sp == 0) with spm := f.sp == 2 }) ∧
  (∀ (s : State) (f : FmtR), Issues s (.ldvx f) →
    Gives s (.ldvx f) fun r => submit (modCur r fun c => emptyV c f.rd.toNat)
      { sent s (.ldvx f.rd.toNat) ((activeLanes (snapshot s) f).map fun e => part1 e.2 4 (4 * e.1) false) 0 false with
        spm := decide (4 ≤ f.func.toNat) }) ∧
  (∀ (s : State) (f : FmtR), Issues s (.stvx f) →
    Gives s (.stvx f) fun r => submit r
      { sent s .stvx ((activeLanes (snapshot s) f).map fun e => part1 e.2 4 (4 * e.1) true)
        (rv (snapshot s) f.rd.toNat).toNat (decide (f.func.toNat < 4)) with spm := decide (4 ≤ f.func.toNat) }) ∧
  (∀ (s : State) (f : FmtR), Issues s (.wsclr f) →
    let a := (rx (cur s).regs f.rs1.toNat).toNat
    let n := (rx (cur s).regs f.rs2.toNat).toNat
    ∃ ps, Gives s (.wsclr f) (fun r => submit r (sent s .wsclr ps 0 true)) ∧
      (∀ p ∈ ps, p.va / 4096 = (p.va + p.size - 1) / 4096 ∧ 0 < p.size ∧ p.write = true ∧ p.va = a + p.pos) ∧
      (∀ b, (a ≤ b ∧ b < a + n) ↔ ∃ p ∈ ps, p.va ≤ b ∧ b < p.va + p.size)) ∧
  (∀ (s : State) (f : FmtR), Issues s (.publ f) →
    Gives s (.publ f) fun r => submit r
      (sent s .publ [part1 (rx (cur s).regs f.rs1.toNat).toNat 8 0 true] (rx (cur s).regs f.rs2.toNat).toNat true))

/-- R209, R210: an atomic makes its release at scope clus or wider, empties rd and sends one access with its operands;
the new value is that of R209's table. -/
def Obligations.AtomicsAreSentAndCompute : Prop :=
  (∀ (s : State) (i : Instr) (f : FmtAM) (op : Nat), atomicRow i = some (f, op) → Issues s i →
    let x := (cur s).regs
    Gives s i fun r =>
      sentRel (modCur r fun c => emptyX c f.rd.toNat) f.scope
        (sent s (.amo op f.scope.toNat f.rd.toNat (rx x f.rs2.toNat) (rx x f.rd.toNat))
          [part1 (rx x f.rs1.toNat + f.lit.signExtend 64).toNat 8 0 false] 0 false)) ∧
  (∀ (old b c : Dword),
    let new (op : Nat) := atomicNew op fsumD old b c
    new 0 = old + b ∧ new 1 = old &&& b ∧ new 2 = old ||| b ∧ new 3 = old ^^^ b ∧
    (new 4).toInt = min old.toInt b.toInt ∧ (new 5).toInt = max old.toInt b.toInt ∧
    (new 6).toNat = min old.toNat b.toNat ∧ (new 7).toNat = max old.toNat b.toNat ∧
    new 8 = b ∧ new 9 = (if old = c then b else old) ∧ new 11 = old + b ∧
    new 10 = BitVec.ofNat 64
      (fadd f64 { mode := 0, fz := false, r := 0 } (decodeF f64 old.toNat) (decodeF f64 b.toNat)).1)

/-- R90, R97, R151, R200, R201: before a scalar access has any effect, an address outside the virtual space traps BADVA,
one below XB TCM_XB, one past the memory TCM_RANGE, and a misaligned one ALIGN, with TVAL the address and TPC the
bundle's pc. -/
def Obligations.BadAddressesTrap : Prop :=
  ∀ (s : State) (i : Instr) (space a size : Nat), scalarAccess (cur s).regs i = some (space, a, size) →
    Reaches s i → space < 3 →
    let traps (c : Nat) : Prop :=
      exec i s = .next (takeTrapAt s s.core s.ctx { cause := c, val := BitVec.ofNat 64 a, tpc := (cur s).pc })
    (space = 0 → 2 ^ 57 < a + size → traps 0x19) ∧
    (space = 1 → a < boundary s s.core → traps 0x04) ∧
    (space = 1 → boundary s s.core ≤ a → Config.tcmSize s.core < a + size → traps 0x06) ∧
    (space = 2 → 0x600000 < a + size → traps 0x06) ∧
    (space = 2 → a + size ≤ 0x600000 → 512 ≤ s.core → traps 0x07) ∧
    (a % size ≠ 0 → (space = 0 ∧ a + size ≤ 2 ^ 57 ∨ space = 1 ∧ boundary s s.core ≤ a ∧ a + size ≤ Config.tcmSize s.core ∨
      space = 2 ∧ a + size ≤ 0x600000 ∧ s.core < 512) → traps 0x03)

/-- R88 to R90: of every instruction, the first of its sources that is empty and has w = 0 traps EMPTY, with TVAL its
RegCode, before anything else, in a pair the C-class half's before the other's; where there is none, an empty source holds
the bundle, which changes nothing. A register that no stream is bound to is empty as its file says. -/
def Obligations.EmptySourcesTrapOrHold : Prop :=
  ∀ (s : State), s.latch = none → s.tail = none → busy s = false →
    let first (i : Instr) := (srcs i).find? fun x => !x.w && srcEmpty s x
    let traps (x : Src) (word : Nat) : Host.Outcome State Fault Refusal := .next (takeTrapAt s s.core s.ctx
      { cause := 0x02, val := BitVec.ofNat 64 (x.reg + 2 ^ 8 * x.file + 2 ^ 16 * word), tpc := (cur s).pc })
    (∀ i, hasWord i = true →
      (∀ x, first i = some x → exec i s = traps x 0) ∧
      (first i = none → (∃ x ∈ srcs i, srcEmpty s x = true) → exec i s = .next s)) ∧
    (∀ c a, let pair := runBundle s [(c, 0), (a, 1)]
      (∀ x, first c = some x → pair = traps x 0) ∧
      (∀ x, first c = none → first a = some x → pair = traps x 1) ∧
      (first c = none → first a = none → (∃ x ∈ srcs c ++ srcs a, srcEmpty s x = true) → pair = .next s)) ∧
    (∀ x : Src, (∀ e ∈ (cur s).streams, e.2.vd ≠ x.reg) →
      srcEmpty s x = if x.file = 0 then !xFull (cur s).regs x.reg else !vFull (cur s).regs x.reg)

/-- R208: INVR and WBR act on the lines of the core's L1 that meet the range, PREF on each line of at most 2 MiB;
R212: a FENCE writes back and drops RC lines as its mask says, at scope clus or wider. -/
def Obligations.CacheInstructionsActOnTheirLines : Prop :=
  (∀ (s : State) (f : FmtR),
    let b := (rx (cur s).regs f.rs1.toNat).toNat
    let n := (rx (cur s).regs f.rs2.toNat).toNat
    let p := partOf s s.core
    (Issues s (.invr f) → Gives s (.invr f) fun r => dropWhere r r.core fun k _ => n != 0 && keyIn p b (b + n) k) ∧
    (Issues s (.wbr f) → Gives s (.wbr f) fun r =>
      cleanWhere r r.core fun k l => (l.ct == 1 || l.ct == 3) && (n != 0 && keyIn p b (b + n) k)) ∧
    (Issues s (.pref f) → ∃ ls : List Nat, Gives s (.pref f) (fun r => ls.foldl prefLine r) ∧
      ∀ v, v ∈ ls ↔ n ≠ 0 ∧ v % 64 = 0 ∧ b < v + 64 ∧ v < b + min n 2097152)) ∧
  (∀ (s : State) (f : FmtF), Issues s (.fence f) →
    Gives s (.fence f) fun r =>
      if f.scope.toNat < 2 then r
      else
        let r := if f.mask.getLsbD 2 || f.mask.getLsbD 3 then releaseAll r r.core else r
        if f.mask.getLsbD 0 || f.mask.getLsbD 2 then acquireAll r r.core else r)

/-- R166, R168, R183, R185: after a release every RC line of the core is clean and its marked bytes stand at the home,
the others there as before; after an acquire over all no RC line is left. -/
def Obligations.ReleasesWriteBackAndAcquiresDrop : Prop :=
  ∀ (s : State) (n : Nat), frising 0 (coreAt s n).l1 = true →
    (∀ k l, l1Line (releaseAll s n) n k = some l → l.ct = 1 → l.dirty = 0) ∧
    (∀ k l h, l1Line s n k = some l → l.ct = 1 → homeLine s k = some h → isPeer h.pa = false → ∀ b, b < 64 →
      byteOf (releaseAll s n) (.home (keyHome s k) k) b =
        if l.dirty.getLsbD b then byteAt l.data.toNat b else byteAt h.data.toNat b) ∧
    (∀ k l, l1Line (acquireAll s n) n k = some l → l.ct ≠ 1)

/-- R184, R189, R213, R214: SIGCLR clears the signature kept for its line, or the slice's overflow signature when none
is; REGSET drops the lines of the old and the new range and writes the entry, REGCLR drops the old one's and clears V.
That REGSET drops those of the new range too is the model's choice (DEDUCED, log 45). -/
def Obligations.SignaturesAndRegionsAreSet : Prop :=
  (∀ (s : State) (f : FmtR), Issues s (.sigclr f) →
    let p := partOf s s.core
    let k := lineKey p (rx (cur s).regs f.rs1.toNat).toNat
    let h := homeIn s p (rx (cur s).regs f.rs1.toNat).toNat
    Gives s (.sigclr f) fun r =>
      if (sliceAt s h).sigs.any fun e => e.line == k then
        modSlice r h fun x => { x with sigs := x.sigs.filter fun e => !(e.line == k) }
      else modSP r h p fun x => { x with overflow := 0 }) ∧
  (∀ (s : State) (f : FmtR), Issues s (.regset f) →
    let d := (rx (cur s).regs f.rs2.toNat).toNat
    let new : Region :=
      { v := true, state := BitVec.ofNat 2 (d / 2 ^ 8), core := BitVec.ofNat 3 (d / 2 ^ 12),
        lenm1 := BitVec.ofNat 45 (d / 2 ^ 16), base := BitVec.ofNat 45 ((rx (cur s).regs f.rs1.toNat).toNat / 2 ^ 12) }
    let clu := clusterFor s s.core
    let old := fget {} (cluAt s clu).regions (d % 64)
    let p := partOf s s.core
    regionWaits s clu = false →
    Gives s (.regset f) fun r =>
      modClu (dropRegion (dropRegion r clu p old) clu p new) clu fun c => { c with regions := fset c.regions (d % 64) new }) ∧
  (∀ (s : State) (f : FmtR), Issues s (.regclr f) →
    let e := (rx (cur s).regs f.rs1.toNat).toNat % 64
    let clu := clusterFor s s.core
    let old := fget {} (cluAt s clu).regions e
    regionWaits s clu = false →
    Gives s (.regclr f) fun r =>
      modClu (dropRegion r clu (partOf s s.core) old) clu fun c =>
        { c with regions := fset c.regions e { old with v := false } })

/-- R170 to R173, R215, R327, R333: RETYPE releases, and where its walk finds a leaf that nothing forbids, sets the page
in transition, retypes it and acquires it, after a wait while accesses that its homes have translated are performed and
while its leaf's lines cannot be written; where the leaf forbids it or the walk finds none, as for an address of the
window, it is refused RETYPE_FAIL. XINV drops the translations of its range, with WB the lines too, between its release
and its acquire. The model's choices: every failing walk, and a page in transition already, give RETYPE_FAIL (DEDUCED,
log 44); the page stands in transition for one RETYPE at a time (DEDUCED, log 43). -/
def Obligations.RetypeAndXinvActOnTheirRange : Prop :=
  (∀ (s : State) (f : FmtR), Issues s (.retype f) →
    let va := (rx (cur s).regs f.rs1.toNat).toNat
    let p := partOf s s.core
    let refused (u : State) : State := modCur u fun c =>
      { c with refusals := c.refusals ++
          [{ cause := 0x0C, sub := 0, tval := BitVec.ofNat 64 va, rpc := c.pc, defers := true }] }
    (∀ u l, ownTransit (reading s (.retype f)) = none → findLeaf (releaseAll (reading s (.retype f)) s.core) p va = .leaf u l →
      let base := va / leafSize l * leafSize l
      let x : Transit := { base := base, size := leafSize l, leaf := l, core := s.core, ctx := s.ctx }
      let v := modPart u p fun y => { y with transit := y.transit ++ [x] }
      let writable := (leafVas l).foldl (leavesReady p) (some v)
      (retypeFails u u.core p base l = true → Gives s (.retype f) fun _ => refused u) ∧
      (retypeFails u u.core p base l = false → translated v p base (base + leafSize l) = false → ∀ w, writable = some w →
        Gives s (.retype f) fun _ =>
          acquireRange (retypePage (modPart w p fun y => { y with transit := y.transit.filter fun z => z != x }) p base l) w.core
            base (base + leafSize l)) ∧
      (retypeFails u u.core p base l = false → (translated v p base (base + leafSize l) = true ∨ writable = none) →
        Gives s (.retype f) fun _ => waitAgain v (.retype f) .full .defer)) ∧
    -- a window address has no leaf
    (inWindow (partAt s p) va = true → findLeaf (releaseAll (reading s (.retype f)) s.core) p va =
      .none (releaseAll (reading s (.retype f)) s.core)) ∧
    (∀ u, ownTransit (reading s (.retype f)) = none → findLeaf (releaseAll (reading s (.retype f)) s.core) p va = .none u →
      Gives s (.retype f) fun _ => refused u)) ∧
  (∀ (s : State) (f : FmtR), Issues s (.xinv f) →
    let d := (rx (cur s).regs f.rs2.toNat).toNat
    let p := partOf s s.core
    let lo := if d / 128 % 2 = 1 then 0 else (rx (cur s).regs f.rs1.toNat).toNat
    let hi := if d / 128 % 2 = 1 then 2 ^ 57 else (rx (cur s).regs f.rs1.toNat).toNat + pageSize (d % 8)
    let wb := (rx (cur s).regs f.rs2.toNat).getLsbD 6
    xinvWaits (reading s (.xinv f)) p lo hi wb = false →
    Gives s (.xinv f) fun r =>
      let r := dropTranslations (releaseAll r r.core) p lo hi
      let r := if wb then clearFrames (flushRange (dropReplicas r p lo hi) p lo hi) p lo hi else dropPermission r p lo hi
      acquireRange r r.core lo hi)

/-- R218, R219: SBIND binds the stream that its eight registers describe to an engine, and a virtual read stream reads
ahead; SUNBIND ends the binding, discards what was read ahead and leaves the register zero and full. -/
def Obligations.BindingsBeginAndEnd : Prop :=
  (∀ (s : State) (f : FmtSB), Issues s (.sbind f) →
    let x (k : Nat) := rx (cur s).regs (f.rs1.toNat + k)
    let st : Stream :=
      { vd := f.vd.toNat, space := (x 1).toNat % 4, write := (x 1).getLsbD 2, elem := (x 1).toNat / 16 % 16, base := x 0,
        stride := [x 2, x 3, x 4], bound := [(x 5).toNat, (x 6).toNat, (x 7).toNat] }
    Gives s (.sbind f) fun r =>
      readAhead (modCur r fun c =>
        { c with streams := fset c.streams f.eng.toNat st }) f.eng.toNat) ∧
  (∀ (s : State) (f : FmtSB), Issues s (.sbind f) → (cur s).streams = [] →
    (rx (cur s).regs (f.rs1.toNat + 1)).toNat % 4 ≠ 0 →
    ∃ t, exec (.sbind f) s = .next t ∧ Quiet s t ∧ (now s t).streams.map (·.1) = [f.eng.toNat]) ∧
  (∀ (s : State) (f : FmtSB) (eng : Nat) (st : Stream), Issues s (.sunbind f) →
    ((cur s).streams.find? fun e => e.2.vd == f.vd.toNat) = some (eng, st) →
    Gives s (.sunbind f) fun r =>
      modCur { r with accesses := r.accesses.filter fun a =>
          !(a.core == r.core && a.ctx == r.ctx && !a.host && match a.kind with | .streamRead e _ => e == eng | _ => false) } fun c =>
        writeV { c with streams := fdel c.streams eng } f.vd.toNat 0)

/-- R190, R220, R222 to R224, R399: with a queue place, free registrations and leave where it moves more than 1 MiB, a
copy enters its engine with the rows that its registers name; it then stands last in the queue, and the issuing
context holds a note of it; only CPYW makes the context wait. -/
def Obligations.CopiesEnterTheirEngine : Prop :=
  (∀ (s : State) (i : Instr) (f : FmtC) (kind : Nat), copyRow i = some (f, kind) → Issues s i →
    let x := (cur s).regs
    let len := (rx x f.rlen.toNat).toNat
    let y := if kind = 1 then (rx x (f.rlen.toNat + 1)).toNat else 0
    let c : Copy :=
      { id := s.copyId + 1, core := s.core, ctx := s.ctx, part := partOf s s.core, pc := (cur s).pc, kind := kind,
        sp := f.sp.toNat, h := if f.lit = 0 then f.h.toNat else f.lit.toNat % 4096, dst := (rx x f.rdst.toNat).toNat,
        src := (rx x f.rsrc.toNat).toNat, len := len % 2 ^ 32, rows := if kind = 1 then len / 2 ^ 32 % 2 ^ 16 else 1,
        dstride := (BitVec.ofNat 32 (y / 2 ^ 32)).signExtend 64, sstride := (BitVec.ofNat 32 y).signExtend 64,
        mask := if kind = 2 then len / 2 ^ 48 % 2 ^ 16 else 0 }
    (cluAt s (clusterFor s s.core)).copies.length < 64 →
    (∀ h ∈ copyHomes s c, (sliceAt s h).ranges.length < 64) → xinvHolds s c = false →
    (c.len * c.rows ≤ 2 ^ 20 ∨ leaveHeld s c = true) →
    Gives s i fun r => startCopy r i c) ∧
  (∀ (s : State) (i : Instr) (c : Copy), c.core = s.core → c.ctx = s.ctx → c.sp ≠ 0 →
    let t := startCopy s i c
    (cluAt t (clusterFor s s.core)).copies = (cluAt s (clusterFor s s.core)).copies ++ [c] ∧ t.copyId = c.id ∧
    (cur t).copies = (cur s).copies ++ [{ id := c.id, lo := 0, hi := 0 }] ∧
    (c.kind ≠ 3 → (cur t).wait = (cur s).wait) ∧ (c.kind = 3 → (cur t).wait.isSome = true) ∧
    (cur t).regs = (cur s).regs ∧ (∀ n k, n < 768 → bget (coreAt t n).tcm k = bget (coreAt s n).tcm k))

/-- R222 to R224: CPYQ completes in every state that lets it issue: it empties its destination, takes the context's
notes, and sends their number when every copy among them is complete, else waits behind the bundle. COPY_COMPLETE of a
copy all of whose pieces are written queues the handler of each core that receives one and has room for it; with none
left it completes: the copy leaves its engine, its notes are complete, and CPYW's context goes on. Before that the engine
goes on with the copy, when no access of it waits and no cut has recorded the engine. -/
def Obligations.CopiesCompleteAndAreCounted : Prop :=
  (∀ (s : State) (f : FmtC), Issues s (.cpyq f) →
    Gives s (.cpyq f) (fun r => settleCpyq (modCur r fun c =>
      { emptyX c f.rdst.toNat with cpyq := c.cpyq ++ [{ rd := f.rdst.toNat, notes := c.copies }], copies := [] }) r.core r.ctx) ∧
    ((cur s).copies = [] → (cur s).cpyq = [] →
      ∃ t, exec (.cpyq f) s = .next t ∧ AwaitsX s t f.rdst 0 ∧ Flagged s t false 0 ∧ OnlyX s t) ∧
    ∃ t, exec (.cpyq f) s = .next t ∧ Advanced s t ∧ (now s t).copies = [] ∧ (now s t).wait = (cur s).wait ∧
      (∀ n, n < 64 → rx (now s t).regs n = rx (cur s).regs n ∧
        xFull (now s t).regs n = (if n = f.rdst.toNat ∧ n ≠ 0 then false else xFull (cur s).regs n)) ∧
      ((∀ x ∈ (cur s).copies, x.done = true) → f.rdst ≠ 0 →
        .x f.rdst.toNat (BitVec.ofNat 64 (cur s).copies.length) ∈ (now s t).pend) ∧
      ((∃ x ∈ (cur s).copies, x.done = false) →
        ({ rd := f.rdst.toNat, notes := (cur s).copies } : CpyWait) ∈ (now s t).cpyq)) ∧
  (∀ (s : State) (cluster n : Nat), cluster < 64 →
    ((cluAt s cluster).copies[n]? = none → exec (.copyComplete cluster n) s = .next s) ∧
    (∀ c, (cluAt s cluster).copies[n]? = some c → s.accesses = [] → (partAt s c.part).cut = none →
      exec (.copyComplete cluster n) s = .next (copyGo s cluster c)) ∧
    -- a copy all of whose pieces are written leaves the queue, and its notes are complete
    (∀ c, (cluAt s cluster).copies[n]? = some c → copyHeld s cluster c = false → c.fault = none →
      (copyPieces c).length ≤ c.done →
      let queues := copyReceivers s c
      let owed (q : Nat) : Prop := q ∈ queues ∧ copyStarted s cluster c q = false
      let full (q : Nat) : Prop := 4096 ≤ inboundUsed (coreAt s q)
      (c.h ≠ 0 → c.kind ≠ 2 → queues = [c.core]) ∧
      ∃ t, exec (.copyComplete cluster n) s = .next t ∧
        (∀ q, owed q → ¬ full q → (partAt s c.part).cut = none →
          (coreAt t q).inbound = (coreAt s q).inbound ++
            [{ body := .handler c.h (BitVec.ofNat 64 c.dst) (BitVec.ofNat 64 (copyWritten c)) 0 0
                 (BitVec.ofNat 64 (c.len * c.rows)), mid := midCore q (coreAt s q).seq }]) ∧
        ((∃ q, owed q ∧ full q) → (cluAt t cluster).copies = (cluAt s cluster).copies) ∧
        ((∀ q, owed q → ¬ full q) →
          (cluAt t cluster).copies = (cluAt s cluster).copies.filter (fun y => y.id != c.id) ∧
          (ctxAt t c.core c.ctx).copies =
            ((ctxAt s c.core c.ctx).copies.map fun x => if x.id == c.id then { x with done := true } else x) ∧
          (∀ x ∈ t.slices, ∀ r ∈ x.2.ranges, r.1 ≠ c.id) ∧
          (c.kind = 3 → (ctxAt t c.core c.ctx).wait = none) ∧
          (c.kind ≠ 3 → (ctxAt t c.core c.ctx).wait = (ctxAt s c.core c.ctx).wait))))

/-- R17, R129 to R131: with its body's entry in the core's body cache, SPAWN, SPAWNH, SEND or SENDG adds one record to
the context's send buffer, and changes nothing else. -/
def Obligations.SpawnsFillTheSendBuffer : Prop :=
  ∀ (s : State) (i : Instr) (body : Nat) (base len : Dword) (d : Dest) (e : Dword),
    recordRow s i = some (body, base, len, d) → Issues s i → bodyAt (coreAt s s.core) body = some e →
    Gives s i fun r => modCur r fun c =>
      { c with sends := c.sends ++ [{ record := taskOf (cur s).regs body base len e.toNat, dest := d }] }

/-- R28, R31, R34, R35, R37, R46, R132, R372: TAKE, STEAL and STEAL.any reserve a context and send a request; at a
queue the request starts the task that it gives in that context, or takes its reason on, or gives it to rd; a TAKE of
a core stopped for debug is not served (R372), nor one that would start a context while a pre-emption request is
pending; a controller serves a TAKE before a STEAL or QDEPTH, and those before an enqueue that has not waited four
cycles; what a queue gives meets no earlier task that is queued, on chip or spilled, or running: R32's blocks cover what
is spilled in every queue that enqueues, choices and retirements make. The model's choices: the queues that a TAKE
consults are fixed when it issues, and STEAL.any moves its die's pointer before it is served (DESIGN CHOICE, log 119); an
operation reaches its controller in the cycle before it is served (DESIGN CHOICE, log 21); which TAKEs and reservations
wait (DEDUCED, log 24). -/
def Obligations.TakesStartWhatTheQueueGives : Prop :=
  (∀ (s : State) (i : Instr) (rd : BitVec 6) (a : Ask) (k : Nat), Issues s i → reservable s s.core = some k →
    let p := partOf s s.core
    let d := if s.core < 512 then s.core / 128 else (s.core - 512) / 64
    ((∃ f, i = .take f ∧ rd = f.rd ∧ a = .take none ((s.core - 512) :: delegated s s.core)) ∨
      (∃ f, i = .steal f ∧ rd = f.rd ∧ a = .steal (homeIn s p (rx (cur s).regs f.rs1.toNat).toNat)) ∨
      (∃ f, i = .stealAny f ∧ rd = f.rd ∧ a = .stealAny none [d, d ^^^ 1, d ^^^ 2, d ^^^ 3] 1)) →
    Gives s i fun r =>
      let r := modCtx (modCur r fun c => emptyX c rd.toNat) s.core k fun c => { c with reserved := true }
      { r with reqs := r.reqs ++ [{ core := s.core, ctx := s.ctx, rd := rd.toNat, res := some k, ask := a }] }) ∧
  (∀ (s : State) (i k : Nat) (q : QReq), s.reqs[i]? = some q → q.res = some k →
    let p := partOf s q.core
    let r := { s with reqs := s.reqs.eraseIdx i }
    let held : Bool := reqHeld s q
    let serves (x : Nat) (u : State) : Prop := doWork s (.ctl (.req i)) = .next (noteOp u (.queue x p))
    let moved (x : Nat) : State := modSP r x p fun y => { y with stealPtr := q.core + 1 }
    let free (r : State) (n : Nat) : State :=
      sendX (modCtx r q.core k fun c => { c with reserved := false }) q.core q.ctx q.rd (BitVec.ofNat 64 (2 ^ 63 + n))
    let goesOn (r : State) (a : Ask) : State := { r with reqs := r.reqs.insertIdx i { q with ask := a, arr := none } }
    ((coreAt s q.core).preempt = true ∨ (coreAt s q.core).halted = true ∧ isTake q = true → held = true) ∧
    (held = true → doWork s (.serve i) = .next s) ∧
    (held = false → (askCtl s q).isSome = true → q.arr = none →
      doWork s (.serve i) = .next { s with reqs := s.reqs.set i { q with arr := some s.cycle } }) ∧
    (∀ own x l, q.ask = .take own (x :: l) →
      (∀ t, select (spAt s x p) true = .task t → serves x
        (let u := started r x k q t
         if x = q.core - 512 then u else modCore u q.core fun c => { c with takePtr := (x + 1) % 256 })) ∧
      (∀ n, select (spAt s x p) true = .reason n → serves x (goesOn r (.take (some (own.getD n)) l)))) ∧
    (∀ n, q.ask = .take (some n) [] → held = false → doWork s (.serve i) = .next (free r n)) ∧
    (∀ x, q.ask = .steal x →
      (∀ t, select (spAt s x p) false = .task t → serves x (started (moved x) x k q t)) ∧
      (∀ n, select (spAt s x p) false = .reason n → serves x (free (moved x) n))) ∧
    (∀ c n, q.ask = .stealAny c [] n → held = false → doWork s (.serve i) = .next (free r n)) ∧
    (∀ d l n, q.ask = .stealAny none (d :: l) n → held = false →
      (bestSlice s p d = none → doWork s (.serve i) = .next (goesOn r (.stealAny none l n))) ∧
      (∀ x, bestSlice s p d = some x → doWork s (.serve i) = .next
        (goesOn (modDie r d fun y => { y with stealPtr := (x + 1) % 64 }) (.stealAny (some x) (d :: l) n)))) ∧
    (∀ x d l m, q.ask = .stealAny (some x) (d :: l) m →
      (∀ t, select (spAt s x p) false = .task t → serves x (started (moved x) x k q t)) ∧
      (∀ n, select (spAt s x p) false = .reason n → serves x (goesOn (moved x) (.stealAny none l n))))) ∧
  (∀ (s : State) (x p : Nat),
    (∀ i q, queueOp s x p = some (.req i) → s.reqs[i]? = some q → isTake q = false → reqsAt s (.queue x p) isTake = []) ∧
    (∀ i m, queueOp s x p = some (.msg i) → s.msgs[i]? = some m → reqsAt s (.queue x p) (fun _ => true) ≠ [] →
      ∃ t, m.arr = some t ∧ t + 4 < s.cycle)) ∧
  (∀ (q : SlicePart) (take : Bool) (t : QTask), select q take = .task t →
    t ∈ q.front ++ q.back ∧ (if take then t.record.near else t.record.far) = true ∧
    (∀ u ∈ q.front ++ q.back, u.order < t.order → anchorsMeet (qLo u) (qHi u) (qLo t) (qHi t) = false) ∧
    (∀ u ∈ q.running, u.order < t.order → anchorsMeet u.lo u.hi (qLo t) (qHi t) = false) ∧
    (SpillOk q → ∀ u ∈ q.spill, u.order < t.order → anchorsMeet (qLo u) (qHi u) (qLo t) (qHi t) = false) ∧
    (take = false → t.record.thresh.toNat < depth q)) ∧
  SpillOk {} ∧
  (∀ q : SlicePart, SpillOk q → (∀ slice r, SpillOk (enqueueHome q slice r)) ∧ (∀ t, SpillOk (removeTask q t)) ∧
    ∀ mid, SpillOk (retireTask q mid)) ∧
  (∀ a m b n : Nat, anchorsMeet a (a + m) b (b + n) = true ↔ a < b + n ∧ b < a + m)

/-- R39, R43, R134, R341, R357: TEND releases, sends its records and its retirement and ends the context; TABORT sends
the retirement alone, the handler of an aborted task none; UPCRET sends its records. The context waits until the
queues have taken its records (R26, R27), and is then dormant, with its bindings, tag, record and rope gone. -/
def Obligations.EndsOfWorkReleaseAndSend : Prop :=
  (∀ (s : State) (f : FmtR), Untraced s s.core → (cur s).rope = .none →
    let c := cur s
    let p := partOf s s.core
    let sends := (c.sends.map (sendMsgs s.core p)).flatten.map fun m => { m with ctx := some s.ctx }
    let retire : List Msg := if c.tstat.getLsbD 0 && c.tstat.getLsbD 5 then [] else match c.start, c.record with
      | .task (some slice), some x => [{ src := s.core, body := .retire slice p x.mid, ends := some s.ctx }]
      | _, _ => []
    (Issues s (.tend f) → Gives s (.tend f) (unitEnd s (.tend f) (sends ++ retire))) ∧
    (Issues s (.tabort f) → Gives s (.tabort f) (unitEnd s (.tabort f) retire)) ∧
    (Issues s (.upcret f) → Gives s (.upcret f) (unitEnd s (.upcret f) sends))) ∧
  (∀ (s : State) (n k : Nat) (i : Instr),
    let out : Bool := s.msgs.any fun m => m.src == n && m.ctx == some k
    (out = false → endOrWait s n k i = makeDormant s n k) ∧
    (out = true → ∃ w, w.fin = .dormant ∧ ctxAt (endOrWait s n k i) n k = { ctxAt s n k with wait := some w }) ∧
    (∀ w, (ctxAt s n k).wait = some w → w.fin = .dormant →
      doWork s (.wake n k) = .next (if out then s else makeDormant s n k))) ∧
  (∀ (s : State) (n k : Nat),
    let c := ctxAt (makeDormant s n k) n k
    c.running = false ∧ c.wait = none ∧ c.sends = [] ∧ c.record = none ∧ c.streams = [] ∧ c.tag = none ∧ c.rope = .none ∧
    c.pc = (ctxAt s n k).pc ∧ c.regs.x = (ctxAt s n k).regs.x ∧ c.regs.p = (ctxAt s n k).regs.p)

/-- R29, R34, R133, R137, R309: QDEPTH asks its queue for its depth, which rd receives when the queue serves it and
moves its pointer past the core; QDEPTH.in, WFA and, within 20 cycles, MSTAT give their counts; WFA clears its count
once no launch is outstanding, MSTAT the flags it reads. -/
def Obligations.CountsAreGiven : Prop :=
  (∀ (s : State) (f : FmtR), Issues s (.qdepth f) →
    let slice := homeIn s (partOf s s.core) (rx (cur s).regs f.rs1.toNat).toNat
    Gives s (.qdepth f) fun r =>
      let r := modCur r fun c => emptyX c f.rd.toNat
      { r with reqs := r.reqs ++ [{ core := s.core, ctx := s.ctx, rd := f.rd.toNat, ask := .depth slice }] }) ∧
  (∀ (s : State) (i slice : Nat) (q : QReq), s.reqs[i]? = some q → q.ask = .depth slice → q.res = none →
    let x := spAt s slice (partOf s q.core)
    doWork s (.ctl (.req i)) = .next (noteOp (sendX (modSP { s with reqs := s.reqs.eraseIdx i } slice (partOf s q.core) fun y =>
        { y with stealPtr := q.core + 1 }) q.core q.ctx q.rd
      (BitVec.ofNat 64 (x.front.length + x.spill.length + x.back.length))) (.queue slice (partOf s q.core)))) ∧
  (∀ (s : State) (f : FmtR), Issues s (.qdepthIn f) →
    ∃ t, exec (.qdepthIn f) s = .next t ∧ AwaitsX s t f.rd (BitVec.ofNat 64 (coreAt s s.core).inbound.length) ∧
      Flagged s t false 0 ∧ OnlyX s t) ∧
  (∀ (s : State) (f : FmtR), Issues s (.wfa f) → (cur s).treel = 0 →
    Gives s (.wfa f) fun r =>
      sendX (modCur (modCur r fun c => emptyX c f.rd.toNat) fun c => { c with wfa := 0 }) s.core s.ctx f.rd.toNat
        (BitVec.ofNat 64 (cur s).wfa)) ∧
  (∀ (s : State) (f : FmtR), Issues s (.mstat f) →
    let c := cluAt s (s.core / 8)
    let hold : Bool := c.holder == some (s.core, s.ctx)
    let queued := (c.cmds.filter fun m => m.core == s.core && m.ctx == s.ctx && !m.zeroing).length
    Gives s (.mstat f) fun r =>
      sendLate (modCur r fun c => { emptyX c f.rd.toNat with aflags := 0 }) s.core s.ctx f.rd.toNat (v := BitVec.ofNat 64 ((cur s).aflags.toNat + (match c.last with | some l => 2 ^ 27 + l % 8 * 2 ^ 24 | none => 0) +
          (if hold then 2 ^ 31 + c.remain * 2 ^ 40 else 0) + queued * 2 ^ 32)) (n := 20))

/-- R53 to R56, R135: GJOIN takes a slot and a place among the members, GLEAVE gives them up, GTAG tags the context,
GARRIVE and GBAR release and send an arrival, which the group's slice records; the phase ends with its last member;
GWAIT acquires at the end of the phase of its latest arrival, one on its way among them, and waits for it, as GBAR does.
-/
def Obligations.GroupInstructionsActOnTheirGroup : Prop :=
  ∀ (s : State) (f : FmtG),
    let g := f.group.toNat
    let p := partOf s s.core
    let n := s.core
    let b := barrierOf s p g
    (Issues s (.gjoin f) → inSlots s g = false → Gives s (.gjoin f) fun r =>
      refreshInh (setMembers (modCore r n fun c => { c with gslots := fillSlot g c.gslots }) p g
        (insertCore n (members s p g))) p) ∧
    (Issues s (.gjoin f) → inSlots s g = true → ∃ t, exec (.gjoin f) s = .next t ∧ Quiet s t) ∧
    (Issues s (.gleave f) → heldBack s g = false → Gives s (.gleave f) fun r =>
      refreshInh (settlePhase (setMembers (modCore r n fun c =>
          { c with gslots := c.gslots.map fun x => if x == some g then none else x }) p g
        ((members s p g).filter fun m => m != n)) p g) p) ∧
    (Issues s (.gtag f) → Gives s (.gtag f) fun r => refreshInh (modCur r fun c => { c with tag := some g }) p) ∧
    (Issues s (.garrive f) → heldBack s g = false → Gives s (.garrive f) fun r =>
      let r := releaseAll r n
      { r with reqs := r.reqs ++ [{ core := n, ctx := s.ctx, rd := 0, ask := .arrive g false true }] }) ∧
    (∀ (i : Nat) (q : QReq) (bar : Bool), s.reqs[i]? = some q → q.ask = .arrive g bar true → q.res = none → q.core = n →
      let r := { s with reqs := s.reqs.eraseIdx i }
      (b.arrived.contains n = true → doWork s (.serve i) = .next { r with reqs := r.reqs.insertIdx i { q with arr := none } }) ∧
      (b.arrived.contains n = false → ∃ u, doWork s (.serve i) = .next
          (settlePhase (setBarrier u p g { b with arrived := insertCore n b.arrived }) p g) ∧
        { u with cores := s.cores } = r ∧ (ctxAt u n q.ctx).arrivals = fset (ctxAt s n q.ctx).arrivals g (b.phase, bar) ∧
        (bar = false → u = modCtx r n q.ctx fun c => { c with arrivals := fset c.arrivals g (b.phase, false) }))) ∧
    (Issues s (.gwait f) → ffind (cur s).arrivals g = none → arriving s n g (some s.ctx) = false →
      Gives s (.gwait f) fun r => acquireAll r n) ∧
    (∀ ph bar, Issues s (.gwait f) → ffind (cur s).arrivals g = some (ph, bar) → ph < b.phase →
      arriving s n g (some s.ctx) = false → Gives s (.gwait f) fun r =>
        refreshInh (acquireAll (modCur r fun c => { c with arrivals := fdel c.arrivals g }) n) p) ∧
    (Issues s (.gwait f) → (arriving s n g (some s.ctx) = true ∨
        ∃ ph bar, ffind (cur s).arrivals g = some (ph, bar) ∧ b.phase ≤ ph) →
      Gives s (.gwait f) fun r => refreshInh (waitAgain r (.gwait f) .barrier .withdraw) p) ∧
    (Issues s (.gbar f) → ffind (cur s).arrivals g = none → heldBack s g = false → Gives s (.gbar f) fun r =>
      let r := releaseAll r n
      refreshInh (waitAgain { r with reqs := r.reqs ++ [{ core := n, ctx := s.ctx, rd := 0, ask := .arrive g true true }] }
        (.gbar f) .barrier .defer) p) ∧
    -- a GBAR that waited ends with its phase
    (∀ ph x, s.latch = some x → drains s (.gbar f) = false → arriving s n g (some s.ctx) = false →
      ffind (cur s).arrivals g = some (ph, true) → ph < b.phase → exec (.gbar f) s = .next
        (refreshInh (acquireAll (modCur s fun c => { c with arrivals := fdel c.arrivals g }) n) p)) ∧
    (∀ t : State, (barrierOf t p g).arrived ≠ [] → (∀ m ∈ members t p g, m ∈ (barrierOf t p g).arrived) →
      barrierOf (settlePhase t p g) p g = { phase := (barrierOf t p g).phase + 1, arrived := [] })

/-- R51, R60, R61, R63, R136, R140 to R142: PRIO sets the base class; TREEL releases, sends one start to each child of
the issuer and counts the members; ROPE starts its seconds, UNROPE ends the rope and acquires. -/
def Obligations.ClassesLaunchesAndRopes : Prop :=
  (∀ (s : State) (f : FmtU), Issues s (.prio f) → Gives s (.prio f) fun r =>
    refreshInh (modCur r fun c => { c with base := BitVec.ofNat 2 f.imm.toNat }) (partOf s s.core)) ∧
  (∀ (s : State) (f : FmtTL), Issues s (.treel f) →
    let p := partOf s s.core
    let m := members s p f.group.toNat
    Gives s (.treel f) fun r =>
      let r := releaseAll r r.core
      modCur { r with msgs := r.msgs ++
          (treeChildren s.core m s.core ++ if m.contains s.core then [s.core] else []).map fun n =>
            { src := s.core, body := .launch n p (8 * (f.lit.toNat % 2 ^ 16)) (rx (cur s).regs f.rap.toNat) (cur s).base
                (s.core, s.ctx) s.core m } } fun c => { c with treel := c.treel + m.length }) ∧
  (∀ (s : State) (f : FmtU), Issues s (.rope f) →
    let want := ropeCores s.core f.imm.toNat
    (startSeconds want (reading s (.rope f)) (rx (cur s).regs 3)).2 = [] →
    Gives s (.rope f) fun r => (startSeconds want r (rx (cur s).regs 3)).1) ∧
  (∀ (s : State) (f : FmtR), Issues s (.unrope f) →
    Gives s (.unrope f) fun r => acquireAll (endRope r r.core r.ctx) r.core) ∧
  (∀ (s : State) (n k hop : Nat) (x3 : Dword), (n, k) ≠ (s.core, s.ctx) → (cur s).rope = .none →
    let t := startSecond s n k hop x3
    (ctxAt t n k).running = true ∧ (ctxAt t n k).pc = (cur s).pc ∧ rx (ctxAt t n k).regs 3 = x3 ∧
    (ctxAt t n k).rope = .second s.core s.ctx ∧ (cur t).rope = .lead [(n, k, hop)])

/-- R138, R139: SEMP, SEMV after its release and SEMTRY send a request to their semaphore, and SEMP and SEMV wait
until it is served. A SEMP or SEMTRY served takes a count that nobody waits for, and acquires; SEMTRY gives the count
it found, 0 where it takes none; a SEMP that takes none joins those that wait; a SEMV adds one, or hands its count to
the longest waiting SEMP, and its bundle goes on with its other half, if it has one. A full count traps at the SEMV, at
its issue or, where it has filled since, in place of its bundle when it is served, which is the model's choice
(DEDUCED, log 23). -/
def Obligations.SemaphoresCount : Prop :=
  ∀ (s : State),
    let clu := clusterFor s s.core
    let sem (k : Nat) : Sem := fget {} (cluAt s clu).sems k
    let put (r : State) (k : Nat) (x : Sem) : State := modClu r clu fun c => { c with sems := fset c.sems k x }
    let asks (r : State) (rd : Nat) (a : Ask) : State :=
      { r with reqs := r.reqs ++ [{ core := s.core, ctx := s.ctx, rd := rd, ask := a }] }
    (∀ f : FmtQ, Issues s (.semp f) → Gives s (.semp f) fun r =>
      asks (waitRelease r (.semp f) .barrier .withdraw) 0 (.semp f.sem.toNat)) ∧
    (∀ f : FmtQ, Issues s (.semv f) → Gives s (.semv f) fun r =>
      asks (waitRelease (releaseAll r r.core) (.semv f) .barrier .defer) 0 (.semv f.sem.toNat)) ∧
    (∀ f : FmtQ, Reaches s (.semv f) → (sem f.sem.toNat).count = 0xFFFF → ownAccess s = false →
      exec (.semv f) s = .next (takeTrap (releaseAll s s.core)
        { cause := 0x01, sub := 7, val := BitVec.ofNat 64 f.sem.toNat, tpc := (cur s).pc })) ∧
    (∀ (i k : Nat) (q : QReq), s.reqs[i]? = some q → q.core = s.core →
      let r := { s with reqs := s.reqs.eraseIdx i }
      let x := sem k
      let serves (u : State) : Prop := doWork s (.ctl (.req i)) = .next (noteOp u (.sem clu k))
      let free (u : State) (n c : Nat) : State := modCtx u n c fun y => { y with wait := none }
      let goesOn (u : State) : State := modCtx u s.core q.ctx fun y =>
        { y with wait := y.wait.bind fun w => if w.half.isSome then some { w with fin := .half } else none }
      (q.ask = .semp k →
        (x.count ≠ 0 → x.queue = [] →
          serves (free (acquireAll (put r k { x with count := x.count - 1 }) s.core) s.core q.ctx)) ∧
        (x.count = 0 ∨ x.queue ≠ [] → serves (put r k { x with queue := x.queue ++ [(s.core, q.ctx)] }))) ∧
      (q.ask = .semv k → x.count ≠ 0xFFFF →
        (x.queue = [] → serves (goesOn (put r k { x with count := x.count + 1 }))) ∧
        (∀ n c l, x.queue = (n, c) :: l → serves (goesOn (free (acquireAll (put r k { x with queue := l }) n) n c)))) ∧
      (q.ask = .semv k → x.count = 0xFFFF → ∀ w, (ctxAt s s.core q.ctx).wait = some w →
        serves (takeTrapAt (modCtx r s.core q.ctx fun y => { y with wait := none, icount := y.icount - 1 }) s.core q.ctx
          { cause := 0x01, sub := 7, val := BitVec.ofNat 64 k, tpc := w.pc }))) ∧
    (∀ f : FmtQ, Issues s (.semtry f) → Gives s (.semtry f) fun r =>
      asks (modCur r fun c => emptyX c f.rd.toNat) f.rd.toNat (.semtry f.sem.toNat)) ∧
    (∀ (i k : Nat) (q : QReq), s.reqs[i]? = some q → q.ask = .semtry k → q.res = none →
      let r := { s with reqs := s.reqs.eraseIdx i }
      let n := clusterFor s q.core
      let x : Sem := fget {} (cluAt s n).sems k
      let serves (u : State) : Prop := doWork s (.ctl (.req i)) = .next (noteOp u (.sem n k))
      (x.count ≠ 0 → x.queue = [] → serves (sendX (acquireAll (modClu r n fun c =>
        { c with sems := fset c.sems k { x with count := x.count - 1 } }) q.core) q.core q.ctx q.rd
        (BitVec.ofNat 64 x.count.toNat))) ∧
      (x.count = 0 ∨ x.queue ≠ [] → serves (sendX r q.core q.ctx q.rd 0)))

/-- R225, R227, R257, R258, R296, R299, R300: BELAY queues at the cluster's arbiter and waits, UNBELAY ends the lease,
MWAIT acquires once the context's commands are complete, and a command takes a queue place with its operands and
registers and counts against the lease. -/
def Obligations.LeasesAndCommandsAreQueued : Prop :=
  ∀ (s : State),
    let clu := s.core / 8
    (∀ f : FmtU, Issues s (.belay f) → Gives s (.belay f) fun r =>
      waitRelease (modClu r clu fun c => { c with belays := c.belays ++ [{ core := s.core, ctx := s.ctx, n := f.imm.toNat }] })
        (.belay f) .barrier .withdraw) ∧
    (∀ f : FmtR, Issues s (.unbelay f) → Config.isHome s.core = false → (cluAt s clu).holder = some (s.core, s.ctx) →
      Gives s (.unbelay f) fun r => modDie (modClu r clu fun c => { c with holder := none, remain := 0 }) (s.core / 128) fun d =>
        { d with holders := d.holders.filter fun h => !(h.kind == 0 && h.core == s.core && h.ctx == s.ctx) }) ∧
    (∀ f : FmtR, Issues s (.unbelay f) → (cluAt s clu).holder ≠ some (s.core, s.ctx) →
      ∃ t, exec (.unbelay f) s = .next t ∧ Quiet s t) ∧
    (∀ f : FmtR, Issues s (.mwait f) → Gives s (.mwait f) fun r => acquireAll r r.core) ∧
    (∀ (i : Instr) (a b : Option (BitVec 6)), commandRow i = some (a, b) → Issues s i →
      ((cluAt s clu).cmds.filter fun m => !m.zeroing).length < 128 →
      Gives s i fun r =>
        let r := modClu r clu fun c =>
          { c with remain := c.remain - 1, cmds := c.cmds ++
              [{ core := s.core, ctx := s.ctx, instr := i, pc := (cur s).pc, a := operandOf (cur s).regs a,
                 b := operandOf (cur s).regs b, regs := snapshot s, icount := (cur s).icount, before := s.accessId }] }
        if (cluAt s clu).remain ≤ 1 then endLease r s.core s.ctx else r)

/-- R152, R250, R257, R264 to R267, R269, R298, R302 to R307, R310: the head of a cluster's queue begins once its
context's earlier scratchpad stores are performed: a grant's zeroing clears the array, MCLR its tile, MSCALE appends
bytes to FIFO A or B; MGATH's index vector, then its rows and scales, and MLDB's rows and scales are read a word at a
time and then fill a buffer; MMUL and MMULS leave their product in a tile with its flags; MSTORE goes on to write its
rows, its tile's values converted, and then ends; a fault is a refusal of its context, discards its commands behind it
and ends its lease. That the gather unit reads so, step after step, is log 140, and how the queue is discarded log 53,
the model's choices. -/
def Obligations.ArrayCommandsArePerformed : Prop :=
  (∀ (s : State) (clu : Nat) (m : MCmd) (rest : List MCmd), clu < 64 → (cluAt s clu).cmds = m :: rest →
    m.zeroing = false →
    let runs (t : State) : Prop := exec (.arrayCommandStart clu) s = .next t
    let head (m' : MCmd) : State := modClu s clu fun c => { c with cmds := m' :: rest }
    (m.out = none → m.gather = none → storesBefore s m = true → runs s) ∧
    (m.out = none → m.gather = none → storesBefore s m = false →
      (∀ f, m.instr = .mgath f → runs (head { m with gather := some (false, bankWords (indexRanges s clu m)) })) ∧
      ∀ f, m.instr = .mldb f → runs (head { m with gather := some (true, bankWords (rowRanges s clu m)) })) ∧
    (∀ rows l, m.out = none → m.gather = some (rows, l) →
      (l.any (· != 0) = true → runs s ∧
        ∀ bank k, bankGrant s clu bank = some (.gather, k) → doWork s (.bank clu bank) = .next (modClu s clu fun c =>
          { c with banks := fset c.banks bank k,
                   cmds := { m with gather := some (rows, l.set bank (l.getD bank 0 - 1)) } :: rest })) ∧
      (l.any (· != 0) = false → rows = false →
        runs (head { m with gather := some (true, bankWords (rowRanges s clu m)) }))) ∧
    (∀ x l, m.out = some (x :: l) → runs s ∧
      doWork s (.writeRow clu 0) = .next (modClu (spmWrite s clu x.1 x.2.1 x.2.2) clu fun c =>
        { c with cmds := { m with out := some l } :: rest })) ∧
    (m.out = some [] → runs (modCtx (modClu s clu fun c => { c with cmds := rest })
      m.core m.ctx fun c => { c with aflags := c.aflags ||| m.flags }))) ∧
  ∀ (s : State) (clu : Nat) (m : MCmd) (rest : List MCmd), clu < 64 → (cluAt s clu).cmds = m :: rest → m.out = none →
    (m.gather.isNone && storesBefore s m) = false →
    let r := modClu s clu fun c => { c with cmds := rest }
    let runs (t : State) : Prop := exec (.arrayCommandStart clu) s = .next t
    let flags (t : State) (f : Flags) : State := modCtx t m.core m.ctx fun c => { c with aflags := c.aflags ||| arrayFlags f }
    (m.zeroing = true → runs (modClu r clu fun c =>
      { c with tiles := [], latch := {}, btile := {}, fifoA := [], fifoB := [] })) ∧
    (m.zeroing = false → gatherNext s clu m = none →
      (∀ f, m.instr = .mclr f →
        ∃ t, runs t ∧ cluAt t clu = { cluAt r clu with tiles := fdel (cluAt s clu).tiles f.rd.toNat }) ∧
      (∀ f, m.instr = .mscale f → m.a + m.b ≤ 0x600000 →
        (if f.rd = 0 then (cluAt s clu).fifoA.length else (cluAt s clu).fifoB.length) + m.b ≤ 4096 →
        let bs := (List.range m.b).map fun j => byteOf s (.spm clu) (m.a + j)
        ∃ t, runs t ∧ cluAt t clu = { cluAt r clu with
          fifoA := if f.rd = 0 then (cluAt s clu).fifoA ++ bs else (cluAt s clu).fifoA,
          fifoB := if f.rd = 0 then (cluAt s clu).fifoB else (cluAt s clu).fifoB ++ bs }) ∧
      (∀ f x q, m.instr = .mldb f →
        fillRows s clu m.regs.fmtb m.regs.sclb m.a (List.range 256) = .ok (x, q) →
        ∃ t, runs t ∧ (cluAt t clu).btile = x ∧ (cluAt t clu).fifoB = q) ∧
      (∀ f es x q, m.instr = .mgath f → indexVector s clu m.b = .ok es →
        fillRows s clu m.regs.fmta m.regs.scla m.a es = .ok (x, q) →
        ∃ t, runs t ∧ (cluAt t clu).latch = x ∧ (cluAt t clu).fifoA = q) ∧
      (∀ (f : FmtR) sparse fa fb places, (m.instr = .mmul f ∧ sparse = false) ∨ (m.instr = .mmuls f ∧ sparse = true) →
        opFmt m.regs.fmta = some fa → opFmt m.regs.fmtb = some fb → mmulFault (cluAt r clu) m.regs sparse fa fb = none →
        allPlaces r clu (cluAt r clu).latch.k sparse m.a (List.range 256) = .ok places →
        scaleFault fa.smode (cluAt r clu).latch.k (cluAt r clu).fifoA = none →
        scaleFault fb.smode 256 (cluAt r clu).fifoB = none →
        let x := mmulTile (cluAt r clu) m.regs fa fb places f.rd.toNat
        runs (flags (modClu r clu fun c => { c with tiles := fset c.tiles f.rd.toNat x.1 }) x.2)) ∧
      (∀ f, m.instr = .mstore f →
        let fo := m.regs.fmto.toNat % 16
        let code (i n : Nat) : Nat × Flags := storeCode fo (m.regs.mround.toNat % 8)
          (srHash (gOf m.core m.ctx) m.icount i n) (fzOf m.regs)
          (lane (fget 0 (fget ([] : FMap Vec) (cluAt s clu).tiles f.rd.toNat) i) n).toNat
        fo ≤ 8 → m.a + 256 * rowBytes fo ≤ 0x600000 →
        ∃ fl : Flags, fl = (List.range 256).foldl (fun a i => (List.range 256).foldl (fun b n => b ||| (code i n).2) a) 0 ∧
          runs (modClu s clu fun c => { c with cmds := { m with
            out := some ((List.range 256).map fun i =>
              (m.a + i * rowBytes fo, rowBytes fo, pack (elemBits fo) (fun n => (code i n).1) 256)),
            flags := arrayFlags fl } :: rest })) ∧
      (∀ u c v, perform r clu m = .fault u (c, v) →
        runs (endLease (modCtx (modClu u clu fun x =>
          { x with cmds := x.cmds.filter fun y => y.zeroing || !(y.core == m.core && y.ctx == m.ctx) }) m.core m.ctx fun y =>
          { y with refusals := y.refusals ++ [{ cause := c, sub := 0, tval := BitVec.ofNat 64 v, rpc := m.pc }] })
          m.core m.ctx)))

/-- R229 to R231, R259, R271, R311 to R313: NPCFG, NPRED and NCHECK go to their cluster's predictor, NPCFG holding its
context; when it serves them, NPCFG takes a good table and empties the buffer; NPRED writes the selected neurons' index
vector, keeps the bounds of the others and gives how many it selected; NCHECK chooses from those bounds and gives E and
their number; with no table or no buffer of the context's own they are refused ILL STATE, and rd receives 0. -/
def Obligations.PredictorInstructionsPredict : Prop :=
  (∀ (s : State) (f : FmtR),
    let a := (rx (cur s).regs f.rs1.toNat).toNat
    let o := (rx (cur s).regs f.rs2.toNat).toNat
    let sent (r : State) (i : Instr) (a b : Nat) : State := modClu { r with accessId := r.accessId + 1 } (s.core / 8) fun c =>
      { c with npq := c.npq ++ [{ core := s.core, ctx := s.ctx, instr := i, pc := (cur s).pc, a := a, b := b,
                                  eps := (cur s).regs.npeps, before := s.accessId }] }
    (Issues s (.npcfg f) → Gives s (.npcfg f) fun r => waitRelease (sent r (.npcfg f) a 0) (.npcfg f) .copy .defer) ∧
    (Issues s (.npred f) → Gives s (.npred f) fun r => sent (modCur r fun c => emptyX c f.rd.toNat) (.npred f) a o) ∧
    (Issues s (.ncheck f) → Gives s (.ncheck f) fun r => sent (modCur r fun c => emptyX c f.rd.toNat) (.ncheck f) a 0)) ∧
  (∀ (s : State) (clu i : Nat) (q : NReq) (f : FmtR), (cluAt s clu).npq[i]? = some q → q.core / 8 = clu →
    servable s ((cluAt s clu).npq.take i) q = true →
    let r := modClu s clu fun c => { c with npq := c.npq.eraseIdx i }
    let me := (q.core, q.ctx)
    let serves (u : State) : Prop := doWork s (.predict clu i) = .next u
    let refused (n : Nat) : Prop := serves (modCtx r q.core q.ctx fun c => arrive
      { c with refusals := c.refusals ++ [{ cause := 0x01, sub := 7, tval := BitVec.ofNat 64 n, rpc := q.pc }] } (.x f.rd.toNat 0))
    (∀ c, q.instr = .npcfg f → loadTable s clu q.a = .ok c →
      serves (modClu (modCtx r q.core q.ctx fun y => { y with wait := none }) clu fun x =>
        { x with pcfg := some c, pbuf := none, npreds := [],
                 recfg := x.recfg.filter (fun k => !x.npreds.contains k) ++ x.npreds })) ∧
    (∀ c, q.instr = .npred f → (cluAt s clu).pcfg = some c →
      let row := c.d * tokSize c.tfmt
      let n := q.a / 2 ^ 32 % 32
      let ts := (List.range n).map fun t => tokenN c (spmRead s clu (q.a % 2 ^ 23 + t * row) row)
      let w := predictN c ts
      q.a % 2 ^ 23 + n * row ≤ 0x600000 → q.b + vectorLen w.1.length ≤ 0x600000 →
      serves (sendX (modClu (writeVector r clu q.b w.1) clu fun x =>
        { x with pbuf := some { core := q.core, ctx := q.ctx, skipped := w.2 },
                 npreds := x.npreds.filter (· != me) ++ [me], recfg := x.recfg.filter (· != me) })
        q.core q.ctx f.rd.toNat (BitVec.ofNat 64 w.1.length))) ∧
    (∀ b, q.instr = .ncheck f → (cluAt s clu).recfg.contains me = false → (cluAt s clu).pbuf = some b →
      b.core = q.core → b.ctx = q.ctx →
      let e0 := b.skipped.foldl (fun x y => addN x y.2.toNat) 0
      let w := chooseN (q.eps.toNat % 2 ^ 32) b.skipped.length b.skipped e0
      let l := (List.range 65536).filter w.1.contains
      q.a + vectorLen l.length ≤ 0x600000 →
      serves (sendX (writeVector r clu q.a l) q.core q.ctx f.rd.toNat (BitVec.ofNat 64 (w.2 * 2 ^ 32 + l.length)))) ∧
    (q.instr = .npred f → (cluAt s clu).pcfg = none → refused 2) ∧
    (q.instr = .ncheck f → (cluAt s clu).recfg.contains me = true → refused 0) ∧
    (q.instr = .ncheck f → (cluAt s clu).recfg.contains me = false →
      (∀ b, (cluAt s clu).pbuf = some b → b.core ≠ q.core ∨ b.ctx ≠ q.ctx) → refused 1))

/-- R347, R348, R353, R354: a trap of a context that is not in its handler writes TPC, TCAUSE, TVAL and TSTAT, keeps the
other registers, and goes to the handler that TRAPVEC names; a task's record is requeued for its context and its send
buffer dropped. In the handler, or with TRAPVEC.EN = 0, the context stops. -/
def Obligations.TrapsEnterTheHandler : Prop :=
  ∀ (s : State) (n k : Nat) (t : TrapReq), Untraced s n → (ctxAt s n k).rope = .none →
    let c := ctxAt s n k
    let u := takeTrapAt s n k t
    let d := ctxAt u n k
    (c.tstat.getLsbD 0 = false → copiesLeft s n k = false → commandsLeft s n k = false →
      (coreAt s n).trapvec.getLsbD 63 = true →
      d.pc = 8 * ((coreAt s n).trapvec.toNat % 2 ^ 16) ∧ d.tpc = BitVec.ofNat 64 (t.tpc % 2 ^ 19 / 8 * 8) ∧
      d.tcause = BitVec.ofNat 64 (t.cause + 256 * t.sub) ∧ d.tval = t.val ∧ d.regs = c.regs ∧ d.stopped = c.stopped ∧
      d.tstat.getLsbD 0 = true ∧ d.tstat.getLsbD 5 = isTask c ∧ d.tstat.getLsbD 6 = c.tstat.getLsbD 6 ∧
      d.tstat.getLsbD 7 = t.rpc.isSome ∧ d.wait = none ∧ (isTask c = true → d.sends = []) ∧
      (isTask c = false → d.sends = c.sends ∧ (coreAt u n).inbound = (coreAt s n).inbound) ∧
      (∀ x, isTask c = true → c.record = some x → (coreAt u n).inbound =
        { body := .task { x with trapped := true, tcause := BitVec.ofNat 8 t.cause, nsend := BitVec.ofNat 8 c.sends.length } true
          mid := x.mid, held := some k } :: (coreAt s n).inbound)) ∧
    (c.tstat.getLsbD 0 = true ∨ (copiesLeft s n k = false ∧ commandsLeft s n k = false ∧
        (coreAt s n).trapvec.getLsbD 63 = false) →
      d.stopped = true ∧ d.running = c.running ∧ d.regs = c.regs ∧ d.wait = none ∧
      (partAt u (partOf s n)).stopHead = (partAt s (partOf s n)).stopHead + 1)

/-- R358, R359, R367, R369: TRAP and DBRK trap after their issue with their number; DBRK halts the core where the debug
module says so; TRET returns to TPC, ACTIVE and RPV falling. -/
def Obligations.TrapInstructionsAndTheReturn : Prop :=
  (∀ (s : State) (f : FmtU), Issues s (.trap f) → Gives s (.trap f) fun r => takeTrapAt r r.core r.ctx
    { cause := 0x15, val := BitVec.ofNat 64 f.imm.toNat, tpc := (cur s).pc + 8, bpc := some (cur s).pc }) ∧
  (∀ (s : State) (f : FmtU), Issues s (.dbrk f) →
    let halts : Bool := (partAt s (partOf s s.core)).policy.getLsbD 0 && (coreAt s s.core).dctl.getLsbD 3
    (halts = false → Gives s (.dbrk f) fun r => takeTrapAt r r.core r.ctx
      { cause := 0x16, val := BitVec.ofNat 64 f.imm.toNat, tpc := (cur s).pc + 8, bpc := some (cur s).pc }) ∧
    (halts = true → (coreAt s s.core).halted = false → Untraced s s.core → Gives s (.dbrk f) fun r =>
      modCore r s.core fun c => { c with halted := true, haltAt := s.cycle }) ∧
    (halts = true → Gives s (.dbrk f) fun r => debugStop r s.core)) ∧
  (∀ (s : State) (f : FmtR), Issues s (.tret f) →
    ∃ t, exec (.tret f) s = .next t ∧ WentTo s t ((cur s).tpc.toNat % 2 ^ 19 / 8 * 8) ∧ KeptRegs s t ∧ KeptUnits s t ∧
      KeptCores s t ∧ KeptOthers s t ∧ KeptMemory s t ∧
      (now s t).tstat = (cur s).tstat &&& ~~~(BitVec.ofNat 64 0x81) ∧ (now s t).tpc = (cur s).tpc ∧
      (now s t).tcause = (cur s).tcause ∧ (now s t).tval = (cur s).tval)

/-- R342 to R344, R361: CTXSAVE cancels the access of a parked context and stores its image, waiting for it, and makes
the context dormant once it is stored; CTXLOAD reserves a free context and reads an image, from which the context then
starts, or which is refused; REPLAYALL clears its die's fault buffer, presents the parked accesses of its partition
there as fresh ones, without the fault entries of their pages, and waits until the translation of each has ended. Which
accesses a REPLAYALL presents again is log 105, and what it awaits log 100; what a CTXSAVE waits for and leaves behind
is log 72: the model's choices. -/
def Obligations.ContextsAreSavedLoadedAndReplayed : Prop :=
  (∀ (s : State) (f : FmtR) (a : Access), Issues s (.ctxsave f) →
    let k := (rx (cur s).regs f.rs2.toNat).toNat
    let r := beginSave (reading s (.ctxsave f)) s.core k
    ((accessesOf (reading s (.ctxsave f)) s.core s.ctx).find? fun x => x.kind == .save k) = none →
    saveWaits r s.core k = false → ((ownAccesses r s.core k).find? fun x => heldByPark x) = some a →
    Gives s (.ctxsave f) fun _ => waitAgain (submit r
      (sent s (.save k) ((List.range 1024).map fun j => part1 ((rx (cur s).regs f.rs1.toNat).toNat + 64 * j) 64 (64 * j) true)
        (image r s.core k (some a)) false)) (.ctxsave f) .full .defer) ∧
  (∀ (s : State) (f : FmtR) (x : Regs) (a : Access), s.latch = some x →
    let k := (rx x f.rs2.toNat).toNat
    ((accessesOf s s.core s.ctx).find? fun y => y.kind == .save k) = some a → a.stage = .performed →
    exec (.ctxsave f) s =
      .next (makeDormant (cancelWhere (dropAccess s a.id) s.core k fun _ => true) s.core k)) ∧
  (∀ (s : State) (f : FmtR) (x : Regs) (a : Access) (c b v : Nat), s.latch = some x →
    let k := (rx x f.rs2.toNat).toNat
    ((accessesOf s s.core s.ctx).find? fun y => y.kind == .save k) = some a → a.stage = .failed c b v →
    exec (.ctxsave f) s = .next (modCtx (undoSave (dropAccess s a.id) s.core k) s.core s.ctx fun y =>
      { y with refusals := y.refusals ++
          [{ cause := c, sub := b, tval := BitVec.ofNat 64 v, rpc := (cur s).pc, defers := true }] })) ∧
  (∀ (s : State) (f : FmtR) (k : Nat), Issues s (.ctxload f) → reservable s s.core = some k →
    Gives s (.ctxload f) fun r =>
      submit (modCtx (modCur r fun c => emptyX c f.rd.toNat) s.core k fun c => { c with reserved := true })
        (sent s (.loadCtx f.rd.toNat k (rx (cur s).regs f.rs1.toNat))
          ((List.range 1024).map fun j => part1 ((rx (cur s).regs f.rs1.toNat).toNat + 64 * j) 64 (64 * j) false) 0 false)) ∧
  (∀ (s : State) (a : Access) (rd k : Nat) (addr : Dword), (s.accesses.find? fun x => x.id == a.id) = some a →
    a.kind = .loadCtx rd k addr → (∀ c b v, a.stage ≠ .failed c b v) →
    let n := a.core
    let r := dropAccess s a.id
    (imageBad r n a.data = true → doWork s (.loaded a.id) =
      .next (modCtx (modCtx (modCtx r n k fun c => { c with reserved := false }) n a.ctx fun c =>
        if c.xp.getLsbD rd then writeX c rd 0 else c) n a.ctx fun c =>
        { c with refusals := c.refusals ++ [{ cause := 1, sub := 7, tval := addr, rpc := a.pc }] })) ∧
    (imageBad r n a.data = false → (coreAt s n).preempt = false → field a.data 0x628 4 = 0 →
      bitAt (field a.data 0xA0 8) 0 = false → (∀ x ∈ s.accesses, x.id < s.accessId) →
      doWork s (.loaded a.id) = .next (sendX
        (acquireAll (refreshInh (modCtx (beginCtx r n k 0 0) n k (imageCtx s.cycle a.data)) (partOf s n)) n)
        n a.ctx rd (BitVec.ofNat 64 k)))) ∧
  (∀ (s : State) (f : FmtR), Issues s (.replayall f) →
    let p := partOf s s.core
    let d := Config.dieOf s.core
    Gives s (.replayall f) fun r =>
      let u := modDie (releaseAll r s.core) d fun x => { x with faultbuf := fdel x.faultbuf p, dropped := fdel x.dropped p }
      let l := u.accesses.filter fun a =>
        a.part == p && isParked a && Config.dieOf (if a.host then baseCamp u p else a.core) == d
      let v := l.foldl (fun t a => dropFaults t p (headVa a) (headVa a + 1)) u
      let t := { v with accesses := v.accesses.map fun a => if l.any fun b => b.id == a.id then
        { a with stage := .ready, reported := [], again := a.pieces.head?.map (·.pos) } else a }
      if l.isEmpty then t else waitRelease t (.replayall f) .full .defer) ∧
  (∀ (s : State) (n k : Nat) (w : Wait) (f : FmtR), (ctxAt s n k).wait = some w → w.fin = .release →
    w.instr = .replayall f →
    let awaited (a : Access) : Prop := a.part = partOf s n ∧ a.again.isSome = true ∧
      Config.dieOf (if a.host then baseCamp s a.part else a.core) = Config.dieOf n
    ((∀ a ∈ s.accesses, ¬ awaited a) →
      doWork s (.wake n k) = .next (modCtx s n k fun c => { c with wait := none })) ∧
    ((∃ a ∈ s.accesses, awaited a) → doWork s (.wake n k) = .next s)) ∧
  (∀ (s : State) (f : FmtR), Issues s (.replayall f) → (∀ a ∈ s.accesses, isParked a = false) →
    (∀ e ∈ (coreAt s s.core).l1, e.2.dirty = 0) →
    ∃ t, exec (.replayall f) s = .next t ∧ Advanced s t ∧ KeptRegs s t ∧ KeptMemory s t ∧
      let d := if s.core < 512 then s.core / 128 else (s.core - 512) / 64
      (dieAt t d).faultbuf = fdel (dieAt s d).faultbuf (partOf s s.core) ∧ t.accesses = s.accesses)

/-- R24, R25, R27, R38, R46, R47, R64, R65, R88, R201, R221, R338, R339, R368 to R372, R405: what reaches a core without
an instruction of its own. Values arrive at registers that wait for them; a refusal or a spent budget traps in place of
the next bundle, a budget that the refused instruction has kept waiting after it; the first record not held starts the
lowest free context with its delivery registers. Where the model chooses: what a withdrawn or deferred instruction
leaves of BUDGET (logs 14, 116 and 138), how a stop for debug moves the budget (log 15), the bundle in whose place a
refusal is taken (log 16), and how the debug registers are reached (log 88). -/
def Obligations.CoresTakeWhatReachesThem : Prop :=
  ∀ (s : State) (n k : Nat), noCtx n k = false →
    let c := ctxAt s n k
    let core := coreAt s n
    let spent : Bool := decide (core.tbudget.toNat % 2 ^ 40 ≤ budgetCount s n k)
    (∀ i r v, c.pend[i]? = some (.x r v) → exec (.valueArrival n k i) s = .next (modCtx s n k fun c =>
      let d := { c with pend := c.pend.eraseIdx i }
      if c.xp.getLsbD r then writeX d r v else d)) ∧
    (∀ i r v due, c.pend[i]? = some (.late r v due) → exec (.valueArrival n k i) s = .next (modCtx s n k fun c =>
      let d := { c with pend := c.pend.eraseIdx i }
      if c.xp.getLsbD r then writeX d r v else d)) ∧
    (∀ i r v, c.pend[i]? = some (.v r v) → exec (.valueArrival n k i) s = .next (modCtx s n k fun c =>
      let d := { c with pend := c.pend.eraseIdx i }
      if c.vp.getLsbD r then writeV d r v else d)) ∧
    (∀ r l, c.refusals = r :: l → c.running = true → c.stopped = false → core.halted = false → c.starting = none →
      c.wait = none → c.trapWait = none → ctxParked s n k = false → (∀ a ∈ accessesOf s n k, a.blocking = false) →
      exec (.refusal n k) s = .next (takeTrapAt (modCtx s n k fun c =>
          { c with refusals := l, wait := none, starting := none, owed := c.owed || (r.defers && spent) }) n k
        { cause := r.cause, sub := r.sub, val := r.tval, tpc := nextPc s n k, rpc := some r.rpc })) ∧
    (∀ r l w, c.refusals = r :: l → c.running = true → c.stopped = false → core.halted = false → c.starting = none →
      c.wait = some w → endWaits w = true → ctxParked s n k = false →
      exec (.refusal n k) s = .next (takeTrapAt (modCtx s n k fun c =>
          { c with refusals := l, wait := none, starting := none, owed := c.owed || (r.defers && spent) }) n k
        { cause := r.cause, sub := r.sub, val := r.tval, tpc := w.pc, rpc := some r.rpc })) ∧
    (c.running = true → c.stopped = false → core.halted = false → c.trapWait = none → c.wait = none → c.starting = none →
      (spent || c.owed) = true → c.refusals = [] → underSave s n k = false → clearing s n k = false →
      exec (.budget n k) s =
        .next (takeTrapAt (modCtx (cancelWhere s n k heldByPark) n k fun c => { c with owed := false }) n k
        { cause := 0x0E, val := BitVec.ofNat 64 (budgetCount (cancelWhere s n k heldByPark) n k),
          tpc := nextPc s n k })) ∧
    (∀ w, c.wait = some w → w.fate = .defer → ctxParked s n k = false → exec (.budget n k) s = .next s) ∧
    (∀ r l, c.refusals = r :: l → (refusalPlace s n k).isSome = true → exec (.budget n k) s = .next s) ∧
    (clearing s n k = true → c.wait = none → c.starting = none → exec (.budget n k) s = .next s) ∧
    (∀ r q mid l e, core.inbound = { body := .task r q, mid := mid, held := none } :: l → freeCtx s n = some k →
      core.halted = false → core.part.isSome = true → Untraced s n → ffind core.bodies (bodyVa core.bodytab r.body.toNat) = some e →
      bodyValid e.toNat = true → (if Config.isHome n then bodyNear e.toNat else bodyFar e.toNat) = true →
      bodyAbsent (Config.isHome n) e.toNat = false →
      ∃ t, exec (.inboundDelivery n) s = .next t ∧ (coreAt t n).inbound = l ∧
        let d := ctxAt t n k
        d.running = true ∧ d.base = r.cls ∧ d.record = some r ∧ d.pc = bodyPc (Config.isHome n) e.toNat ∧
        (rx d.regs 4).toNat = r.lo % 2 ^ 64 ∧ (rx d.regs 5).toNat = r.len % 2 ^ 64 ∧ rx d.regs 6 = r.mid ∧
        rx d.regs 7 = r.arg0 ∧ rx d.regs 8 = r.arg1 ∧ rx d.regs 9 = r.arg2 ∧ rx d.regs 10 = r.arg3 ∧
        d.msgid = r.mid ∧ d.ancb = rx d.regs 4 ∧ d.ancl = rx d.regs 5 ∧
        d.tstat = (if r.trapped then BitVec.ofNat 64 (2 ^ 6 + r.nsend.toNat * 2 ^ 24) else 0) ∧
        (∀ j, j < 64 → j < 4 ∨ 10 < j → rx d.regs j = rx c.regs j)) ∧
    (∀ pc ap cls issuer mid l, core.inbound = { body := .launch pc ap cls issuer, mid := mid, held := none } :: l →
      freeCtx s n = some k → core.halted = false → core.part.isSome = true → issuer ≠ (n, k) →
      ∃ t, exec (.inboundDelivery n) s = .next t ∧ (coreAt t n).inbound = l ∧
        (ctxAt t n k).running = true ∧ (ctxAt t n k).base = cls ∧ (ctxAt t n k).pc = pc % 2 ^ 19 ∧
        rx (ctxAt t n k).regs 3 = ap ∧ (ctxAt t issuer.1 issuer.2).wfa = (ctxAt s issuer.1 issuer.2).wfa + 1 ∧
        (ctxAt t issuer.1 issuer.2).treel = (ctxAt s issuer.1 issuer.2).treel - 1) ∧
    (∀ h base bytes cause addr total mid l,
      core.inbound = { body := .handler h base bytes cause addr total, mid := mid, held := none } :: l →
      freeCtx s n = some k → core.halted = false → core.part.isSome = true → handlerValid s n h = true →
      ∃ t, exec (.inboundDelivery n) s = .next t ∧ (coreAt t n).inbound = l ∧
        let d := ctxAt t n k
        d.running = true ∧ d.pc = 8 * (handlerDword s n h % 2 ^ 16) ∧ rx d.regs 4 = base ∧ rx d.regs 5 = bytes ∧
        rx d.regs 6 = mid ∧ rx d.regs 7 = cause ∧ rx d.regs 8 = addr ∧ rx d.regs 9 = total ∧
        rx d.regs 10 = BitVec.ofNat 64 h) ∧
    (∀ u l, core.upcalls = u :: l → core.upcvec.getLsbD 63 = true → core.upcvec.toNat / 2 ^ 16 % 8 = k →
      c.running = false → c.reserved = false → core.halted = false → core.preempt = false →
      (partAt s (partOf s n)).loading = false → Untraced s n →
      ∃ t, exec (.upcallStart n) s = .next t ∧ (coreAt t n).upcalls = l ∧
        let d := ctxAt t n k
        d.running = true ∧ d.upcall = true ∧ d.pc = 8 * (core.upcvec.toNat % 2 ^ 16) ∧ d.base = u.cls ∧
        rx d.regs 4 = u.va ∧ rx d.regs 5 = u.info ∧ rx d.regs 6 = BitVec.ofNat 64 u.pc) ∧
    exec (.preemptionRequest n) s = .next (modCore s n fun x => { x with preempt := true }) ∧
    exec (.preemptionLift n) s = .next (modCore s n fun x => { x with preempt := false }) ∧
    (core.preempt = true → freeCtx s n = none) ∧
    (∀ q, core.part = some q → (partAt s q).tdi = .run →
      ((partAt s q).policy.getLsbD 0 = true →
        (core.halted = false → Untraced s n →
          exec (.halt n) s = .next (modCore s n fun x => { x with halted := true, haltAt := s.cycle })) ∧
        (core.halted = true → exec (.halt n) s = .next s) ∧
        (core.halted = true → exec (.resume n) s = .next (modCore s n fun x =>
          { x with halted := false, ctxs := x.ctxs.map fun e =>
              (e.1, { e.2 with bpSkip := true, budget0 :=
                if x.haltAt ≤ e.2.budget0 then s.cycle else e.2.budget0 + (s.cycle - x.haltAt) }) }))) ∧
      ((partAt s q).policy.getLsbD 0 = false → exec (.halt n) s = .next s ∧ exec (.resume n) s = .next s) ∧
      ((partAt s q).live = true → (partAt s q).cut = none → inPart s q n = true →
        serviceBusy s (windowService s q) q s.accessId = false →
        let u : State := { s with accessId := s.accessId + 1 }
        ((partAt s q).policy.getLsbD 0 = true →
          (∀ v i, i < 4 → exec (.debugRegisterWrite n (0x10 + 8 * i) v) s = .next (modCore u n fun x =>
            { x with bp := x.bp.set i (v &&& 0xC00000000000FFFF) })) ∧
          (∀ v i, i < 2 → exec (.debugRegisterWrite n (0x30 + 8 * i) v) s = .next (modCore u n fun x =>
            { x with wpa := x.wpa.set i v }))) ∧
        (∀ v, exec (.debugRegisterWrite n 0x50 v) s = .next (if (partAt s q).policy.getLsbD 1 then
          modCore u n fun x => { x with trctl := v &&& 0x81FFFFFFFFFF0000 } else u)) ∧
        (∀ i, i < 4 → q < 64 → exec (.hostRead q (2 ^ 57 + 0x100010 + 256 * n + 8 * i) 8) s = .next (modPart u q fun x =>
          { x with answers := x.answers ++ [(s.accessId, some (toBytes
            (if (partAt s q).policy.getLsbD 0 then core.bp.getD i 0 else 0).toNat 8))] }))))

/-- R19, R20, R25 to R27, R31, R34, R60, R362: messages arrive in the order of their channels. One for a home queue
reaches its controller, which serves it in its turn: with room it takes a record under the next identifier and order
number, in its front section while that is all there is; a full queue keeps the message; a retirement ends the task's
running; a launch-tree message is queued and sent on. -/
def Obligations.MessagesReachTheirQueues : Prop :=
  (∀ (s : State) (i : Nat) (m : Msg), s.msgs[i]? = some m → m.arr = none →
    (∀ x ∈ s.msgs.take i, x.src = m.src → msgTo x = msgTo m → x.arr ≠ none) →
    (∀ slice p r, m.body = .enqueue slice p r →
      exec (.enqueue i) s = .next { s with msgs := s.msgs.set i { m with arr := some s.cycle } }) ∧
    (∀ slice p mid, m.body = .retire slice p mid →
      exec (.retirement i) s = .next { s with msgs := s.msgs.set i { m with arr := some s.cycle } })) ∧
  (∀ (s : State) (i slice p : Nat) (r : TaskRecord) (m : Msg), s.msgs[i]? = some m → m.body = .enqueue slice p r →
    m.arr.isSome = true → (partAt s p).cut = none →
    (dueAt s (.queue slice p) = some (.msg i) →
      let u := noteOp (modSP { s with msgs := s.msgs.eraseIdx i } slice p fun q => enqueueHome q slice r) (.queue slice p)
      exec (.enqueue i) s = .next u ∧ doWork s (.ctl (.msg i)) = .next u) ∧
    (dueAt s (.queue slice p) ≠ some (.msg i) → exec (.enqueue i) s = .next s) ∧
    (16384 ≤ depth (spAt s slice p) → exec (.enqueue i) s = .next s)) ∧
  (∀ (q : SlicePart) (slice : Nat) (r : TaskRecord),
    let t : QTask := { record := { r with mid := midHome slice q.seq }, order := q.order }
    depth (enqueueHome q slice r) = depth q + 1 ∧ (enqueueHome q slice r).seq = q.seq + 1 ∧
    (enqueueHome q slice r).order = q.order + 1 ∧
    (q.spill = [] → q.back = [] → q.front.length < 512 → (enqueueHome q slice r).front = q.front ++ [t]) ∧
    (¬ (q.spill = [] ∧ q.back = [] ∧ q.front.length < 512) → (enqueueHome q slice r).front = q.front ∧
      (q.back.length < 512 → (enqueueHome q slice r).back = q.back ++ [t]))) ∧
  (∀ (s : State) (i n p : Nat) (r : TaskRecord) (m : Msg), s.msgs[i]? = some m → m.body = .inbound n p (.task r false) → channelHead s i m = true →
    (partAt s p).cut = none →
    (4096 ≤ inboundUsed (coreAt s n) → exec (.enqueue i) s = .next s) ∧
    (inboundUsed (coreAt s n) < 4096 →
    exec (.enqueue i) s = .next (modCore { s with msgs := s.msgs.eraseIdx i } n fun c =>
      { c with seq := c.seq + 1,
               inbound := c.inbound ++ [{ body := .task { r with mid := midCore n c.seq } false, mid := midCore n c.seq }] }))) ∧
  (∀ (s : State) (i slice p : Nat) (mid : Dword) (m : Msg), s.msgs[i]? = some m → m.body = .retire slice p mid →
    m.arr.isSome = true → (partAt s p).cut = none →
    (dueAt s (.queue slice p) = some (.msg i) →
      let u := noteRet (modSP { s with msgs := s.msgs.eraseIdx i } slice p fun q =>
        { q with running := q.running.filter fun r => r.mid != mid }) slice p
      exec (.retirement i) s = .next u ∧ doWork s (.ctl (.msg i)) = .next u) ∧
    (dueAt s (.queue slice p) ≠ some (.msg i) → exec (.retirement i) s = .next s)) ∧
  (∀ (s : State) (slice p i : Nat), (spAt s slice p).lastRet ≠ some s.cycle → queueRet s slice p = some i →
    dueAt s (.queue slice p) = some (.msg i)) ∧
  (∀ (s : State) (i n p pc : Nat) (ap : Dword) (cls : BitVec 2) (issuer : Nat × Nat) (root : Nat) (mem : List Nat) (m : Msg),
    s.msgs[i]? = some m → m.body = .launch n p pc ap cls issuer root mem → channelHead s i m = true →
    (partAt s p).cut = none → (∀ x ∈ s.msgs, sameLaunch m x = true → msgBlocked s x = false) →
    ∃ t, exec (.launchTreeMessage i) s = .next t ∧
      (coreAt t n).inbound =
        (coreAt s n).inbound ++ [{ body := .launch pc ap cls issuer, mid := midCore n (coreAt s n).seq }] ∧
      t.msgs = s.msgs.eraseIdx i ++ (if n = root then [] else (treeChildren root mem n).map fun d =>
        { src := n, body := .launch d p pc ap cls issuer root mem }))

/-- R177 to R179, R195 to R198, R257, R316, R325, R328 to R330, R399, R400: what happens at the homes and their
governors without an instruction: walks and re-walks, token attempts, host and peer requests, HBM errors and leave.
Where the model chooses: which peer's request is refused or waits, and what it is answered, is log 83; how the tokens
of a line move is log 29; when an HBM error and its retry come is log 66; which walk runs first is log 69. -/
def Obligations.HomesActOnTheirEvents : Prop :=
  (∀ (s : State) (slice i : Nat) (a : Access), slice < 256 →
    (s.accesses.filter fun x => x.stage == .walk slice)[i]? = some a →
    (walkable s a = true → exec (.pageWalk slice i) s = .next (runAny s { walk := true } a)) ∧
    (walkable s a = false → exec (.pageWalk slice i) s = .next s)) ∧
  (∀ (s u : State) (slice p va : Nat) (write host : Bool) (fuel lvl table : Nat),
    let w := partAt s p
    let ea := table + 8 * (va / 2 ^ (12 + 9 * lvl) % 512)
    let at_ := w.walkcfg.toNat / 2 ^ 30 % 2 ^ 27 * 2 ^ 30 + ea % 2 ^ 30
    fillWindow s p at_ = .ok u →
    let e := scPeek u (lineKey p at_) (at_ % 64) 8
    let bad : Bool := bits e 52 12 != 0 || bitAt e 10
    (bad = true → walkFrom slice p va write host (fuel + 1) s lvl table = .refuse u 0x18 lvl) ∧
    (bitAt e 11 = true → 0 < lvl → lvl < 3 → bitAt e 2 = false →
      walkFrom slice p va write host (fuel + 1) s lvl table = .refuse u 0x18 lvl) ∧
    (bad = false → bitAt e 11 = false → bitAt e 0 = false → walkFrom slice p va write host (fuel + 1) s lvl table =
      .park (armMonitor u p (at_ / 64)) (at_ / 64) 1 lvl) ∧
    (bad = false → bitAt e 11 = false → bitAt e 0 = true → 0 < lvl → bitAt e 2 = false →
      bits e 30 22 = w.ptroot.toNat / 2 ^ 30 % 2 ^ 22 → walkFrom slice p va write host (fuel + 1) s lvl table =
        walkFrom slice p va write host fuel (walkEnter u slice
          { part := p, level := lvl, tag := va / 2 ^ (12 + 9 * lvl) % 2 ^ (45 - 9 * lvl), table := bits e 12 40 * 4096 })
          (lvl - 1) (bits e 12 40 * 4096)) ∧
    (bad = false → bitAt e 11 = false → bitAt e 0 = true → lvl = 0 → bitAt e 5 = false → bitAt e 6 = true →
      write = false → leafRefused w (bits e 12 40 * 4096 + va % 4096) (BitVec.ofNat 2 (bits e 3 2)) (bitAt e 8) (bitAt e 9) =
        false →
      let t : Tlb := { part := p, base := va / 4096 * 4096, size := 4096, frame := bits e 12 40 * 4096, w := bitAt e 1,
                       d := bitAt e 7, ct := BitVec.ofNat 2 (bits e 3 2), hw := bitAt e 8, dup := bitAt e 9, pte := at_,
                       leaf := e ||| 64 }
      walkFrom slice p va write host (fuel + 1) s lvl table = .ok (tlbEnter (noteType u p at_ (e ||| 64)) slice t) t)) ∧
  (∀ (s : State) (slice : Nat) (a : Access), slice < 256 → s.accesses.filter (unwatched s slice) = [a] → isParked a = true →
    (s.accesses.find? fun x => x.id == a.id && isParked x) = some a →
    exec (.monitorRewalk slice) s = .next (rewalk s a)) ∧
  (∀ (s : State) (i : Nat) (a : Access) (j : Nat), s.accesses[i]? = some a → a.stage = .token j none →
    (s.cycle < a.sent + 2048 → exec (.transientTimeout i) s = .next s) ∧
    (a.sent + 2048 ≤ s.cycle → j < 3 → exec (.transientTimeout i) s =
      .next (keepAccess (dropAccess s a.id) { a with stage := .token (j + 1) none, sent := s.cycle })) ∧
    (a.sent + 2048 ≤ s.cycle → 3 ≤ j → agentBusy s a = false → exec (.transientTimeout i) s =
      .next (keepAccess (dropAccess s a.id) { a with stage := .token 4 (some s.cycle), sent := s.cycle }))) ∧
  (∀ (s : State) (p line : Nat) (a : Access), p < 64 →
    let l := s.accesses.filter fun x => x.part == p && headVa x / 64 == line && (persistentSince x).isSome
    firstServed s l = some a →
    let t := runAny s { grant := true, active := true } a
    let aged (b : Access) : Access := if l.any (fun c => c.id == b.id) = true then { b with sent := s.cycle } else b
    exec (.persistentActivate p line) s = .next { t with accesses := t.accesses.map aged }) ∧
  (∀ (s : State) (l : List Access) (a : Access), firstServed s l = some a →
    a ∈ l ∧ ∀ b ∈ l, servedFirst s a b = true) ∧
  (∀ (s : State) (p va size : Nat) (h : HomeLine) (t : Tlb), p < 64 → va + size ≤ 2 ^ 57 → 0 < size →
    va % 64 + size ≤ 64 →
    (partAt s p).cut = none → (partAt s p).live = true → (partAt s p).tdi = .run → (∀ a ∈ s.accesses, a.host = false) →
    (∀ e ∈ s.parts, e.2.winQ = []) → (partAt s p).transit = [] → inWindow (partAt s p) va = false → tlbFind s (homeIn s p va) p va = some t → t.dup = false → t.hw = false → t.ct = 1 →
    homeLine s (lineKey p va) = some h → isPeer h.pa = false → h.eng = none →
    (∃ u, exec (.hostRead p va size) s = .next u ∧ u.accessId = s.accessId + 1 ∧
      (partAt u p).answers = (partAt s p).answers ++
        [(s.accessId, some (toBytes (bytesAt s (.home (homeIn s p va) (lineKey p va)) (va % 64) size) size))]) ∧
    (∀ b, b.length = size → t.w = true → t.d = true →
      ∃ u, exec (.hostWrite p va b) s = .next u ∧ u.accessId = s.accessId + 1 ∧
        (∀ j, j < size → byteOf u (.home (homeIn s p va) (lineKey p va)) (va % 64 + j) = b.getD j 0) ∧
        KeptBut s u (.home (homeIn s p va) (lineKey p va)) (va % 64) size)) ∧
  (∀ (s : State) (p va size : Nat), p < 64 → va + size ≤ 2 ^ 57 → 0 < size → (partAt s p).cut = none →
    (partAt s p).tdi ≠ .run →
    exec (.hostRead p va size) s = .next (modPart { s with accessId := s.accessId + 1 } p fun q =>
      { q with answers := q.answers ++ [(s.accessId, none)] }) ∧
    (∀ b, b.length = size → exec (.hostWrite p va b) s = .next (modPart { s with accessId := s.accessId + 1 } p fun q =>
      { q with aer := q.aer ++ [(va, size)] }))) ∧
  (∀ (s : State) (pa : Nat), peerBad s pa = true → (∀ x ∈ s.peerWait, peerHeld s x = true) →
    exec (.peerRequest (.miss pa)) s = .next { s with peerOut := s.peerOut ++ [(pa, none)] }) ∧
  (∀ (s : State) (pa : Nat), pa < 2 ^ 39 → (frameAt s pa).poisoned = false → keyOfPa s pa = none →
    s.parts.any (fun e => e.2.live && granted e.2 pa) = true → s.retries.contains (pa / 64) = true →
    exec (.peerRequest (.miss pa)) s = .next { s with peerWait := s.peerWait ++ [.miss pa] }) ∧
  (∀ (s : State) (pa : Nat), pa < 2 ^ 39 → pa % 8 = 0 → (frameAt s pa).poisoned = false → keyOfPa s pa = none →
    s.parts.any (fun e => e.2.live && granted e.2 pa) = true → s.retries.contains (pa / 64) = false →
    (∀ e ∈ s.parts, e.2.cut = none) → (∀ x ∈ s.peerWait, peerHeld s x = true) →
    let d := paLine s pa
    exec (.peerRequest (.miss pa)) s = .next { s with peerOut := s.peerOut ++ [(pa, some d.1)] } ∧
    (∀ x m, exec (.peerRequest (.writeback pa x m)) s = .next (setPaLine s pa (lineMerge d.1 x m) d.2)) ∧
    (∀ b c, exec (.peerRequest (.atomic pa 0 b c)) s = .next
      (answerPeer (setPaLine s pa (linePut d.1 (pa % 64) 8 (BitVec.ofNat 64 (lineGet d.1 (pa % 64) 8) + b).toNat) d.2) pa
        (some (BitVec.ofNat 512 (lineGet d.1 (pa % 64) 8 % 2 ^ 64))))) ∧
    (∀ x, d.2 &&& dwordMask (pa % 64) 8 = 0 → exec (.peerRequest (.fullWrite pa x)) s = .next
      (answerPeer (setPaLine s pa (linePut d.1 (pa % 64) 8 x.toNat) (d.2 ||| dwordMask (pa % 64) 8)) pa (some 0))) ∧
    (d.2 &&& dwordMask (pa % 64) 8 = 0 → exec (.peerRequest (.fullRead pa)) s = .next
      { s with peerWait := s.peerWait ++ [.fullRead pa] }) ∧
    (d.2 &&& dwordMask (pa % 64) 8 ≠ 0 → exec (.peerRequest (.fullRead pa)) s = .next
      { s with peerOut := s.peerOut ++ [(pa, some (BitVec.ofNat 512 (lineGet d.1 (pa % 64) 8)))] }) ∧
    exec (.peerRequest (.fullClear pa)) s = .next (dropSeal (setPaLine s pa d.1 0) pa)) ∧
  (∀ (s : State) (line : Nat),
    (s.retries.contains line = false → keyOfPa s (64 * line) = none →
      exec (.hbmReadError line) s = .next { s with retries := s.retries ++ [line] }) ∧
    (s.retries.contains line = true → (∀ a ∈ s.accesses, onRetry line a = false) →
      (∃ t, exec (.hbmRetry line true) s = .next t ∧ t.retries = s.retries.filter (· != line) ∧ t.hbm = s.hbm ∧
        t.frames = s.frames ∧ t.accesses = s.accesses) ∧
      (∃ t, exec (.hbmRetry line false) s = .next t ∧ t.retries = s.retries.filter (· != line) ∧
        (frameAt t (64 * line)).poisoned = true ∧ t.poisonLog = s.poisonLog ++ [64 * line / 4096 * 4096] ∧
        ∀ q, inRanges (partAt t q).granted (64 * line / 4096 * 4096) = false))) ∧
  (∀ (s : State) (die : Nat) (r : LeaveReq), die < 4 →
    let d := dieAt s die
    (∀ v, exec (.limitChange die 0 v) s = .next (modDie s die fun d => { d with blim := min v 16 }) ∧
      exec (.limitChange die 1 v) s = .next (modDie s die fun d => { d with clim := min v 64 })) ∧
    (d.clim ≤ (d.holders.filter fun x => x.kind == 1).length → exec (.powerLeaveGrant die 1) s = .next s) ∧
    ((d.holders.filter fun x => x.kind == 1).length < d.clim →
      oldestLeave (d.leaveQ.filter fun x => x.kind == 1) = some r →
      ∃ t, exec (.powerLeaveGrant die 1) s = .next t ∧ (dieAt t die).holders = d.holders ++ [r] ∧
        (dieAt t die).leaveQ = d.leaveQ.filter fun x => x != r) ∧
    (∀ b, (d.holders.filter fun x => x.kind == 0).length < d.blim →
      oldestLeave (d.leaveQ.filter fun x => x.kind == 0) = some r → (cluAt s (r.core / 8)).chosen = some b →
      b.core = r.core → b.ctx = r.ctx → b.dead = false →
      ∃ t, exec (.powerLeaveGrant die 0) s = .next t ∧ (dieAt t die).holders = d.holders ++ [r] ∧
        (cluAt t (r.core / 8)).holder = some (b.core, b.ctx) ∧ (cluAt t (r.core / 8)).remain = b.n ∧
        (ctxAt t b.core b.ctx).wait = none)) ∧
  (∀ (s : State) (clu : Nat) (b : Belay), clu < 64 → (cluAt s clu).holder = none → (cluAt s clu).chosen = none →
    pickBelay s clu = some b →
    ∃ t, exec (.belayGrant clu) s = .next t ∧ (cluAt t clu).chosen = some b ∧
      (cluAt t clu).belays = dropFirst b (cluAt s clu).belays ∧
      (dieAt t (clu / 16)).leaveQ = (dieAt s (clu / 16)).leaveQ ++
        [{ kind := 0, core := b.core, ctx := b.ctx, copy := 0, cycle := s.cycle }])

/-- R57 to R59, R65, R354, R380, R389 to R393, R398: a create command brings a partition up on free units and zeroed
frames; teardown clears it and its frames; a start ends every partition; the TDI moves as TDISP asks; a launch, load or
release record is accepted while the function runs. Where the model chooses: what a create command that breaks a rule
does (log 90), what a warm start keeps (log 91), that START is taken whole as the pc (log 93), that a misaligned OBJ or
DBASE is BAD_OBJECT (log 94), and that HBM lists nothing after a cold start (log 4). -/
def Obligations.FirmwareActsOnPartitions : Prop :=
  (∀ (s : State) (c : PartitionSpec), c.part < 64 → createBad s c = true → exec (.partitionCreate c) s = .next s) ∧
  (∀ (s : State) (c : PartitionSpec), c.part < 64 → createBad s c = false →
    ∃ t, exec (.partitionCreate c) s = .next t ∧
      let q := partAt t c.part
      q.live = true ∧ q.clusters = c.clusters ∧ q.slices = c.slices ∧ q.ceiling = c.ceiling ∧
      (∀ i, i < 64 → q.ptroot.getLsbD i = (c.ptroot.getLsbD i && decide (12 ≤ i ∧ i < 52))) ∧
      (∀ i, i < 64 → q.walkcfg.getLsbD i = (c.walkcfg.getLsbD i && decide (24 ≤ i ∧ i < 26 ∨ 30 ≤ i ∧ i < 57))) ∧ q.bodytab = 0 ∧ q.policy = 0 ∧ q.tdi = .unlocked ∧ q.tenantKey = none ∧ q.groups = [] ∧
      (∀ p, p ≠ c.part → partAt t p = partAt s p) ∧
      (∀ a, inRanges q.granted a = true → bget t.hbm a = 0 ∧ keyAt t.hbmKeys a = q.memKey) ∧
      (∀ a, inRanges q.granted a = false → bget t.hbm a = bget s.hbm a) ∧
      (∀ n, n ∈ coresOf t c.part → (coreAt t n).part = some c.part ∧ (coreAt t n).ctxs = [] ∧ (coreAt t n).tcm = [] ∧
        (coreAt t n).xb = 0 ∧ (coreAt t n).tbudget.toNat = min 0x1000000 c.ceiling.toNat)) ∧
  (∀ (s : State) (p : Nat), p < 64 →
    ((partAt s p).live = false → exec (.partitionTeardown p) s = .next s) ∧
    ((partAt s p).live = true →
      ∃ t, exec (.partitionTeardown p) s = .next t ∧ (partAt t p).live = false ∧ (partAt t p).granted = [] ∧
        (partAt t p).hkey = 0 ∧ (partAt t p).memKey = 0 ∧ (partAt t p).image = (partAt s p).image ∧
        (∀ a, inRanges (partAt s p).granted a = true → bget t.hbm a = 0) ∧
        (∀ a, inRanges (partAt s p).granted a = false → bget t.hbm a = bget s.hbm a) ∧
        (∀ n, (coreAt s n).part = some p → coreAt t n = {}) ∧ (∀ n, n ∈ (partAt s p).clusters → cluAt t n = {}) ∧
        (∀ a ∈ t.accesses, a.part ≠ p) ∧ (∀ m ∈ t.msgs, msgPart m ≠ p) ∧ ¬ (p + 1) ∈ t.sessions ∧
        (∀ x, ∀ e ∈ (sliceAt t x).hostbuf, e.part ≠ p) ∧
        (∀ j, j ≠ p → partAt t j = partAt s j))) ∧
  (∀ (s : State) (m : Bool),
    ∃ t, exec (.warmStart m) s = .next t ∧ t.cycle = 0 ∧ (∀ p, (partAt t p).live = false) ∧ t.hbm = s.hbm ∧ t.hbmKeys = s.hbmKeys ∧
      t.measured = m ∧ t.xmss = s.xmss ∧ t.flash = s.flash ∧ t.lifetime = { s.lifetime with warm := s.lifetime.warm + 1 } ∧
      (∀ n, coreAt t n = { counters := (coreAt s n).counters }) ∧ t.accesses = [] ∧ t.msgs = [] ∧
      ∀ d, (dieAt t d).blim = (dieAt s d).blim ∧ (dieAt t d).clim = (dieAt s d).clim) ∧
  (∀ s : State,
    ∃ t, exec .coldStart s = .next t ∧ t.cycle = 0 ∧ t.parts = [] ∧ t.cores = [] ∧ t.hbm = [] ∧ t.slices = [] ∧
      t.clusters = [] ∧ t.dies = [] ∧ t.xmss = s.xmss ∧ t.lifetime = { s.lifetime with cold := s.lifetime.cold + 1 }) ∧
  (∀ (s : State) (p : Nat), p < 64 → (partAt s p).live = true →
    ((partAt s p).tdi = .unlocked → exec (.tdispRequest p .lock) s = .next (modPart s p fun q => { q with tdi := .locked })) ∧
    ((partAt s p).tdi = .locked → exec (.tdispRequest p .start) s = .next (modPart s p fun q => { q with tdi := .run })) ∧
    exec (.tdispRequest p .stop) s = .next (modPart s p fun q => { q with tdi := .unlocked })) ∧
  (∀ (s : State) (p : Nat), p < 64 →
    let q := partAt s p
    let u : State := { s with accessId := s.accessId + 1 }
    let noted (i : Nat) (l : List Dword) : State := modPart u p fun q => { q with winRec := putDwords q.winRec i l }
    ((takesNone s p = true ∨ serviceBusy s (windowService s p) p s.accessId = true) →
      let waits (r : WinReq) : State := modPart u p fun q => { q with winQ := q.winQ ++ [(s.accessId, r)] }
      (∀ r, exec (.launchRecord p r) s = .next (waits (.launch r))) ∧
      (∀ r, exec (.loadRecord p r) s = .next (waits (.load r))) ∧
      (∀ w, exec (.releaseRecord p w) s = .next (waits (.release w)))) ∧
    (takesNone s p = false → serviceBusy s (windowService s p) p s.accessId = false →
      ((q.live = false ∨ q.tdi ≠ .run) → (∀ r, exec (.launchRecord p r) s = .next u) ∧
        (∀ r, exec (.loadRecord p r) s = .next u) ∧ ∀ w, exec (.releaseRecord p w) s = .next u) ∧
      (q.live = true → q.tdi = .run → q.cut = none →
        (∀ r, r.go = 0 → exec (.launchRecord p r) s = .next (noted 0 (launchDwords r))) ∧
        (q.launchQ = none → q.loading = false →
          (∀ r, r.go ≠ 0 → launchBad r = true → ∃ t, exec (.launchRecord p r) s = .next t ∧
            (partAt t p).launchGo = BitVec.allOnes 64 ∧ (partAt t p).launchQ = none ∧ t.cores = s.cores) ∧
          (∀ r k, r.go ≠ 0 → launchBad r = false → freeCtx s (baseCamp s p) = some k →
            (coreAt s (baseCamp s p)).halted = false → (coreAt s (baseCamp s p)).part = some p →
            ∃ t, exec (.launchRecord p r) s = .next t ∧ (partAt t p).launchGo = 0 ∧ (partAt t p).launchQ = none ∧
              (partAt t p).msix = q.msix ++ [1] ∧ (partAt t p).bodytab = r.bodyt ∧
              let d := ctxAt t (baseCamp s p) k
              d.running = true ∧ d.pc = r.start.toNat ∧ d.base.toNat = r.cls.toNat % 4 ∧ rx d.regs 3 = r.ap)) ∧
        (q.loadQ = none →
          (∀ r, r.go ≠ 0 → anyRunning s p = true → exec (.loadRecord p r) s =
            .next (modPart (noted 0x100 [r.obj, r.dbase]) p fun q => { q with loadStat := 7, loadGo := BitVec.allOnes 64 })) ∧
          (∀ r, r.go ≠ 0 → anyRunning s p = false → r.obj.toNat % 64 ≠ 0 →
            ∃ t, exec (.loadRecord p r) s = .next t ∧ (partAt t p).loadStat = 3 ∧ (partAt t p).loadGo = 0 ∧
              (partAt t p).loading = false ∧ (partAt t p).msix = q.msix ++ [1]) ∧
          (∀ r v i x, r.go ≠ 0 → anyRunning s p = false → loadsTo (loadAccepted s p r) p r = some (v, i, x) →
            ∃ t, exec (.loadRecord p r) s = .next t ∧ (partAt t p).loadGo = 0 ∧ (partAt t p).loading = false ∧
              (partAt t p).loadQ = none ∧ (partAt t p).loadStat.toNat = i % 256 * 2 ^ 48 ∧
              (partAt t p).msix = (partAt v p).msix ++ [1] ∧ t.hbm = v.hbm ∧ t.slices = v.slices ∧
              ∀ n c, ffind v.cores n = some c → c.part = some p →
                (coreAt t n).fetched = [] ∧ (coreAt t n).bodies = [] ∧
                (coreAt t n).tcm = (fillTcm x n c).tcm ∧ (coreAt t n).xb = (fillTcm x n c).xb)) ∧
        (∀ n k, inPart s p n = true → n < 768 → k < Config.contexts n → (ctxAt s n k).stopped = true →
          let w : Dword := BitVec.ofNat 64 (2 ^ 63 + k * 2 ^ 10 + n)
          exec (.releaseRecord p w) s = .next (makeDormant (leaveRope (noted 0x400 [w]) n k) n k)) ∧
        (∀ w : Dword, (ctxAt s (w.toNat % 2 ^ 10) (w.toNat / 2 ^ 10 % 8)).stopped = false →
          exec (.releaseRecord p w) s = .next (noted 0x400 [w])))))

/-- R367, R394 to R396: every SPDM request of a mailbox is answered; a signature takes the next index and the last is
2^20 − 1; a session opens at a verified FINISH and takes the tenant's key with it; a policy that the key signed replaces
the former one, and what it closes is disabled at once. That FINISH and END_SESSION clear the tenant's key, that the
mailbox of a function that is not up answers nothing, and the layout of what is signed are log 92, the model's choices.
-/
def Obligations.RequestsAreAttested : Prop :=
  ∀ (s : State) (m : Nat), m < 66 →
    let said (a : SpdmAnswer) (t : State) : State := { t with spdm := s.spdm ++ [a] }
    (∀ p, m = p + 1 → p < 64 → s.measured = false ∨ (partAt s p).live = false →
      exec (.getVersion m) s = .next s ∧ ∀ nonce, exec (.challenge m nonce) s = .next s) ∧
    ((∀ p, m = p + 1 → p < 64 → s.measured = true ∧ (partAt s p).live = true) →
    exec (.getVersion m) s = .next (said (.version m 0x13) s) ∧
    exec (.getCapabilities m) s = .next (said (.capabilities m [.getVersion, .getCapabilities, .negotiateAlgorithms,
      .getDigests, .getCertificate, .challenge, .getMeasurements, .keyExchange, .finish, .endSession,
      .vendorDefinedRequest]) s) ∧
    exec (.negotiateAlgorithms m) s = .next (said (.algorithms m .shake256x64 .aes256Gcm .xmssShake256h20) s) ∧
    exec (.getDigests m) s = .next (said (.digests m (BitVec.ofNat 512 (Config.shake256 Config.certChain 64))) s) ∧
    exec (.getCertificate m) s = .next (said (.certificate m Config.certChain) s) ∧
    (∀ nonce, s.xmss < 2 ^ 20 →
      let sign := Config.xmssSign s.xmss (toBytes nonce.toNat 32)
      exec (.challenge m nonce) s = .next { said (.signed m s.xmss sign) s with xmss := s.xmss + 1 } ∧
      exec (.keyExchange m nonce) s = .next { said (.signed m s.xmss sign) s with
        xmss := s.xmss + 1, exchanges := m :: s.exchanges.filter (· != m) }) ∧
    (∀ nonce, 2 ^ 20 ≤ s.xmss →
      exec (.challenge m nonce) s = .next (said (.errorUnspecified m) s) ∧
      exec (.keyExchange m nonce) s = .next (said (.errorUnspecified m) s)) ∧
    (∀ i, 1 ≤ i → i ≤ 5 →
      let a : SpdmAnswer := .measurement m i (blockDigest s m i) s.measured
      exec (.getMeasurements m i false) s = .next (said a s) ∧
      (s.xmss < 2 ^ 20 → exec (.getMeasurements m i true) s = .next { s with
        xmss := s.xmss + 1
        spdm := s.spdm ++ [a, .signed m s.xmss (Config.xmssSign s.xmss
          (toBytes i 1 ++ toBytes (blockDigest s m i).toNat 64))] })) ∧
    (m ∈ s.exchanges → exec (.finish m true) s = .next { said (.finished m) (dropKey s m) with
      exchanges := s.exchanges.filter (· != m), sessions := m :: s.sessions.filter (· != m) }) ∧
    (∀ p, m = p + 1 → p < 64 → (partAt (dropKey s m) p).tenantKey = none ∧
      { partAt (dropKey s m) p with tenantKey := (partAt s p).tenantKey } = partAt s p ∧
      ∀ j, j ≠ p → partAt (dropKey s m) j = partAt s j) ∧
    ((∃ t, exec (.finish m false) s = .next t ∧ t.sessions = s.sessions ∧ ¬ m ∈ t.exchanges)) ∧
    (∃ t, exec (.endSession m) s = .next t ∧ t.sessions = s.sessions.filter (· != m) ∧
      t.spdm = s.spdm ++ [.sessionEnd m] ∧ (∀ p, m = p + 1 → p < 64 → (partAt t p).tenantKey = none)) ∧
    (∀ r, ¬ m ∈ s.sessions → exec (.vendorDefinedRequest m r) s = .next (said (.vendor m false) s)) ∧
    (∀ p, m = p + 1 → p < 64 → m ∈ s.sessions → (partAt s p).live = true →
      (∀ k, (partAt s p).tdi = .unlocked →
        ∃ t, exec (.vendorDefinedRequest m (.installKey k)) s = .next t ∧
          t = said (.vendor m true) (modPart s p fun q => { q with tenantKey := some k })) ∧
      (∀ b, policyOk (partAt s p) b = false →
        exec (.vendorDefinedRequest m (.policy b)) s = .next (said (.vendor m false) s)) ∧
      (∀ b, policyOk (partAt s p) b = true →
        ∃ t, exec (.vendorDefinedRequest m (.policy b)) s = .next t ∧
          (partAt t p).policy = BitVec.ofNat 5 (byteField b 80 8) ∧ (partAt t p).policySeq = some (byteField b 72 8) ∧
          (partAt t p).dumpKey = BitVec.ofNat 256 (byteField b 88 32) ∧ t.spdm = s.spdm ++ [.vendor m true] ∧
          (byteField b 80 8 % 2 = 0 → ∀ n, (coreAt s n).part = some p →
            (coreAt t n).halted = false ∧ ∀ w ∈ (coreAt t n).bp ++ (coreAt t n).wpc, w.getLsbD 63 = false) ∧
          (byteField b 80 8 / 2 % 2 = 0 → ∀ n, (coreAt s n).part = some p → (coreAt t n).trctl.getLsbD 63 = false) ∧
          (byteField b 80 8 / 4 % 2 = 0 → (partAt t p).sampcfg.getLsbD 63 = false))))

/-- R362 to R366, R374 to R379, R397, R401: a sampling tick that is due is taken; a dump leaves encrypted; the lifetime
counters are flushed and read; a cut stops its cores between tasks, takes markers, and is resumed from its record. Where
the model chooses: a dump's header and nonce (log 87), what the lifetime counters have counted (log 68), which units
send and record a cut's markers (log 79), what is under way when it is recorded and resumed (logs 80 and 82), and how a
sample that cannot be stored is lost (log 85). -/
def Obligations.RunsAreSampledDumpedAndCut : Prop :=
  (∀ (s : State) (p : Nat), p < 64 →
    (tickDue s p = false → exec (.sampleTick p) s = .next s) ∧
    (tickDue s p = true → ∃ t, exec (.sampleTick p) s = .next t ∧ (partAt t p).sampAt = some s.cycle ∧
      (partAt t p).sampRef = slotMap (snapSlots s p) 0 ∧
      ((partAt t p).sampLost = true ∨ (partAt t p).sampCount = (partAt s p).sampCount + 1 ∨
        (partAt t p).sampcfg.getLsbD 63 = false)) ∧
    (tickDue s p = true → (partAt s p).live = true ∧ (partAt s p).sampcfg.getLsbD 63 = true ∧
      (partAt s p).policy.getLsbD 2 = true ∧ s.cycle % 2 ^ ((partAt s p).sampcfg.toNat / 2 ^ 8 % 2 ^ 5) = 0)) ∧
  (∀ (s : State) (n p : Nat), n < 768 → (coreAt s n).part = some p → (partAt s p).tdi = .run →
    ((partAt s p).policy.getLsbD 4 = false → exec (.dumpRequest n) s = .next s) ∧
    ((partAt s p).policy.getLsbD 4 = true → (coreAt s n).halted = false →
      exec (.dumpRequest n) s = .next (modPart s p fun q =>
        { q with dumpCount := q.dumpCount + 1
                 dumps := q.dumps ++ [(s.linkDown, toBytes s.cycle 8 ++ Config.aesGcm
                   (Config.shake256 (toBytes q.dumpKey.toNat 32 ++ toBytes n 8 ++ toBytes s.cycle 8) 32)
                   (n + q.dumpCount * 2 ^ 32) (dumpText s n))] }))) ∧
  (∀ s : State,
    (∀ b, exec (.pcieLinkDown b) s = .next { s with linkDown := b }) ∧
    let x := sensed s
    exec (.lifetimeFlush true) s = .next { x with flash := x.lifetime } ∧
    exec (.lifetimeFlush false) s = .next x ∧
    exec .counterRead s = .next { x with reads := s.reads ++ [x.lifetime] } ∧
    { x with lifetime := s.lifetime, free := s.free } = s ∧
    (∀ k, fget 0 s.lifetime.corrected k ≤ fget 0 x.lifetime.corrected k ∧
      fget 0 s.lifetime.droops k ≤ fget 0 x.lifetime.droops k ∧ fget 0 s.lifetime.temps k ≤ fget 0 x.lifetime.temps k) ∧
    x.lifetime.transient = s.lifetime.transient ∧ x.lifetime.poisonedN = s.lifetime.poisonedN ∧
    x.lifetime.leaves = s.lifetime.leaves ∧ x.lifetime.cold = s.lifetime.cold ∧ x.lifetime.warm = s.lifetime.warm) ∧
  (∀ (s : State) (p : Nat) (stop : Bool), p < 64 →
    ((partAt s p).live = true → (partAt s p).cut = none →
      ∃ t, exec (.consistentCut p stop) s = .next t ∧ (partAt t p).cut = some { stop := stop } ∧
        (∀ n, (coreAt s n).part = some p → (coreAt t n).preempt = true ∧ freeCtx t n = none) ∧
        (∀ n, (coreAt s n).part ≠ some p → coreAt t n = coreAt s n)) ∧
    ((partAt s p).cut.isSome = true → exec (.consistentCut p stop) s = .next s)) ∧
  (∀ (s : State) (p src dst : Nat) (c : Cut), p < 64 → (partAt s p).cut = some c →
    (markerOk s p src dst c = false → exec (.marker p src dst) s = .next s) ∧
    (markerOk s p src dst c = true → src < 768 → c.held = [] →
      let done : Bool := (cutInputs s p dst).all fun u => (u, dst) == (src, dst) || c.markers.contains (u, dst)
      let rec_ := if done then dst :: c.recorded else c.recorded
      let c' : Cut := { c with markers := (src, dst) :: c.markers, recorded := rec_ }
      ((cutUnits s p).all rec_.contains = false → exec (.marker p src dst) s =
        .next (modPart s p fun q => { q with cut := some c' })) ∧
      ((cutUnits s p).all rec_.contains = true → ∃ t, exec (.marker p src dst) s = .next t ∧
        (partAt t p).cut = none ∧
        let w := writeBackAll s p
        (partAt t p).image = some (cutImage w p (c.log ++ w.msgs.filter fun m => msgPart m == p)
          (w.peerWait.filter fun r => peerOf w r == some p) (w.reqs.filter fun q => inPart w p q.core &&
            match q.ask with | .arrive _ _ _ => true | _ => false))))) ∧
  (∀ (s : State) (p : Nat) (im : CutImage), p < 64 → (partAt s p).image = some im →
    (resumeOk s p im = false → exec (.cutResume p) s = .next s) ∧
    (resumeOk s p im = true → im.log = [] → (∀ e ∈ im.clus, e.2.copies = []) →
      ∃ t, exec (.cutResume p) s = .next t ∧ (partAt t p).bodytab = im.bodytab ∧ (partAt t p).groups = im.groups ∧
        (∀ h ∈ im.hosts, { h with stage := .ready, checked := false, again := none } ∈ t.accesses) ∧
        (∀ a ∈ t.accesses, a.part = p → (a ∈ s.accesses ∧ a.host = true ∧ a.stage = .untaken) ∨
          ∃ h ∈ im.hosts, a = { h with stage := .ready, checked := false, again := none }) ∧
        (∀ m ∈ t.msgs, msgPart m ≠ p) ∧
        (∀ q ∈ im.asks, q ∈ t.reqs) ∧ (∀ r ∈ im.links, r ∈ t.peerWait) ∧
        (∀ n c d, ffind s.cores n = some d → ffind im.cores n = some c → c.part = some p →
          coreAt t n = { withDebug c d with preempt := false })))

/-- R7, R151, R155, R390, R392 to R394: a step keeps every byte memory of the package in its canonical form, the images
that firmware has recorded among them. -/
def Obligations.StepKeepsMemoryOk : Prop :=
  ∀ s t : State, MemoryOk s → step s = .next t → MemoryOk t

/-- R390, R392, R398, R399: after reset there is no partition and nothing under way, every core is dormant, the limits
are at their nominal values, CYCLE is 0 and every memory is in canonical form. Registers without a stated reset value
are 0, the model's choice (log 1). -/
def Obligations.ResetIsInOrder : Prop :=
  let s := State.reset
  MemoryOk s ∧ s.cycle = 0 ∧ (∀ p, (partAt s p).live = false) ∧ (∀ n k, (ctxAt s n k).running = false) ∧
  s.accesses = [] ∧ s.msgs = [] ∧ (∀ d, (dieAt s d).blim = 16 ∧ (dieAt s d).clim = 64) ∧
  (∀ n i, (coreAt s n).counters.getD i 0 = 0) ∧ (∀ n k r, rx (ctxAt s n k).regs r = 0) ∧
  ∀ n, (coreAt s n).tbudget = 0x1000000 ∧ (coreAt s n).xb = 0

end
end

