-- ==== Sys2Proof/Laws/State.lean ====
section
/-! SUPPORT. Reading State after an update: finite maps, each unit after a write of that unit, and for every update
operation the fields it leaves. -/

namespace Sys2Proof.Machine

theorem fget_fset {α : Type} (d v : α) (m : FMap α) (k j : Nat) :
    fget d (fset m k v) j = if j = k then v else fget d m j := by
  induction m with
  | nil => by_cases h : k = j <;> simp [fset, fget, h, eq_comm]
  | cons e m ih =>
    obtain ⟨a, w⟩ := e
    simp only [fset]
    by_cases h1 : k < a
    · rw [if_pos h1]
      by_cases hj : k = j <;> simp [fget, hj, eq_comm]
    · rw [if_neg h1]
      by_cases h2 : k = a
      · rw [if_pos h2]; subst h2
        by_cases hj : k = j <;> simp [fget, hj, eq_comm]
      · rw [if_neg h2]
        by_cases hj : a = j
        · have : ¬ j = k := by omega
          simp [fget, hj, this]
        · simp [fget, hj, ih]

@[simp] theorem fget_fset_same {α : Type} (d v : α) (m : FMap α) (k : Nat) : fget d (fset m k v) k = v := by
  simp [fget_fset]
theorem fget_fset_other {α : Type} (d v : α) (m : FMap α) {k j : Nat} (h : j ≠ k) :
    fget d (fset m k v) j = fget d m j := by
  simp [fget_fset, h]
theorem ffind_fset {α : Type} (v : α) (m : FMap α) (k j : Nat) :
    ffind (fset m k v) j = if j = k then some v else ffind m j := by
  induction m with
  | nil => by_cases h : k = j <;> simp [fset, ffind, h, eq_comm]
  | cons e m ih =>
    obtain ⟨a, w⟩ := e
    simp only [fset]
    by_cases h1 : k < a
    · rw [if_pos h1]
      by_cases hj : k = j <;> simp [ffind, hj, eq_comm]
    · rw [if_neg h1]
      by_cases h2 : k = a
      · rw [if_pos h2]; subst h2
        by_cases hj : k = j <;> simp [ffind, hj, eq_comm]
      · rw [if_neg h2]
        by_cases hj : a = j
        · have : ¬ j = k := by omega
          simp [ffind, hj, this]
        · simp [ffind, hj, ih]

theorem coreAt_setCore (s : State) (n j : Nat) (c : Core) :
    coreAt (setCore s n c) j = if j = n then c else coreAt s j := by simp [coreAt, setCore, fget_fset]
@[simp] theorem coreAt_setCore_same (s : State) (n : Nat) (c : Core) : coreAt (setCore s n c) n = c := by
  simp [coreAt_setCore]
theorem coreAt_modCore (s : State) (n j : Nat) (f : Core → Core) :
    coreAt (modCore s n f) j = if j = n then f (coreAt s n) else coreAt s j := by simp [modCore, coreAt_setCore]
@[simp] theorem coreAt_modCore_same (s : State) (n : Nat) (f : Core → Core) :
    coreAt (modCore s n f) n = f (coreAt s n) := by simp [coreAt_modCore]
/-- A core after a write of one of its contexts. -/
theorem coreAt_modCtx (s : State) (n k j : Nat) (f : Ctx → Ctx) :
    coreAt (modCtx s n k f) j =
      if j = n then { coreAt s n with ctxs := fset (coreAt s n).ctxs k (f (ctxAt s n k)) } else coreAt s j := by
  simp [modCtx, coreAt_modCore, ctxAt]
theorem ctxAt_modCtx (s : State) (n k n' k' : Nat) (f : Ctx → Ctx) :
    ctxAt (modCtx s n k f) n' k' = if n' = n ∧ k' = k then f (ctxAt s n k) else ctxAt s n' k' := by
  unfold ctxAt
  rw [coreAt_modCtx]
  by_cases h : n' = n
  · subst h; simp [fget_fset, ctxAt]
  · simp [h]
@[simp] theorem ctxAt_modCtx_same (s : State) (n k : Nat) (f : Ctx → Ctx) :
    ctxAt (modCtx s n k f) n k = f (ctxAt s n k) := by simp [ctxAt_modCtx]
@[simp] theorem cur_modCur (s : State) (f : Ctx → Ctx) : cur (modCur s f) = f (cur s) := by
  show ctxAt (modCtx s s.core s.ctx f) s.core s.ctx = _; simp [cur]
theorem cluAt_modClu (s : State) (n j : Nat) (f : Cluster → Cluster) :
    cluAt (modClu s n f) j = if j = n then f (cluAt s n) else cluAt s j := by simp [cluAt, modClu, fget_fset]
@[simp] theorem cluAt_modClu_same (s : State) (n : Nat) (f : Cluster → Cluster) :
    cluAt (modClu s n f) n = f (cluAt s n) := by simp [cluAt_modClu]
theorem sliceAt_modSlice (s : State) (n j : Nat) (f : Slice → Slice) :
    sliceAt (modSlice s n f) j = if j = n then f (sliceAt s n) else sliceAt s j := by
  simp [sliceAt, modSlice, fget_fset]
theorem spAt_modSP (s : State) (n p n' p' : Nat) (f : SlicePart → SlicePart) :
    spAt (modSP s n p f) n' p' = if n' = n ∧ p' = p then f (spAt s n p) else spAt s n' p' := by
  unfold spAt modSP
  rw [sliceAt_modSlice]
  by_cases h : n' = n
  · subst h; simp [fget_fset]
  · simp [h]
@[simp] theorem spAt_modSP_same (s : State) (n p : Nat) (f : SlicePart → SlicePart) :
    spAt (modSP s n p f) n p = f (spAt s n p) := by simp [spAt_modSP]
theorem partAt_modPart (s : State) (n j : Nat) (f : Partition → Partition) :
    partAt (modPart s n f) j = if j = n then f (partAt s n) else partAt s j := by simp [partAt, modPart, fget_fset]
@[simp] theorem partAt_modPart_same (s : State) (n : Nat) (f : Partition → Partition) :
    partAt (modPart s n f) n = f (partAt s n) := by simp [partAt_modPart]
theorem dieAt_modDie (s : State) (n j : Nat) (f : Die → Die) :
    dieAt (modDie s n f) j = if j = n then f (dieAt s n) else dieAt s j := by simp [dieAt, modDie, fget_fset]
@[simp] theorem dieAt_modDie_same (s : State) (n : Nat) (f : Die → Die) :
    dieAt (modDie s n f) n = f (dieAt s n) := by simp [dieAt_modDie]

section setCoreFields
variable (s : State) (n : Nat) (c : Core)
@[simp] theorem setCore_cycle : (setCore s n c).cycle = s.cycle := rfl
@[simp] theorem setCore_schedule : (setCore s n c).schedule = s.schedule := rfl
@[simp] theorem setCore_core : (setCore s n c).core = s.core := rfl
@[simp] theorem setCore_ctx : (setCore s n c).ctx = s.ctx := rfl
@[simp] theorem setCore_latch : (setCore s n c).latch = s.latch := rfl
@[simp] theorem setCore_tail : (setCore s n c).tail = s.tail := rfl
@[simp] theorem setCore_free : (setCore s n c).free = s.free := rfl
@[simp] theorem setCore_turn : (setCore s n c).turn = s.turn := rfl
@[simp] theorem setCore_clusters : (setCore s n c).clusters = s.clusters := rfl
@[simp] theorem setCore_slices : (setCore s n c).slices = s.slices := rfl
@[simp] theorem setCore_dies : (setCore s n c).dies = s.dies := rfl
@[simp] theorem setCore_parts : (setCore s n c).parts = s.parts := rfl
@[simp] theorem setCore_accesses : (setCore s n c).accesses = s.accesses := rfl
@[simp] theorem setCore_accessId : (setCore s n c).accessId = s.accessId := rfl
@[simp] theorem setCore_copyId : (setCore s n c).copyId = s.copyId := rfl
@[simp] theorem setCore_msgs : (setCore s n c).msgs = s.msgs := rfl
@[simp] theorem setCore_hbm : (setCore s n c).hbm = s.hbm := rfl
@[simp] theorem setCore_frames : (setCore s n c).frames = s.frames := rfl
@[simp] theorem setCore_wsMeta : (setCore s n c).wsMeta = s.wsMeta := rfl
@[simp] theorem setCore_retries : (setCore s n c).retries = s.retries := rfl
@[simp] theorem setCore_hostMem : (setCore s n c).hostMem = s.hostMem := rfl
@[simp] theorem setCore_peerMem : (setCore s n c).peerMem = s.peerMem := rfl
@[simp] theorem setCore_peerOut : (setCore s n c).peerOut = s.peerOut := rfl
@[simp] theorem setCore_peerFull : (setCore s n c).peerFull = s.peerFull := rfl
@[simp] theorem setCore_xmss : (setCore s n c).xmss = s.xmss := rfl
@[simp] theorem setCore_exchanges : (setCore s n c).exchanges = s.exchanges := rfl
@[simp] theorem setCore_sessions : (setCore s n c).sessions = s.sessions := rfl
@[simp] theorem setCore_spdm : (setCore s n c).spdm = s.spdm := rfl
@[simp] theorem setCore_measured : (setCore s n c).measured = s.measured := rfl
@[simp] theorem setCore_linkDown : (setCore s n c).linkDown = s.linkDown := rfl
@[simp] theorem setCore_lifetime : (setCore s n c).lifetime = s.lifetime := rfl
@[simp] theorem setCore_flash : (setCore s n c).flash = s.flash := rfl
@[simp] theorem setCore_reads : (setCore s n c).reads = s.reads := rfl
@[simp] theorem setCore_poisonLog : (setCore s n c).poisonLog = s.poisonLog := rfl
@[simp] theorem setCore_reqs : (setCore s n c).reqs = s.reqs := rfl
@[simp] theorem setCore_hbmKeys : (setCore s n c).hbmKeys = s.hbmKeys := rfl
@[simp] theorem setCore_peerWait : (setCore s n c).peerWait = s.peerWait := rfl
@[simp] theorem setCore_refusedWb : (setCore s n c).refusedWb = s.refusedWb := rfl
end setCoreFields

section modCoreFields
variable (s : State) (n : Nat) (f : Core → Core)
@[simp] theorem modCore_cycle : (modCore s n f).cycle = s.cycle := rfl
@[simp] theorem modCore_schedule : (modCore s n f).schedule = s.schedule := rfl
@[simp] theorem modCore_core : (modCore s n f).core = s.core := rfl
@[simp] theorem modCore_ctx : (modCore s n f).ctx = s.ctx := rfl
@[simp] theorem modCore_latch : (modCore s n f).latch = s.latch := rfl
@[simp] theorem modCore_tail : (modCore s n f).tail = s.tail := rfl
@[simp] theorem modCore_free : (modCore s n f).free = s.free := rfl
@[simp] theorem modCore_turn : (modCore s n f).turn = s.turn := rfl
@[simp] theorem modCore_clusters : (modCore s n f).clusters = s.clusters := rfl
@[simp] theorem modCore_slices : (modCore s n f).slices = s.slices := rfl
@[simp] theorem modCore_dies : (modCore s n f).dies = s.dies := rfl
@[simp] theorem modCore_parts : (modCore s n f).parts = s.parts := rfl
@[simp] theorem modCore_accesses : (modCore s n f).accesses = s.accesses := rfl
@[simp] theorem modCore_accessId : (modCore s n f).accessId = s.accessId := rfl
@[simp] theorem modCore_copyId : (modCore s n f).copyId = s.copyId := rfl
@[simp] theorem modCore_msgs : (modCore s n f).msgs = s.msgs := rfl
@[simp] theorem modCore_hbm : (modCore s n f).hbm = s.hbm := rfl
@[simp] theorem modCore_frames : (modCore s n f).frames = s.frames := rfl
@[simp] theorem modCore_wsMeta : (modCore s n f).wsMeta = s.wsMeta := rfl
@[simp] theorem modCore_retries : (modCore s n f).retries = s.retries := rfl
@[simp] theorem modCore_hostMem : (modCore s n f).hostMem = s.hostMem := rfl
@[simp] theorem modCore_peerMem : (modCore s n f).peerMem = s.peerMem := rfl
@[simp] theorem modCore_peerOut : (modCore s n f).peerOut = s.peerOut := rfl
@[simp] theorem modCore_peerFull : (modCore s n f).peerFull = s.peerFull := rfl
@[simp] theorem modCore_xmss : (modCore s n f).xmss = s.xmss := rfl
@[simp] theorem modCore_exchanges : (modCore s n f).exchanges = s.exchanges := rfl
@[simp] theorem modCore_sessions : (modCore s n f).sessions = s.sessions := rfl
@[simp] theorem modCore_spdm : (modCore s n f).spdm = s.spdm := rfl
@[simp] theorem modCore_measured : (modCore s n f).measured = s.measured := rfl
@[simp] theorem modCore_linkDown : (modCore s n f).linkDown = s.linkDown := rfl
@[simp] theorem modCore_lifetime : (modCore s n f).lifetime = s.lifetime := rfl
@[simp] theorem modCore_flash : (modCore s n f).flash = s.flash := rfl
@[simp] theorem modCore_reads : (modCore s n f).reads = s.reads := rfl
@[simp] theorem modCore_poisonLog : (modCore s n f).poisonLog = s.poisonLog := rfl
@[simp] theorem modCore_reqs : (modCore s n f).reqs = s.reqs := rfl
@[simp] theorem modCore_hbmKeys : (modCore s n f).hbmKeys = s.hbmKeys := rfl
@[simp] theorem modCore_peerWait : (modCore s n f).peerWait = s.peerWait := rfl
@[simp] theorem modCore_refusedWb : (modCore s n f).refusedWb = s.refusedWb := rfl
end modCoreFields

section modCtxFields
variable (s : State) (n k : Nat) (f : Ctx → Ctx)
@[simp] theorem modCtx_cycle : (modCtx s n k f).cycle = s.cycle := rfl
@[simp] theorem modCtx_schedule : (modCtx s n k f).schedule = s.schedule := rfl
@[simp] theorem modCtx_core : (modCtx s n k f).core = s.core := rfl
@[simp] theorem modCtx_ctx : (modCtx s n k f).ctx = s.ctx := rfl
@[simp] theorem modCtx_latch : (modCtx s n k f).latch = s.latch := rfl
@[simp] theorem modCtx_tail : (modCtx s n k f).tail = s.tail := rfl
@[simp] theorem modCtx_free : (modCtx s n k f).free = s.free := rfl
@[simp] theorem modCtx_turn : (modCtx s n k f).turn = s.turn := rfl
@[simp] theorem modCtx_clusters : (modCtx s n k f).clusters = s.clusters := rfl
@[simp] theorem modCtx_slices : (modCtx s n k f).slices = s.slices := rfl
@[simp] theorem modCtx_dies : (modCtx s n k f).dies = s.dies := rfl
@[simp] theorem modCtx_parts : (modCtx s n k f).parts = s.parts := rfl
@[simp] theorem modCtx_accesses : (modCtx s n k f).accesses = s.accesses := rfl
@[simp] theorem modCtx_accessId : (modCtx s n k f).accessId = s.accessId := rfl
@[simp] theorem modCtx_copyId : (modCtx s n k f).copyId = s.copyId := rfl
@[simp] theorem modCtx_msgs : (modCtx s n k f).msgs = s.msgs := rfl
@[simp] theorem modCtx_hbm : (modCtx s n k f).hbm = s.hbm := rfl
@[simp] theorem modCtx_frames : (modCtx s n k f).frames = s.frames := rfl
@[simp] theorem modCtx_wsMeta : (modCtx s n k f).wsMeta = s.wsMeta := rfl
@[simp] theorem modCtx_retries : (modCtx s n k f).retries = s.retries := rfl
@[simp] theorem modCtx_hostMem : (modCtx s n k f).hostMem = s.hostMem := rfl
@[simp] theorem modCtx_peerMem : (modCtx s n k f).peerMem = s.peerMem := rfl
@[simp] theorem modCtx_peerOut : (modCtx s n k f).peerOut = s.peerOut := rfl
@[simp] theorem modCtx_peerFull : (modCtx s n k f).peerFull = s.peerFull := rfl
@[simp] theorem modCtx_xmss : (modCtx s n k f).xmss = s.xmss := rfl
@[simp] theorem modCtx_exchanges : (modCtx s n k f).exchanges = s.exchanges := rfl
@[simp] theorem modCtx_sessions : (modCtx s n k f).sessions = s.sessions := rfl
@[simp] theorem modCtx_spdm : (modCtx s n k f).spdm = s.spdm := rfl
@[simp] theorem modCtx_measured : (modCtx s n k f).measured = s.measured := rfl
@[simp] theorem modCtx_linkDown : (modCtx s n k f).linkDown = s.linkDown := rfl
@[simp] theorem modCtx_lifetime : (modCtx s n k f).lifetime = s.lifetime := rfl
@[simp] theorem modCtx_flash : (modCtx s n k f).flash = s.flash := rfl
@[simp] theorem modCtx_reads : (modCtx s n k f).reads = s.reads := rfl
@[simp] theorem modCtx_poisonLog : (modCtx s n k f).poisonLog = s.poisonLog := rfl
@[simp] theorem modCtx_reqs : (modCtx s n k f).reqs = s.reqs := rfl
@[simp] theorem modCtx_hbmKeys : (modCtx s n k f).hbmKeys = s.hbmKeys := rfl
@[simp] theorem modCtx_peerWait : (modCtx s n k f).peerWait = s.peerWait := rfl
@[simp] theorem modCtx_refusedWb : (modCtx s n k f).refusedWb = s.refusedWb := rfl
end modCtxFields

section modCurFields
variable (s : State) (f : Ctx → Ctx)
@[simp] theorem modCur_cycle : (modCur s f).cycle = s.cycle := rfl
@[simp] theorem modCur_schedule : (modCur s f).schedule = s.schedule := rfl
@[simp] theorem modCur_core : (modCur s f).core = s.core := rfl
@[simp] theorem modCur_ctx : (modCur s f).ctx = s.ctx := rfl
@[simp] theorem modCur_latch : (modCur s f).latch = s.latch := rfl
@[simp] theorem modCur_tail : (modCur s f).tail = s.tail := rfl
@[simp] theorem modCur_free : (modCur s f).free = s.free := rfl
@[simp] theorem modCur_turn : (modCur s f).turn = s.turn := rfl
@[simp] theorem modCur_clusters : (modCur s f).clusters = s.clusters := rfl
@[simp] theorem modCur_slices : (modCur s f).slices = s.slices := rfl
@[simp] theorem modCur_dies : (modCur s f).dies = s.dies := rfl
@[simp] theorem modCur_parts : (modCur s f).parts = s.parts := rfl
@[simp] theorem modCur_accesses : (modCur s f).accesses = s.accesses := rfl
@[simp] theorem modCur_accessId : (modCur s f).accessId = s.accessId := rfl
@[simp] theorem modCur_copyId : (modCur s f).copyId = s.copyId := rfl
@[simp] theorem modCur_msgs : (modCur s f).msgs = s.msgs := rfl
@[simp] theorem modCur_hbm : (modCur s f).hbm = s.hbm := rfl
@[simp] theorem modCur_frames : (modCur s f).frames = s.frames := rfl
@[simp] theorem modCur_wsMeta : (modCur s f).wsMeta = s.wsMeta := rfl
@[simp] theorem modCur_retries : (modCur s f).retries = s.retries := rfl
@[simp] theorem modCur_hostMem : (modCur s f).hostMem = s.hostMem := rfl
@[simp] theorem modCur_peerMem : (modCur s f).peerMem = s.peerMem := rfl
@[simp] theorem modCur_peerOut : (modCur s f).peerOut = s.peerOut := rfl
@[simp] theorem modCur_peerFull : (modCur s f).peerFull = s.peerFull := rfl
@[simp] theorem modCur_xmss : (modCur s f).xmss = s.xmss := rfl
@[simp] theorem modCur_exchanges : (modCur s f).exchanges = s.exchanges := rfl
@[simp] theorem modCur_sessions : (modCur s f).sessions = s.sessions := rfl
@[simp] theorem modCur_spdm : (modCur s f).spdm = s.spdm := rfl
@[simp] theorem modCur_measured : (modCur s f).measured = s.measured := rfl
@[simp] theorem modCur_linkDown : (modCur s f).linkDown = s.linkDown := rfl
@[simp] theorem modCur_lifetime : (modCur s f).lifetime = s.lifetime := rfl
@[simp] theorem modCur_flash : (modCur s f).flash = s.flash := rfl
@[simp] theorem modCur_reads : (modCur s f).reads = s.reads := rfl
@[simp] theorem modCur_poisonLog : (modCur s f).poisonLog = s.poisonLog := rfl
@[simp] theorem modCur_reqs : (modCur s f).reqs = s.reqs := rfl
@[simp] theorem modCur_hbmKeys : (modCur s f).hbmKeys = s.hbmKeys := rfl
@[simp] theorem modCur_peerWait : (modCur s f).peerWait = s.peerWait := rfl
@[simp] theorem modCur_refusedWb : (modCur s f).refusedWb = s.refusedWb := rfl
end modCurFields

section modCluFields
variable (s : State) (n : Nat) (f : Cluster → Cluster)
@[simp] theorem modClu_cycle : (modClu s n f).cycle = s.cycle := rfl
@[simp] theorem modClu_schedule : (modClu s n f).schedule = s.schedule := rfl
@[simp] theorem modClu_core : (modClu s n f).core = s.core := rfl
@[simp] theorem modClu_ctx : (modClu s n f).ctx = s.ctx := rfl
@[simp] theorem modClu_latch : (modClu s n f).latch = s.latch := rfl
@[simp] theorem modClu_tail : (modClu s n f).tail = s.tail := rfl
@[simp] theorem modClu_free : (modClu s n f).free = s.free := rfl
@[simp] theorem modClu_turn : (modClu s n f).turn = s.turn := rfl
@[simp] theorem modClu_cores : (modClu s n f).cores = s.cores := rfl
@[simp] theorem modClu_slices : (modClu s n f).slices = s.slices := rfl
@[simp] theorem modClu_dies : (modClu s n f).dies = s.dies := rfl
@[simp] theorem modClu_parts : (modClu s n f).parts = s.parts := rfl
@[simp] theorem modClu_accesses : (modClu s n f).accesses = s.accesses := rfl
@[simp] theorem modClu_accessId : (modClu s n f).accessId = s.accessId := rfl
@[simp] theorem modClu_copyId : (modClu s n f).copyId = s.copyId := rfl
@[simp] theorem modClu_msgs : (modClu s n f).msgs = s.msgs := rfl
@[simp] theorem modClu_hbm : (modClu s n f).hbm = s.hbm := rfl
@[simp] theorem modClu_frames : (modClu s n f).frames = s.frames := rfl
@[simp] theorem modClu_wsMeta : (modClu s n f).wsMeta = s.wsMeta := rfl
@[simp] theorem modClu_retries : (modClu s n f).retries = s.retries := rfl
@[simp] theorem modClu_hostMem : (modClu s n f).hostMem = s.hostMem := rfl
@[simp] theorem modClu_peerMem : (modClu s n f).peerMem = s.peerMem := rfl
@[simp] theorem modClu_peerOut : (modClu s n f).peerOut = s.peerOut := rfl
@[simp] theorem modClu_peerFull : (modClu s n f).peerFull = s.peerFull := rfl
@[simp] theorem modClu_xmss : (modClu s n f).xmss = s.xmss := rfl
@[simp] theorem modClu_exchanges : (modClu s n f).exchanges = s.exchanges := rfl
@[simp] theorem modClu_sessions : (modClu s n f).sessions = s.sessions := rfl
@[simp] theorem modClu_spdm : (modClu s n f).spdm = s.spdm := rfl
@[simp] theorem modClu_measured : (modClu s n f).measured = s.measured := rfl
@[simp] theorem modClu_linkDown : (modClu s n f).linkDown = s.linkDown := rfl
@[simp] theorem modClu_lifetime : (modClu s n f).lifetime = s.lifetime := rfl
@[simp] theorem modClu_flash : (modClu s n f).flash = s.flash := rfl
@[simp] theorem modClu_reads : (modClu s n f).reads = s.reads := rfl
@[simp] theorem modClu_poisonLog : (modClu s n f).poisonLog = s.poisonLog := rfl
@[simp] theorem modClu_reqs : (modClu s n f).reqs = s.reqs := rfl
@[simp] theorem modClu_hbmKeys : (modClu s n f).hbmKeys = s.hbmKeys := rfl
@[simp] theorem modClu_peerWait : (modClu s n f).peerWait = s.peerWait := rfl
@[simp] theorem modClu_refusedWb : (modClu s n f).refusedWb = s.refusedWb := rfl
end modCluFields

section modSliceFields
variable (s : State) (n : Nat) (f : Slice → Slice)
@[simp] theorem modSlice_cycle : (modSlice s n f).cycle = s.cycle := rfl
@[simp] theorem modSlice_schedule : (modSlice s n f).schedule = s.schedule := rfl
@[simp] theorem modSlice_core : (modSlice s n f).core = s.core := rfl
@[simp] theorem modSlice_ctx : (modSlice s n f).ctx = s.ctx := rfl
@[simp] theorem modSlice_latch : (modSlice s n f).latch = s.latch := rfl
@[simp] theorem modSlice_tail : (modSlice s n f).tail = s.tail := rfl
@[simp] theorem modSlice_free : (modSlice s n f).free = s.free := rfl
@[simp] theorem modSlice_turn : (modSlice s n f).turn = s.turn := rfl
@[simp] theorem modSlice_cores : (modSlice s n f).cores = s.cores := rfl
@[simp] theorem modSlice_clusters : (modSlice s n f).clusters = s.clusters := rfl
@[simp] theorem modSlice_dies : (modSlice s n f).dies = s.dies := rfl
@[simp] theorem modSlice_parts : (modSlice s n f).parts = s.parts := rfl
@[simp] theorem modSlice_accesses : (modSlice s n f).accesses = s.accesses := rfl
@[simp] theorem modSlice_accessId : (modSlice s n f).accessId = s.accessId := rfl
@[simp] theorem modSlice_copyId : (modSlice s n f).copyId = s.copyId := rfl
@[simp] theorem modSlice_msgs : (modSlice s n f).msgs = s.msgs := rfl
@[simp] theorem modSlice_hbm : (modSlice s n f).hbm = s.hbm := rfl
@[simp] theorem modSlice_frames : (modSlice s n f).frames = s.frames := rfl
@[simp] theorem modSlice_wsMeta : (modSlice s n f).wsMeta = s.wsMeta := rfl
@[simp] theorem modSlice_retries : (modSlice s n f).retries = s.retries := rfl
@[simp] theorem modSlice_hostMem : (modSlice s n f).hostMem = s.hostMem := rfl
@[simp] theorem modSlice_peerMem : (modSlice s n f).peerMem = s.peerMem := rfl
@[simp] theorem modSlice_peerOut : (modSlice s n f).peerOut = s.peerOut := rfl
@[simp] theorem modSlice_peerFull : (modSlice s n f).peerFull = s.peerFull := rfl
@[simp] theorem modSlice_xmss : (modSlice s n f).xmss = s.xmss := rfl
@[simp] theorem modSlice_exchanges : (modSlice s n f).exchanges = s.exchanges := rfl
@[simp] theorem modSlice_sessions : (modSlice s n f).sessions = s.sessions := rfl
@[simp] theorem modSlice_spdm : (modSlice s n f).spdm = s.spdm := rfl
@[simp] theorem modSlice_measured : (modSlice s n f).measured = s.measured := rfl
@[simp] theorem modSlice_linkDown : (modSlice s n f).linkDown = s.linkDown := rfl
@[simp] theorem modSlice_lifetime : (modSlice s n f).lifetime = s.lifetime := rfl
@[simp] theorem modSlice_flash : (modSlice s n f).flash = s.flash := rfl
@[simp] theorem modSlice_reads : (modSlice s n f).reads = s.reads := rfl
@[simp] theorem modSlice_poisonLog : (modSlice s n f).poisonLog = s.poisonLog := rfl
@[simp] theorem modSlice_reqs : (modSlice s n f).reqs = s.reqs := rfl
@[simp] theorem modSlice_hbmKeys : (modSlice s n f).hbmKeys = s.hbmKeys := rfl
@[simp] theorem modSlice_peerWait : (modSlice s n f).peerWait = s.peerWait := rfl
@[simp] theorem modSlice_refusedWb : (modSlice s n f).refusedWb = s.refusedWb := rfl
end modSliceFields

section modSPFields
variable (s : State) (n p : Nat) (f : SlicePart → SlicePart)
@[simp] theorem modSP_cycle : (modSP s n p f).cycle = s.cycle := rfl
@[simp] theorem modSP_schedule : (modSP s n p f).schedule = s.schedule := rfl
@[simp] theorem modSP_core : (modSP s n p f).core = s.core := rfl
@[simp] theorem modSP_ctx : (modSP s n p f).ctx = s.ctx := rfl
@[simp] theorem modSP_latch : (modSP s n p f).latch = s.latch := rfl
@[simp] theorem modSP_tail : (modSP s n p f).tail = s.tail := rfl
@[simp] theorem modSP_free : (modSP s n p f).free = s.free := rfl
@[simp] theorem modSP_turn : (modSP s n p f).turn = s.turn := rfl
@[simp] theorem modSP_cores : (modSP s n p f).cores = s.cores := rfl
@[simp] theorem modSP_clusters : (modSP s n p f).clusters = s.clusters := rfl
@[simp] theorem modSP_dies : (modSP s n p f).dies = s.dies := rfl
@[simp] theorem modSP_parts : (modSP s n p f).parts = s.parts := rfl
@[simp] theorem modSP_accesses : (modSP s n p f).accesses = s.accesses := rfl
@[simp] theorem modSP_accessId : (modSP s n p f).accessId = s.accessId := rfl
@[simp] theorem modSP_copyId : (modSP s n p f).copyId = s.copyId := rfl
@[simp] theorem modSP_msgs : (modSP s n p f).msgs = s.msgs := rfl
@[simp] theorem modSP_hbm : (modSP s n p f).hbm = s.hbm := rfl
@[simp] theorem modSP_frames : (modSP s n p f).frames = s.frames := rfl
@[simp] theorem modSP_wsMeta : (modSP s n p f).wsMeta = s.wsMeta := rfl
@[simp] theorem modSP_retries : (modSP s n p f).retries = s.retries := rfl
@[simp] theorem modSP_hostMem : (modSP s n p f).hostMem = s.hostMem := rfl
@[simp] theorem modSP_peerMem : (modSP s n p f).peerMem = s.peerMem := rfl
@[simp] theorem modSP_peerOut : (modSP s n p f).peerOut = s.peerOut := rfl
@[simp] theorem modSP_peerFull : (modSP s n p f).peerFull = s.peerFull := rfl
@[simp] theorem modSP_xmss : (modSP s n p f).xmss = s.xmss := rfl
@[simp] theorem modSP_exchanges : (modSP s n p f).exchanges = s.exchanges := rfl
@[simp] theorem modSP_sessions : (modSP s n p f).sessions = s.sessions := rfl
@[simp] theorem modSP_spdm : (modSP s n p f).spdm = s.spdm := rfl
@[simp] theorem modSP_measured : (modSP s n p f).measured = s.measured := rfl
@[simp] theorem modSP_linkDown : (modSP s n p f).linkDown = s.linkDown := rfl
@[simp] theorem modSP_lifetime : (modSP s n p f).lifetime = s.lifetime := rfl
@[simp] theorem modSP_flash : (modSP s n p f).flash = s.flash := rfl
@[simp] theorem modSP_reads : (modSP s n p f).reads = s.reads := rfl
@[simp] theorem modSP_poisonLog : (modSP s n p f).poisonLog = s.poisonLog := rfl
@[simp] theorem modSP_reqs : (modSP s n p f).reqs = s.reqs := rfl
@[simp] theorem modSP_hbmKeys : (modSP s n p f).hbmKeys = s.hbmKeys := rfl
@[simp] theorem modSP_peerWait : (modSP s n p f).peerWait = s.peerWait := rfl
@[simp] theorem modSP_refusedWb : (modSP s n p f).refusedWb = s.refusedWb := rfl
end modSPFields

section modPartFields
variable (s : State) (n : Nat) (f : Partition → Partition)
@[simp] theorem modPart_cycle : (modPart s n f).cycle = s.cycle := rfl
@[simp] theorem modPart_schedule : (modPart s n f).schedule = s.schedule := rfl
@[simp] theorem modPart_core : (modPart s n f).core = s.core := rfl
@[simp] theorem modPart_ctx : (modPart s n f).ctx = s.ctx := rfl
@[simp] theorem modPart_latch : (modPart s n f).latch = s.latch := rfl
@[simp] theorem modPart_tail : (modPart s n f).tail = s.tail := rfl
@[simp] theorem modPart_free : (modPart s n f).free = s.free := rfl
@[simp] theorem modPart_turn : (modPart s n f).turn = s.turn := rfl
@[simp] theorem modPart_cores : (modPart s n f).cores = s.cores := rfl
@[simp] theorem modPart_clusters : (modPart s n f).clusters = s.clusters := rfl
@[simp] theorem modPart_slices : (modPart s n f).slices = s.slices := rfl
@[simp] theorem modPart_dies : (modPart s n f).dies = s.dies := rfl
@[simp] theorem modPart_accesses : (modPart s n f).accesses = s.accesses := rfl
@[simp] theorem modPart_accessId : (modPart s n f).accessId = s.accessId := rfl
@[simp] theorem modPart_copyId : (modPart s n f).copyId = s.copyId := rfl
@[simp] theorem modPart_msgs : (modPart s n f).msgs = s.msgs := rfl
@[simp] theorem modPart_hbm : (modPart s n f).hbm = s.hbm := rfl
@[simp] theorem modPart_frames : (modPart s n f).frames = s.frames := rfl
@[simp] theorem modPart_wsMeta : (modPart s n f).wsMeta = s.wsMeta := rfl
@[simp] theorem modPart_retries : (modPart s n f).retries = s.retries := rfl
@[simp] theorem modPart_hostMem : (modPart s n f).hostMem = s.hostMem := rfl
@[simp] theorem modPart_peerMem : (modPart s n f).peerMem = s.peerMem := rfl
@[simp] theorem modPart_peerOut : (modPart s n f).peerOut = s.peerOut := rfl
@[simp] theorem modPart_peerFull : (modPart s n f).peerFull = s.peerFull := rfl
@[simp] theorem modPart_xmss : (modPart s n f).xmss = s.xmss := rfl
@[simp] theorem modPart_exchanges : (modPart s n f).exchanges = s.exchanges := rfl
@[simp] theorem modPart_sessions : (modPart s n f).sessions = s.sessions := rfl
@[simp] theorem modPart_spdm : (modPart s n f).spdm = s.spdm := rfl
@[simp] theorem modPart_measured : (modPart s n f).measured = s.measured := rfl
@[simp] theorem modPart_linkDown : (modPart s n f).linkDown = s.linkDown := rfl
@[simp] theorem modPart_lifetime : (modPart s n f).lifetime = s.lifetime := rfl
@[simp] theorem modPart_flash : (modPart s n f).flash = s.flash := rfl
@[simp] theorem modPart_reads : (modPart s n f).reads = s.reads := rfl
@[simp] theorem modPart_poisonLog : (modPart s n f).poisonLog = s.poisonLog := rfl
@[simp] theorem modPart_reqs : (modPart s n f).reqs = s.reqs := rfl
@[simp] theorem modPart_hbmKeys : (modPart s n f).hbmKeys = s.hbmKeys := rfl
@[simp] theorem modPart_peerWait : (modPart s n f).peerWait = s.peerWait := rfl
@[simp] theorem modPart_refusedWb : (modPart s n f).refusedWb = s.refusedWb := rfl
end modPartFields

section modDieFields
variable (s : State) (n : Nat) (f : Die → Die)
@[simp] theorem modDie_cycle : (modDie s n f).cycle = s.cycle := rfl
@[simp] theorem modDie_schedule : (modDie s n f).schedule = s.schedule := rfl
@[simp] theorem modDie_core : (modDie s n f).core = s.core := rfl
@[simp] theorem modDie_ctx : (modDie s n f).ctx = s.ctx := rfl
@[simp] theorem modDie_latch : (modDie s n f).latch = s.latch := rfl
@[simp] theorem modDie_tail : (modDie s n f).tail = s.tail := rfl
@[simp] theorem modDie_free : (modDie s n f).free = s.free := rfl
@[simp] theorem modDie_turn : (modDie s n f).turn = s.turn := rfl
@[simp] theorem modDie_cores : (modDie s n f).cores = s.cores := rfl
@[simp] theorem modDie_clusters : (modDie s n f).clusters = s.clusters := rfl
@[simp] theorem modDie_slices : (modDie s n f).slices = s.slices := rfl
@[simp] theorem modDie_parts : (modDie s n f).parts = s.parts := rfl
@[simp] theorem modDie_accesses : (modDie s n f).accesses = s.accesses := rfl
@[simp] theorem modDie_accessId : (modDie s n f).accessId = s.accessId := rfl
@[simp] theorem modDie_copyId : (modDie s n f).copyId = s.copyId := rfl
@[simp] theorem modDie_msgs : (modDie s n f).msgs = s.msgs := rfl
@[simp] theorem modDie_hbm : (modDie s n f).hbm = s.hbm := rfl
@[simp] theorem modDie_frames : (modDie s n f).frames = s.frames := rfl
@[simp] theorem modDie_wsMeta : (modDie s n f).wsMeta = s.wsMeta := rfl
@[simp] theorem modDie_retries : (modDie s n f).retries = s.retries := rfl
@[simp] theorem modDie_hostMem : (modDie s n f).hostMem = s.hostMem := rfl
@[simp] theorem modDie_peerMem : (modDie s n f).peerMem = s.peerMem := rfl
@[simp] theorem modDie_peerOut : (modDie s n f).peerOut = s.peerOut := rfl
@[simp] theorem modDie_peerFull : (modDie s n f).peerFull = s.peerFull := rfl
@[simp] theorem modDie_xmss : (modDie s n f).xmss = s.xmss := rfl
@[simp] theorem modDie_exchanges : (modDie s n f).exchanges = s.exchanges := rfl
@[simp] theorem modDie_sessions : (modDie s n f).sessions = s.sessions := rfl
@[simp] theorem modDie_spdm : (modDie s n f).spdm = s.spdm := rfl
@[simp] theorem modDie_measured : (modDie s n f).measured = s.measured := rfl
@[simp] theorem modDie_linkDown : (modDie s n f).linkDown = s.linkDown := rfl
@[simp] theorem modDie_lifetime : (modDie s n f).lifetime = s.lifetime := rfl
@[simp] theorem modDie_flash : (modDie s n f).flash = s.flash := rfl
@[simp] theorem modDie_reads : (modDie s n f).reads = s.reads := rfl
@[simp] theorem modDie_poisonLog : (modDie s n f).poisonLog = s.poisonLog := rfl
@[simp] theorem modDie_reqs : (modDie s n f).reqs = s.reqs := rfl
@[simp] theorem modDie_hbmKeys : (modDie s n f).hbmKeys = s.hbmKeys := rfl
@[simp] theorem modDie_peerWait : (modDie s n f).peerWait = s.peerWait := rfl
@[simp] theorem modDie_refusedWb : (modDie s n f).refusedWb = s.refusedWb := rfl
end modDieFields

end Sys2Proof.Machine
end

