-- ==== Sys2Proof/Laws/Issue.lean ====
section
/-! SUPPORT. What issuing a bundle does around the effect of its instruction: the forwarding of a rope's lead, the
reading of operands, the end of the bundle (R62, R83, R90). -/

namespace Sys2Proof.Machine

/-- A context with its forwarded bundles out of sight. -/
abbrev bare (c : Ctx) : Ctx := { c with fwd := [] }

/-- What forwarding to a list of seconds leaves: everything but their forwarded bundles. -/
theorem forwardTo_kept (x : Nat × Nat × Nat → Fwd) (l : List (Nat × Nat × Nat)) (s : State) :
    let t := l.foldl (fun s e => modCtx s e.1 e.2.1 fun c => { c with fwd := c.fwd ++ [x e] }) s
    { t with cores := s.cores } = s ∧ KeptCores s t ∧ ∀ n k, bare (ctxAt t n k) = bare (ctxAt s n k) := by
  induction l generalizing s with
  | nil => exact ⟨rfl, fun _ => rfl, fun _ _ => rfl⟩
  | cons e l ih =>
    obtain ⟨h1, h2, h3⟩ := ih (modCtx s e.1 e.2.1 fun c => { c with fwd := c.fwd ++ [x e] })
    refine ⟨?_, fun n => ?_, fun n k => ?_⟩
    · rw [List.foldl_cons]
      exact congrArg (fun u : State => { u with cores := s.cores }) h1
    · rw [List.foldl_cons, h2 n, coreAt_modCtx]; split
      · next h => subst h; rfl
      · rfl
    · rw [List.foldl_cons, h3 n k, ctxAt_modCtx]; split
      · next h => obtain ⟨rfl, rfl⟩ := h; rfl
      · rfl

/-- A bundle is forwarded to nobody, or to the seconds of a rope. -/
theorem forward_cases (s : State) (is : List Instr) :
    forward s is = s ∨ ∃ (x : Nat × Nat × Nat → Fwd) (l : List (Nat × Nat × Nat)),
      forward s is = l.foldl (fun s e => modCtx s e.1 e.2.1 fun c => { c with fwd := c.fwd ++ [x e] }) s := by
  unfold forward
  dsimp only
  cases (cur s).rope with
  | lead l =>
    by_cases h : is.any notForwarded = true
    · exact .inl (if_pos h)
    · exact .inr ⟨_, l, if_neg h⟩
  | none => exact .inl rfl
  | second _ _ => exact .inl rfl

theorem forward_kept (s : State) (is : List Instr) :
    { forward s is with cores := s.cores } = s ∧ KeptCores s (forward s is) ∧
    ∀ n k, bare (ctxAt (forward s is) n k) = bare (ctxAt s n k) := by
  obtain h | ⟨x, l, h⟩ := forward_cases s is
  · rw [h]; exact ⟨rfl, fun _ => rfl, fun _ _ => rfl⟩
  · rw [h]; exact forwardTo_kept x l s

/-- An instruction that may issue performs its effect on the state in which its operands have been read. -/
theorem issue_of_issues {s : State} {i : Instr} (h : Issues s i) (eff : State → State) :
    issue s i eff =
      .next (watch s (cur s).pc [i] (snapshot s) (endBundle (eff (reading s i)))) := by
  have hd := h.2.2.2
  unfold reading at hd
  simp [issue, h.1, h.2.2.1, reading, takeEffect, hd]

/-- An instruction whose bundle has read its operands performs its effect at once, when it waits for nothing (R83). -/
theorem issue_of_latch {s : State} {r : Regs} (h : s.latch = some r) {i : Instr} (hd : drains s i = false) (eff : State → State) :
    issue s i eff = .next (eff s) := by simp [issue, h, takeEffect, hd]

/-- No watchpoint matches: the bundle's end stands. -/
theorem watch_of_unwatched {s : State} {i : Instr} (h : Unwatched s i) (pc : Nat) (after : State) :
    watch s pc [i] (snapshot s) after = after := by
  have h0 := h 0 (by omega)
  have h1 := h 1 (by omega)
  simp [watch, h0, h1]

/-- An instruction that accesses no virtual memory is not watched (R371). -/
theorem unwatched_of_span {s : State} {i : Instr} (h : (watchSpan (snapshot s) i).1 = []) : Unwatched s i := by
  intro w _
  simp [watchHits, h]

/-- Which instruction reads no vector register pops nothing (R83, R254). -/
theorem popped_of_no_vector {s : State} {i : Instr} (h : vReads i = []) : popped s [i] = [] := by
  have : popReads i = [] := by unfold popReads; split <;> simp [*]
  simp [popped, this]

/-- A change of the issuing context keeps everything outside it. -/
theorem modCur_kept (s : State) (f : Ctx → Ctx) :
    { modCur s f with cores := s.cores } = s ∧ KeptCores s (modCur s f) ∧
    (∀ n k, (n, k) ≠ (s.core, s.ctx) → ctxAt (modCur s f) n k = ctxAt s n k) := by
  refine ⟨rfl, fun n => ?_, fun n k h => ?_⟩
  · unfold modCur; rw [coreAt_modCtx]; split
    · next h => subst h; rfl
    · rfl
  · unfold modCur; rw [ctxAt_modCtx, if_neg]; rintro ⟨rfl, rfl⟩; exact h rfl

/-- What reading the operands of a bundle that pops nothing leaves. -/
theorem begin_kept (s : State) (i : Instr) :
    { begin s [i] with cores := s.cores, latch := s.latch, tail := s.tail } = s ∧ KeptCores s (begin s [i]) ∧
    (∀ n k, (n, k) ≠ (s.core, s.ctx) → bare (ctxAt (begin s [i]) n k) = bare (ctxAt s n k)) ∧
    ∃ w, ctxAt (begin s [i]) s.core s.ctx = { cur s with npc := (cur s).pc + 8, fwd := w } := by
  obtain ⟨a1, a2, a3⟩ := modCur_kept s fun c => { c with npc := c.pc + 8 }
  obtain ⟨b1, b2, b3⟩ := forward_kept (modCur s fun c => { c with npc := c.pc + 8 }) [i]
  refine ⟨(congrArg (fun u : State => { u with cores := s.cores, latch := s.latch, tail := s.tail }) b1 :),
    fun n => (b2 n).trans (a2 n), fun n k h => ?_, (ctxAt (begin s [i]) s.core s.ctx).fwd, ?_⟩
  · show bare (ctxAt (forward _ _) n k) = _
    rw [b3 n k, a3 n k h]
  · have := b3 s.core s.ctx
    rw [show ctxAt (modCur s fun c => { c with npc := c.pc + 8 }) s.core s.ctx = _ from
      ctxAt_modCtx_same s s.core s.ctx _] at this
    exact congrArg (fun c : Ctx => { c with fwd := (ctxAt (begin s [i]) s.core s.ctx).fwd }) this
theorem begin_core (s : State) (i : Instr) : (begin s [i]).core = s.core := (congrArg State.core (begin_kept s i).1 :)
theorem begin_ctx (s : State) (i : Instr) : (begin s [i]).ctx = s.ctx := (congrArg State.ctx (begin_kept s i).1 :)

/-- A bundle that pops nothing, as its instruction finds it. -/
theorem reading_of_unpopped {s : State} {i : Instr} (hp : popped s [i] = []) : reading s i = begin s [i] := by
  obtain ⟨w, hw⟩ := (begin_kept s i).2.2.2
  have hcur : cur (begin s [i]) = { cur s with npc := (cur s).pc + 8, fwd := w } := by
    unfold cur; rw [begin_core, begin_ctx]; exact hw
  have : popped (begin s [i]) [i] = [] := by rw [← hp]; unfold popped; rw [hcur]
  simp [reading, popAll, this]

/-- A bundle that pops nothing and whose instruction changes contexts alone: the issuing one by f, others not at
all but for bundles forwarded to them. -/
theorem issue_kept {s : State} {i : Instr} (h : Issues s i) (hu : Unwatched s i) (hp : popped s [i] = [])
    (f : Ctx → Ctx) (eff : State → State)
    (e1 : { eff (begin s [i]) with cores := s.cores } = { begin s [i] with cores := s.cores })
    (e2 : KeptCores (begin s [i]) (eff (begin s [i])))
    (e3 : ∀ n k, (n, k) ≠ (s.core, s.ctx) → bare (ctxAt (eff (begin s [i])) n k) = bare (ctxAt (begin s [i]) n k))
    (e4 : ctxAt (eff (begin s [i])) s.core s.ctx = f (ctxAt (begin s [i]) s.core s.ctx)) :
    ∃ t, issue s i eff = .next t ∧
      (∃ w, now s t = (let c := f { cur s with npc := (cur s).pc + 8, fwd := w }
        { c with pc := c.npc, icount := c.icount + 1 })) ∧
      t.latch = none ∧ t.tail = none ∧ KeptUnits s t ∧ KeptCores s t ∧ KeptOthers s t := by
  obtain ⟨b1, b2, b3, w, hw⟩ := begin_kept s i
  have ht : tailOf s [i] = none := by simp [tailOf, hp]
  have hcore : (eff (begin s [i])).core = s.core := (congrArg State.core e1 :).trans (begin_core s i)
  have hctx : (eff (begin s [i])).ctx = s.ctx := (congrArg State.ctx e1 :).trans (begin_ctx s i)
  have htail : (eff (begin s [i])).tail = none := (congrArg State.tail e1 :).trans ht
  have hr : issue s i eff = .next { modCur (eff (begin s [i])) (endCtx none) with latch := none, tail := none } := by
    rw [issue_of_issues h, watch_of_unwatched hu, reading_of_unpopped hp, endBundle, htail]
  obtain ⟨_, m2, m3⟩ := modCur_kept (eff (begin s [i])) (endCtx none)
  refine ⟨_, hr, ⟨w, ?_⟩, rfl, rfl, ?_, fun n => ?_, fun n k hne => ?_⟩
  · show ctxAt (modCtx _ _ _ (endCtx none)) s.core s.ctx = _
    rw [hcore, hctx, ctxAt_modCtx_same, e4, hw]; rfl
  · have e1' := (congrArg (fun u : State => { u with latch := s.latch, tail := s.tail }) e1 :)
    exact e1'.trans b1
  · exact (m2 n).trans ((e2 n).trans (b2 n))
  · have hne' : (n, k) ≠ ((eff (begin s [i])).core, (eff (begin s [i])).ctx) := by rw [hcore, hctx]; exact hne
    show bare (ctxAt (modCur _ (endCtx none)) n k) = _
    rw [m3 n k hne', e3 n k hne, b3 n k hne]

/-- A bundle that pops nothing and whose instruction changes its own context by f alone. -/
theorem issue_modCur {s : State} {i : Instr} (h : Issues s i) (hu : Unwatched s i) (hp : popped s [i] = [])
    (f : Ctx → Ctx) (eff : State → State) (he : eff (begin s [i]) = modCur (begin s [i]) f) :
    ∃ t, issue s i eff = .next t ∧
      (∃ w, now s t = (let c := f { cur s with npc := (cur s).pc + 8, fwd := w }
        { c with pc := c.npc, icount := c.icount + 1 })) ∧
      t.latch = none ∧ t.tail = none ∧ KeptUnits s t ∧ KeptCores s t ∧ KeptOthers s t := by
  obtain ⟨_, m2, m3⟩ := modCur_kept (begin s [i]) f
  refine issue_kept h hu hp f eff (by rw [he]; rfl) (by rw [he]; exact m2) (fun n k hne => ?_) ?_
  · rw [he, m3 n k (by rw [begin_core, begin_ctx]; exact hne)]
  · rw [he]; show ctxAt (modCtx _ _ _ f) s.core s.ctx = _
    rw [begin_core, begin_ctx, ctxAt_modCtx_same]

/-- A bundle that pops nothing and whose instruction has no effect. -/
theorem issue_id {s : State} {i : Instr} (h : Issues s i) (hu : Unwatched s i) (hp : popped s [i] = [])
    (eff : State → State) (he : eff (begin s [i]) = begin s [i]) :
    ∃ t, issue s i eff = .next t ∧
      (∃ w, now s t = { cur s with npc := (cur s).pc + 8, fwd := w, pc := (cur s).pc + 8, icount := (cur s).icount + 1 }) ∧
      t.latch = none ∧ t.tail = none ∧ KeptUnits s t ∧ KeptCores s t ∧ KeptOthers s t :=
  issue_kept h hu hp (fun c => c) eff (by rw [he]) (by rw [he]; exact fun _ => rfl) (fun _ _ _ => by rw [he]) (by rw [he])

/-- A bundle that begins with no spawning instruction reads no body entry. -/
theorem readEntry_of_no_spawn (s : State) {i : Instr} {w : Nat} {l : List (Instr × Nat)} (h : spawnBody s i = none) :
    readEntry s ((i, w) :: l) = s := by
  simp only [readEntry, missed, h]

/-- A spawn that finds its body's entry in the core's cache reads none (R24). -/
theorem readEntry_of_cached (s : State) {i : Instr} {w b : Nat} {l : List (Instr × Nat)} {e : Dword}
    (h : spawnBody s i = some b) (hc : bodyAt (coreAt s s.core) b = some e) : readEntry s ((i, w) :: l) = s := by
  simp [readEntry, missed, h, hc]

/-- What the read of a body entry at issue can do (R23, R131): nothing, or the entry's access is performed whole. -/
theorem readEntry_cases (s : State) (is : List (Instr × Nat)) :
    readEntry s is = s ∨ ∃ b t a, missed s is = some b ∧
      runAll { s with accessId := s.accessId + 1 } { walk := walkerFree s (entryAccess s b).part (headVa (entryAccess s b)), grant := true }
        { entryAccess s b with id := s.accessId, cycle := s.cycle } = .fin t a ∧ readEntry s is = finishAccess t a := by
  cases hm : missed s is with
  | none => exact .inl (by simp only [readEntry, hm])
  | some b =>
    cases hr : runAll { s with accessId := s.accessId + 1 } { walk := walkerFree s (entryAccess s b).part (headVa (entryAccess s b)), grant := true }
        { entryAccess s b with id := s.accessId, cycle := s.cycle } with
    | fin t a => exact .inr ⟨b, t, a, rfl, hr, by simp only [readEntry, hm, hr]⟩
    | wait t a => exact .inl (by simp only [readEntry, hm, hr])
    | ref t a c u v => exact .inl (by simp only [readEntry, hm, hr])

end Sys2Proof.Machine
end

