-- ==== Sys2Proof/Laws/Memory.lean ====
section
/-! SUPPORT. The laws of byte memories: a byte written reads back and every other reads as before; writing and dropping
bytes keep the canonical form; a number of n bytes written reads back modulo 2^(8n). -/

namespace Sys2Proof.Machine

theorem frising_mono {α : Type} {a b : Nat} (h : a ≤ b) : ∀ {m : FMap α}, frising b m = true → frising a m = true
  | [], _ => rfl
  | (j, v) :: m, hm => by
    simp only [frising, Bool.and_eq_true, decide_eq_true_eq] at hm ⊢
    exact ⟨Nat.le_trans h hm.1, hm.2⟩

/-- A key below every key of a rising map is not listed. -/
theorem fget_below {α : Type} (d : α) {a k : Nat} (h : k < a) : ∀ {m : FMap α}, frising a m = true → fget d m k = d
  | [], _ => rfl
  | (j, v) :: m, hm => by
    simp only [frising, Bool.and_eq_true, decide_eq_true_eq] at hm
    simp only [fget, if_neg (show j ≠ k by omega)]
    exact fget_below d (by omega) hm.2

/-- A byte put keeps keys that rise from `lo` rising from it. -/
theorem frising_bput {a : Nat} {b : Byte} : ∀ {m : FMap Byte} {lo : Nat}, lo ≤ a → frising lo m = true →
    frising lo (bput m a b) = true
  | [], lo, h, _ => by
    unfold bput
    split
    · rfl
    · simp [frising, h]
  | (j, w) :: m, lo, h, hm => by
    simp only [frising, Bool.and_eq_true, decide_eq_true_eq] at hm
    unfold bput
    split
    · split
      · simp [frising, hm]
      · rename_i hj _
        simp [frising, h, hm.2, Nat.succ_le_of_lt hj]
    · split
      · rename_i hj
        split
        · exact frising_mono (by omega) hm.2
        · subst hj; simp [frising, h, hm.2]
      · simp only [frising, Bool.and_eq_true, decide_eq_true_eq]
        exact ⟨hm.1, frising_bput (by omega) hm.2⟩

theorem nonzero_bput {a : Nat} {b : Byte} : ∀ {m : FMap Byte}, (m.all fun c => c.2 != 0) = true →
    ((bput m a b).all fun c => c.2 != 0) = true
  | [], _ => by
    unfold bput
    split
    · rfl
    · rename_i hb; simpa using hb
  | (j, w) :: m, hm => by
    have hm' := hm
    rw [List.all_cons, Bool.and_eq_true] at hm'
    have hc : ¬b = 0 → (((a, b) : Nat × Byte).2 != 0) = true := fun hb => by simpa using hb
    unfold bput
    split
    · split
      · exact hm
      · rename_i hb; rw [List.all_cons, hc hb, hm]; rfl
    · split
      · split
        · exact hm'.2
        · rename_i hb; rw [List.all_cons, hc hb, hm'.2]; rfl
      · rw [List.all_cons, hm'.1, nonzero_bput hm'.2]; rfl

/-- Writing a byte keeps the canonical form. -/
theorem wf_bput {m : FMap Byte} (a : Nat) (b : Byte) (h : Memory.wf m = true) : Memory.wf (bput m a b) = true := by
  simp only [Memory.wf, Bool.and_eq_true] at h ⊢
  exact ⟨frising_bput (Nat.zero_le a) h.1, nonzero_bput h.2⟩

/-- The byte put reads back, and every other byte reads as before. -/
theorem bget_bput {a : Nat} {b : Byte} (k : Nat) : ∀ {m : FMap Byte} {lo : Nat}, frising lo m = true →
    bget (bput m a b) k = if k = a then b else bget m k
  | [], _, _ => by
    unfold bput
    split
    · rename_i hb
      split
      · exact hb.symm
      · rfl
    · by_cases hk : k = a
      · rw [if_pos hk]; exact if_pos hk.symm
      · rw [if_neg hk]; exact if_neg (Ne.symm hk)
  | (j, w) :: m, lo, hm => by
    simp only [frising, Bool.and_eq_true, decide_eq_true_eq] at hm
    have h0 : k < j + 1 → bget m k = 0 := fun h => fget_below 0 h hm.2
    have hj : bget ((j, w) :: m) k = if j = k then w else bget m k := rfl
    have ha : ∀ l : FMap Byte, bget ((a, b) :: l) k = if k = a then b else bget l k := fun l => by
      by_cases hk : k = a
      · rw [if_pos hk]; exact if_pos hk.symm
      · rw [if_neg hk]; exact if_neg (Ne.symm hk)
    unfold bput
    split
    · rename_i h1
      split
      · rename_i hb
        split
        · rename_i hk; rw [hj, if_neg (by omega), h0 (by omega), hb]
        · rfl
      · exact ha _
    · split
      · rename_i h1
        split
        · rename_i hb
          split
          · rw [h0 (by omega), hb]
          · rw [hj, if_neg (by omega)]
        · rw [ha]
          split
          · rfl
          · rw [hj, if_neg (by omega)]
      · have ih := bget_bput (a := a) (b := b) k hm.2
        have e : bget ((j, w) :: bput m a b) k = if j = k then w else bget (bput m a b) k := rfl
        rw [e, ih, hj]
        by_cases hk : j = k
        · rw [if_pos hk, if_neg (by omega), if_pos hk]
        · rw [if_neg hk, if_neg hk]

/-- Writing n bytes keeps the canonical form. -/
theorem wf_writeBytes {m : FMap Byte} (a n v : Nat) (h : Memory.wf m = true) : Memory.wf (writeBytes m a n v) = true := by
  induction n generalizing m a v with
  | zero => exact h
  | succ n ih => exact ih (a + 1) (v / 256) (wf_bput a _ h)

theorem rising_of_wf {m : FMap Byte} (h : Memory.wf m = true) : frising 0 m = true := by
  simp only [Memory.wf, Bool.and_eq_true] at h
  exact h.1

/-- Putting bytes one after another keeps the canonical form. -/
theorem wf_foldl_bput (l : List (Nat × Byte)) : ∀ {m : FMap Byte}, Memory.wf m = true →
    Memory.wf (l.foldl (fun m e => bput m e.1 e.2) m) = true := by
  induction l with
  | nil => exact fun h => h
  | cons e l ih => exact fun h => ih (wf_bput e.1 e.2 h)

/-- Byte k of the n bytes written is byte k of the number, and every other byte reads as before. -/
theorem bget_writeBytes {m : FMap Byte} (a n v k : Nat) (h : Memory.wf m = true) :
    bget (writeBytes m a n v) k =
      if a ≤ k ∧ k < a + n then BitVec.ofNat 8 (v / 256 ^ (k - a)) else bget m k := by
  induction n generalizing m a v with
  | zero => simp [writeBytes, show ¬(a ≤ k ∧ k < a) by omega]
  | succ n ih =>
    rw [writeBytes, ih (a + 1) (v / 256) (wf_bput a _ h), bget_bput k (rising_of_wf h)]
    by_cases h1 : k = a
    · rw [if_neg (by omega), if_pos h1, if_pos (by omega), h1, Nat.sub_self, Nat.pow_zero, Nat.div_one]
    · by_cases h2 : a + 1 ≤ k ∧ k < a + 1 + n
      · have e : k - a = (k - (a + 1)) + 1 := by omega
        rw [if_pos h2, if_pos (show a ≤ k ∧ k < a + (n + 1) by omega), e, Nat.pow_succ, Nat.mul_comm, Nat.div_div_eq_div_mul]
      · rw [if_neg h2, if_neg h1, if_neg (show ¬(a ≤ k ∧ k < a + (n + 1)) by omega)]

/-- Dropping bytes keeps the canonical form. -/
theorem wf_filter {m : FMap Byte} (p : Nat × Byte → Bool) (h : Memory.wf m = true) : Memory.wf (m.filter p) = true := by
  simp only [Memory.wf, Bool.and_eq_true] at h ⊢
  refine ⟨?_, ?_⟩
  · have : ∀ (l : FMap Byte) (lo : Nat), frising lo l = true → frising lo (l.filter p) = true := by
      intro l
      induction l with
      | nil => intros; rfl
      | cons e l ih =>
        intro lo hl
        simp only [frising, Bool.and_eq_true, decide_eq_true_eq] at hl
        by_cases hp : p e = true
        · simp only [List.filter_cons_of_pos hp, frising, Bool.and_eq_true, decide_eq_true_eq]
          exact ⟨hl.1, ih _ hl.2⟩
        · rw [List.filter_cons_of_neg hp]
          exact frising_mono (by omega) (ih _ hl.2)
    exact this m 0 h.1
  · rw [List.all_eq_true] at *
    exact fun x hx => h.2 x ((List.mem_filter.mp hx).1)

theorem readBytes_congr {m u : FMap Byte} (a n : Nat) (h : ∀ k, a ≤ k → k < a + n → bget m k = bget u k) :
    readBytes m a n = readBytes u a n := by
  induction n generalizing a with
  | zero => rfl
  | succ n ih =>
    simp only [readBytes]
    rw [h a (by omega) (by omega), ih (a + 1) fun k h1 h2 => h k (by omega) (by omega)]

/-- The n bytes written read back as the number's low n bytes. -/
theorem readBytes_writeBytes {m : FMap Byte} (a n v : Nat) (h : Memory.wf m = true) :
    readBytes (writeBytes m a n v) a n = v % 256 ^ n := by
  induction n generalizing m a v with
  | zero => simp [readBytes, Nat.mod_one]
  | succ n ih =>
    have e : bget (writeBytes m a (n + 1) v) a = BitVec.ofNat 8 v := by
      rw [bget_writeBytes a (n + 1) v a h, if_pos (by omega), Nat.sub_self, Nat.pow_zero, Nat.div_one]
    have r : readBytes (writeBytes m a (n + 1) v) (a + 1) n = v / 256 % 256 ^ n := by
      rw [writeBytes, ih (a + 1) (v / 256) (wf_bput a _ h)]
    simp only [readBytes]
    rw [e, r, BitVec.toNat_ofNat, show 256 ^ (n + 1) = 256 ^ n * 256 from rfl, Nat.mul_comm (256 ^ n) 256, Nat.mod_mul]

/-- An access elsewhere reads as before. -/
theorem readBytes_writeBytes_other {m : FMap Byte} (a n v b k : Nat) (h : Memory.wf m = true)
    (d : b + k ≤ a ∨ a + n ≤ b) : readBytes (writeBytes m a n v) b k = readBytes m b k :=
  readBytes_congr b k fun j h1 h2 => by rw [bget_writeBytes a n v j h, if_neg (by omega)]

/-- Setting a key at or above `lo` keeps keys that rise from it rising. -/
theorem frising_fset {α : Type} (v : α) {k : Nat} : ∀ {m : FMap α} {lo : Nat}, lo ≤ k → frising lo m = true →
    frising lo (fset m k v) = true
  | [], lo, h, _ => by simp [fset, frising, h]
  | (j, w) :: m, lo, h, hm => by
    simp only [frising, Bool.and_eq_true, decide_eq_true_eq] at hm
    unfold fset
    split
    · rename_i hj
      simp [frising, h, hm.2, Nat.succ_le_of_lt hj]
    · split
      · rename_i hj; subst hj; simp [frising, h, hm.2]
      · simp only [frising, Bool.and_eq_true, decide_eq_true_eq]
        exact ⟨hm.1, frising_fset v (by omega) hm.2⟩

theorem nonzero_fset {b : Byte} (hb : (b != 0) = true) (k : Nat) : ∀ {m : FMap Byte}, (m.all fun c => c.2 != 0) = true →
    ((fset m k b).all fun c => c.2 != 0) = true
  | [], _ => by simp only [fset, List.all_cons, List.all_nil, Bool.and_true]; exact hb
  | (j, w) :: m, hm => by
    have hm' := hm
    rw [List.all_cons, Bool.and_eq_true] at hm'
    unfold fset
    split
    · rw [List.all_cons, hm, Bool.and_true]; exact hb
    · split
      · rw [List.all_cons, hm'.2, Bool.and_true]; exact hb
      · rw [List.all_cons, hm'.1, nonzero_fset hb k hm'.2]; rfl

/-- Laying one canonical memory over another where a predicate holds keeps the canonical form (R364). -/
theorem wf_overlay {m u : FMap Byte} (p : Nat → Bool) (h : Memory.wf m = true) (hu : Memory.wf u = true) :
    Memory.wf (overlay m u p) = true := by
  simp only [Memory.wf, Bool.and_eq_true] at hu
  have key : ∀ (l m : FMap Byte), (l.all fun c => c.2 != 0) = true → Memory.wf m = true →
      Memory.wf (l.foldl (fun m e => fset m e.1 e.2) m) = true := by
    intro l
    induction l with
    | nil => intro m _ hm; exact hm
    | cons e l ih =>
      intro m hl hm
      simp only [Memory.wf, Bool.and_eq_true] at hm
      rw [List.all_cons, Bool.and_eq_true] at hl
      refine ih _ hl.2 ?_
      simp only [Memory.wf, Bool.and_eq_true]
      exact ⟨frising_fset _ (Nat.zero_le _) hm.1, nonzero_fset hl.1 _ hm.2⟩
  exact key u _ hu.2 (wf_filter _ h)

/-- After reset every byte memory is empty, so in canonical form. -/
theorem reset_memoryOk : MemoryOk State.reset := by
  refine ⟨rfl, rfl, rfl, fun e h => ?_, fun e h => ?_, fun e h => ?_⟩ <;> exact absurd h List.not_mem_nil

end Sys2Proof.Machine
end

