-- ==== Sys2Proof/Laws/Registers.lean ====
section
/-! SUPPORT. The register files after a write (R84, R88), and a bundle whose instruction writes one x register. -/

namespace Sys2Proof.Machine

theorem clr64_bit (w : Dword) {n m : Nat} (hm : m < 64) :
    (clr64 w n).getLsbD m = (w.getLsbD m && decide (m ≠ n)) := by
  have h := Nat.testBit_two_pow (n := n) (m := m)
  simp only [clr64, BitVec.getLsbD_and, BitVec.getLsbD_not, BitVec.getLsbD_ofNat, h, hm, decide_true, Bool.true_and]
  by_cases e : n = m <;> simp [e, eq_comm]
theorem set64_bit (w : Dword) {n m : Nat} (hm : m < 64) :
    (set64 w n).getLsbD m = (w.getLsbD m || decide (m = n)) := by
  have h := Nat.testBit_two_pow (n := n) (m := m)
  simp only [set64, BitVec.getLsbD_or, BitVec.getLsbD_ofNat, h, hm, decide_true, Bool.true_and]
  by_cases e : n = m <;> simp [e, eq_comm]

/-- x registers after a write of one (R84, R88). -/
theorem rx_writeX (c : Ctx) (n m : Nat) (v : Dword) :
    rx (writeX c n v).regs m = if m = n ∧ m ≠ 0 then v else rx c.regs m := by
  by_cases hn : n = 0
  · subst hn
    rw [if_neg (by omega)]; simp [writeX]
  · simp only [writeX, if_neg hn, rx]
    by_cases hm : m = 0
    · simp [hm]
    · simp [hm, fget_fset]
theorem xFull_writeX (c : Ctx) {n m : Nat} (v : Dword) (hm : m < 64) :
    xFull (writeX c n v).regs m = if m = n then true else xFull c.regs m := by
  by_cases h0 : n = 0
  · subst h0
    by_cases h : m = 0 <;> simp [writeX, xFull, h]
  · simp only [writeX, if_neg h0, xFull, clr64_bit _ hm]
    by_cases h : m = n <;> simp [h]

/-- Reading a bundle's operands changes v registers alone (R83, R218). -/
theorem snapshot_regs (s : State) : { snapshot s with v := (cur s).regs.v } = (cur s).regs := by
  have : ∀ (l : FMap Stream) (r : Regs),
      { l.foldl (fun r e => if e.2.write then r else
          match beatNow s s.core e.2 with
          | some (v, _, _) => { r with v := fset r.v e.2.vd v }
          | none => r) r with v := r.v } = r := by
    intro l
    induction l with
    | nil => intro r; rfl
    | cons e l ih =>
      intro r
      rw [List.foldl_cons]
      refine Eq.trans (congrArg (fun q : Regs => { q with v := r.v }) (ih _)) ?_
      split
      · rfl
      · split <;> rfl
  exact this _ _
theorem rx_snapshot (s : State) (n : Nat) : rx (snapshot s) n = rx (cur s).regs n := by
  rw [← snapshot_regs s]; rfl
theorem rp_snapshot (s : State) (n : Nat) : rp (snapshot s) n = rp (cur s).regs n := by
  rw [← snapshot_regs s]; rfl
/-- With no read stream bound, the operands are the registers. -/
theorem snapshot_of_unbound {s : State} (h : (cur s).streams = []) : snapshot s = (cur s).regs := by
  simp [snapshot, h]

@[simp] theorem ops_begin (s : State) (is : List Instr) : ops (begin s is) = snapshot s := rfl
theorem gpOn_begin (s : State) (is : List Instr) (gp : BitVec 2) : gpOn (begin s is) gp = onBit s gp := by
  simp [gpOn, gpOf, onBit, rp_snapshot]

theorem putX_eq (s : State) (gp : BitVec 2) (rd : BitVec 6) (v : Dword) :
    putX s gp rd v = if gpOn s gp then modCur s fun c => writeX c rd.toNat v else s := rfl

/-- The byte memories of a state whose units and cores are kept. -/
theorem keptMemory_of_kept {s t : State} (hu : KeptUnits s t) (hc : KeptCores s t) : KeptMemory s t := by
  have hcl : t.clusters = s.clusters := (congrArg State.clusters hu :)
  have hsl : t.slices = s.slices := (congrArg State.slices hu :)
  intro pl a
  cases pl with
  | hbm => exact congrArg (bget · a) (congrArg State.hbm hu :)
  | host => exact congrArg (bget · a) (congrArg State.hostMem hu :)
  | peer => exact congrArg (bget · a) (congrArg State.peerMem hu :)
  | tcm n => exact congrArg (bget · a) (congrArg Core.tcm (hc n) :)
  | spm n => simp [byteOf, cluAt, hcl]
  | home n k => simp [byteOf, sliceAt, hsl]
  | l1 n k =>
    have : (coreAt t n).l1 = (coreAt s n).l1 := (congrArg Core.l1 (hc n) :)
    simp [byteOf, l1Line, this]

/-- Changing the issuing context by f where f keeps all but registers. -/
theorem regsOnly_of {s t : State} (hu : KeptUnits s t) (hc : KeptCores s t) (ho : KeptOthers s t) (hx : KeptCtx s t) :
    RegsOnly s t := ⟨hu, hc, ho, hx⟩

/-- A bundle that pops nothing, is not watched, and whose instruction writes x[rd] where its governing predicate
enables it (R99). -/
theorem issue_putX {s : State} {i : Instr} (h : Issues s i) (hu : (watchSpan (snapshot s) i).1 = [])
    (hp : popped s [i] = []) (gp : BitVec 2) (rd : BitVec 6) (v : Dword) (eff : State → State)
    (he : eff (begin s [i]) = putX (begin s [i]) gp rd v) :
    ∃ t, issue s i eff = .next t ∧ WroteX s t (onBit s gp) rd v ∧ Flagged s t false 0 ∧ OnlyX s t := by
  by_cases hon : onBit s gp = true
  · obtain ⟨t, ht, ⟨w, hw⟩, h1, h2, h3, h4, h5⟩ := issue_modCur h (unwatched_of_span hu) hp
      (fun c => writeX c rd.toNat v) eff (by rw [he, putX_eq, gpOn_begin, if_pos hon])
    refine ⟨t, ht, ?_, ?_, ⟨?_, ?_, h1, h2⟩, ?_, ?_, ?_, ?_, ⟨h3, h4, h5, ?_⟩, keptMemory_of_kept h3 h4⟩
    · intro n hn
      rw [hw]
      refine ⟨?_, ?_⟩
      · show rx (writeX _ _ _).regs n = _
        rw [rx_writeX]; simp [hon]
      · show xFull (writeX _ _ _).regs n = _
        rw [xFull_writeX _ _ hn]; simp [hon, xFull]
    all_goals first
      | (rw [hw]; simp only [writeX]; split <;> rfl)
      | skip
    · simp only [Flagged, hw, writeX]; split <;> rfl
    · constructor <;> (rw [hw]; simp only [writeX]; split <;> rfl)
    · intro n _; right; rw [hw]; simp only [writeX]; split <;> rfl
    · simp only [KeptAcc, hw, writeX]; split <;> rfl
    · simp only [KeptCr, hw, writeX]; split <;> simp
    · simp only [KeptCtx, hw, writeX]; split <;> rfl
  · obtain ⟨t, ht, ⟨w, hw⟩, h1, h2, h3, h4, h5⟩ := issue_id h (unwatched_of_span hu) hp eff
      (by rw [he, putX_eq, gpOn_begin, if_neg hon])
    refine ⟨t, ht, ?_, ?_, ⟨?_, ?_, h1, h2⟩, ?_, ?_, ?_, ?_, ⟨h3, h4, h5, ?_⟩, keptMemory_of_kept h3 h4⟩
    · intro n _; rw [hw]; simp [hon]
    · rw [Flagged, hw]; rfl
    · rw [hw]
    · rw [hw]
    · constructor <;> rw [hw]
    · intro n _; right; rw [hw]
    · rw [KeptAcc, hw]
    · rw [KeptCr, hw]; simp
    · rw [KeptCtx, hw]

end Sys2Proof.Machine
end

