-- ==== Sys2Proof/Laws/Traps.lean ====
section
/-! SUPPORT. What taking a trap, sending a value and ending a context can do, said once for each operation. -/

namespace Sys2Proof.Machine

/-- Taking a trap is a stop in the handler, a wait for what the context has under way, or handler entry (R353). -/
theorem takeTrapAt_cases (s : State) (n k : Nat) (t : TrapReq) :
    (tsActive (ctxAt s n k).tstat = true ∧ takeTrapAt s n k t = stopCtx (endLease s n k) n k (some t)) ∨
    (tsActive (ctxAt s n k).tstat = false ∧
      (copiesLeft s n k || commandsLeft s n k || secondsLag s n k) = true ∧
      takeTrapAt s n k t = modCtx s n k fun c => { c with trapWait := some t }) ∨
    (tsActive (ctxAt s n k).tstat = false ∧
      (copiesLeft s n k || commandsLeft s n k || secondsLag s n k) = false ∧
      takeTrapAt s n k t = enterTrap s n k t) := by
  unfold takeTrapAt
  by_cases h : tsActive (ctxAt s n k).tstat = true
  · exact .inl ⟨h, if_pos h⟩
  · have h0 := Bool.not_eq_true _ ▸ h
    by_cases g : (copiesLeft s n k || commandsLeft s n k || secondsLag s n k) = true
    · exact .inr (.inl ⟨h0, g, by simp only [h0, g, if_true, Bool.false_eq_true, if_false]⟩)
    · have g0 := Bool.not_eq_true _ ▸ g
      exact .inr (.inr ⟨h0, g0, by simp only [h0, g0, Bool.false_eq_true, if_false]⟩)

/-- An untraced core writes no trace record (R373). -/
theorem trace_of_untraced {s : State} {n : Nat} (h : Untraced s n) (k kind pc : Nat) (v : Dword) :
    trace s n k kind pc v = s := by
  exact if_pos (by rw [h]; rfl)

/-- A stopped context is stopped, waits for nothing, and keeps its registers and pc (R354). -/
theorem ctxAt_stopCtx {s : State} {n k : Nat} (h : Untraced s n) (t : Option TrapReq) :
    ctxAt (stopCtx s n k t) n k = { ctxAt s n k with stopped := true, wait := none } := by
  unfold stopCtx
  rw [trace_of_untraced h]
  exact ctxAt_modCtx_same _ _ _ _

/-- Sending a value for x0 does nothing; another stands last among the values on their way (R202). -/
theorem sendX_eq (s : State) (n k r : Nat) (v : Dword) :
    sendX s n k r v = if r = 0 then s else modCtx s n k fun c => { c with pend := c.pend ++ [.x r v] } := rfl
theorem ctxAt_sendX (s : State) (n k r : Nat) (v : Dword) :
    ctxAt (sendX s n k r v) n k =
      { ctxAt s n k with pend := (ctxAt s n k).pend ++ (if r = 0 then [] else [.x r v]) } := by
  unfold sendX
  split
  · simp
  · exact ctxAt_modCtx_same _ _ _ _

/-- A unit of work ends dormant, or waits until its records are enqueued (R134). -/
theorem endOrWait_cases (s : State) (n k : Nat) (i : Instr) :
    (sendsOut s n k = false ∧ endOrWait s n k i = makeDormant s n k) ∨
    (sendsOut s n k = true ∧ ctxAt (endOrWait s n k i) n k = { ctxAt s n k with
      wait := some { instr := i, ops := (ctxAt s n k).regs, pc := (ctxAt s n k).pc, sub := .barrier, fate := .defer
                     fin := .dormant } }) := by
  unfold endOrWait
  by_cases h : sendsOut s n k = true
  · exact .inr ⟨h, by rw [if_pos h]; exact ctxAt_modCtx_same _ _ _ _⟩
  · exact .inl ⟨Bool.not_eq_true _ ▸ h, if_neg h⟩

end Sys2Proof.Machine
end

