-- ==== Sys2Proof/Tests/Slice0.lean ====
section
/-! SUPPORT. Tests: ill-formed terms that WellFormed refuses, words written out from the encodings of spec/05 (one for
each instruction), a few instructions on small states against values worked out by hand from their rules, and for each
statement states and operands that meet its hypotheses. -/

set_option Elab.async false

namespace Sys2Proof.Tests
open Sys2Proof Sys2Proof.Machine

/-! ## Well-formedness: each check refuses a term. -/

/-- An unassigned func (ENC), a far-only instruction on a home core (NOT_HERE), a reserved field or value (RSVD), a
register or constant out of range (OPERAND), a literal where none may stand (LONGW), a long form whose short field is
not zero, and events that name no unit. -/
theorem test_ill_formed_terms :
    wellFormed false (.add 0 ⟨0, 1, 1, 2, 1, 3⟩) = true ∧
    wellFormed false (.add 0 ⟨1, 1, 1, 2, 1, 3⟩) = false ∧
    wellFormed true (.mwait ⟨1, 0, 0, 0, 0, 0⟩) = false ∧ wellFormed false (.mwait ⟨1, 0, 0, 0, 0, 0⟩) = true ∧
    wellFormed false (.fence ⟨0, 0, 4, 0⟩) = false ∧ wellFormed false (.fence ⟨1, 0, 4, 1⟩) = false ∧
    wellFormed false (.ldaq ⟨0, 7, 1, 1, 2, 0⟩) = false ∧
    wellFormed false (.vadd 0 ⟨1, 1, 1, 32, 1, 3⟩) = false ∧ wellFormed false (.vadd 0 ⟨1, 1, 1, 31, 1, 3⟩) = true ∧
    wellFormed false (.pand 0 ⟨0, 0, 0, 1, 16, 3⟩) = false ∧ wellFormed false (.aclr 0 ⟨0, 0, 0, 0, 0, 8⟩) = false ∧
    wellFormed false (.belay ⟨65, 0, 0⟩) = false ∧ wellFormed false (.belay ⟨64, 0, 0⟩) = true ∧
    wellFormed false (.slli 0 ⟨63, 1, 1, 2, 0⟩) = true ∧ wellFormed false (.slli 0 ⟨64, 1, 1, 2, 0⟩) = false ∧
    wellFormed false (.addi 0 ⟨1, 1, 1, 2, 5⟩) = false ∧ wellFormed false (.addi 0 ⟨0, 1, 1, 2, 5⟩) = true ∧
    wellFormed false (.spawnh ⟨0, 1, 1, 1, 0x400⟩) = false ∧ wellFormed false (.spawnh ⟨0, 1, 1, 1, 0x3FF⟩) = true ∧
    wellFormed false (.budget 768 0) = false ∧ wellFormed false (.budget 512 4) = false ∧
    wellFormed false (.budget 767 3) = true ∧ wellFormed false (.copyComplete 64 0) = false ∧
    wellFormed false (.pageWalk 256 0) = false ∧ wellFormed false (.sampleTick 64) = false ∧
    wellFormed false (.limitChange 0 0 17) = false ∧ wellFormed false (.limitChange 3 1 64) = true ∧
    wellFormed false (.challenge 66 0) = false ∧ wellFormed false (.hostRead 0 (2 ^ 57 - 1) 2) = false ∧
    wellFormed false (.hostRead 63 (2 ^ 57 + 2 ^ 21 - 1) 2) = false := by
  decide +kernel

/-! ## Words written out from the encodings of R82, R86, R92 and R93. -/

/-- On a far core, the lone bundle of word w and literal l is the instruction. -/
def means (e : Nat × Nat × Instr) : Bool :=
  match decodeBundle false e.1 e.2.1 with
  | .ok (.lone i) => i == e.2.2
  | _ => false

/-- ADD to DIVU. -/
theorem test_words_0 :
    [
     (0b11000110001100001010000110000000, 0, .add 0 ⟨0, 1, 1, 6, 5, 3⟩),
     (0b11001110001100001010000110000000, 0, .sub 0 ⟨1, 1, 1, 6, 5, 3⟩),
     (0b11010110001100001010000110000000, 0, .and 0 ⟨2, 1, 1, 6, 5, 3⟩),
     (0b11011110001100001010000110000000, 0, .or 0 ⟨3, 1, 1, 6, 5, 3⟩),
     (0b11100110001100001010000110000000, 0, .xor 0 ⟨4, 1, 1, 6, 5, 3⟩),
     (0b11101110001100001010000110000000, 0, .sll 0 ⟨5, 1, 1, 6, 5, 3⟩),
     (0b11110110001100001010000110000000, 0, .srl 0 ⟨6, 1, 1, 6, 5, 3⟩),
     (0b11111110001100001010000110000000, 0, .sra 0 ⟨7, 1, 1, 6, 5, 3⟩),
     (0b11000110001100001010000110000001, 0, .slt 0 ⟨0, 1, 1, 6, 5, 3⟩),
     (0b11001110001100001010000110000001, 0, .sltu 0 ⟨1, 1, 1, 6, 5, 3⟩),
     (0b11010110001100001010000110000001, 0, .min 0 ⟨2, 1, 1, 6, 5, 3⟩),
     (0b11011110001100001010000110000001, 0, .max 0 ⟨3, 1, 1, 6, 5, 3⟩),
     (0b11100110001100001010000110000001, 0, .minu 0 ⟨4, 1, 1, 6, 5, 3⟩),
     (0b11101110001100001010000110000001, 0, .maxu 0 ⟨5, 1, 1, 6, 5, 3⟩),
     (0b11000110001100001010000110000010, 0, .mul 0 ⟨0, 1, 1, 6, 5, 3⟩),
     (0b11001110001100001010000110000010, 0, .mulh 0 ⟨1, 1, 1, 6, 5, 3⟩),
     (0b11010110001100001010000110000010, 0, .mulhu 0 ⟨2, 1, 1, 6, 5, 3⟩),
     (0b11011110001100001010000110000010, 0, .div 0 ⟨3, 1, 1, 6, 5, 3⟩),
     (0b11100110001100001010000110000010, 0, .divu 0 ⟨4, 1, 1, 6, 5, 3⟩)].all means = true := by
  decide +kernel

/-- REM to LI. -/
theorem test_words_1 :
    [
     (0b11101110001100001010000110000010, 0, .rem 0 ⟨5, 1, 1, 6, 5, 3⟩),
     (0b11110110001100001010000110000010, 0, .remu 0 ⟨6, 1, 1, 6, 5, 3⟩),
     (0b11000110001100001010000110000011, 0, .addsh 0 ⟨0, 1, 1, 6, 5, 3⟩),
     (0b11000010000000001010000110000100, 0, .clz 0 ⟨0, 0, 1, 0, 5, 3⟩),
     (0b11001010000000001010000110000100, 0, .ctz 0 ⟨1, 0, 1, 0, 5, 3⟩),
     (0b11010010000000001010000110000100, 0, .popc 0 ⟨2, 0, 1, 0, 5, 3⟩),
     (0b11011110001100001010000110000100, 0, .bext 0 ⟨3, 1, 1, 6, 5, 3⟩),
     (0b11100110001100001010000110000100, 0, .bdep 0 ⟨4, 1, 1, 6, 5, 3⟩),
     (0b11000110001100001010000110000101, 0, .sel 0 ⟨0, 1, 1, 6, 5, 3⟩),
     (0b11000000100110001010000110001000, 0, .addi 0 ⟨9, 1, 5, 3, 0⟩),
     (0b11000000100110001010000110001001, 0, .andi 0 ⟨9, 1, 5, 3, 0⟩),
     (0b11000000100110001010000110001010, 0, .ori 0 ⟨9, 1, 5, 3, 0⟩),
     (0b11000000100110001010000110001011, 0, .xori 0 ⟨9, 1, 5, 3, 0⟩),
     (0b11000000100110001010000110001100, 0, .slli 0 ⟨9, 1, 5, 3, 0⟩),
     (0b11000000100110001010000110001101, 0, .srli 0 ⟨9, 1, 5, 3, 0⟩),
     (0b11000000100110001010000110001110, 0, .srai 0 ⟨9, 1, 5, 3, 0⟩),
     (0b11000000100110001010000110001111, 0, .slti 0 ⟨9, 1, 5, 3, 0⟩),
     (0b11000000100110001010000110010000, 0, .sltiu 0 ⟨9, 1, 5, 3, 0⟩),
     (0b11000000000000010010000110010001, 0, .li 0 ⟨9, 3, 0⟩)].all means = true := by
  decide +kernel

/-- LIH to BC_LT. -/
theorem test_words_2 :
    [
     (0b11000000000000010010000110010010, 0, .lih 0 ⟨9, 3, 0⟩),
     (0b11000110001100001010000110110000, 0, .fadd 0 ⟨0, 1, 1, 6, 5, 3⟩),
     (0b11000110001100001010000110110001, 0, .fsub 0 ⟨0, 1, 1, 6, 5, 3⟩),
     (0b11000110001100001010000110110010, 0, .fmul 0 ⟨0, 1, 1, 6, 5, 3⟩),
     (0b11000110001100001010000110110011, 0, .fdiv 0 ⟨0, 1, 1, 6, 5, 3⟩),
     (0b11000010000000001010000110110100, 0, .fsqrt 0 ⟨0, 0, 1, 0, 5, 3⟩),
     (0b11000110001100001010000110110101, 0, .fma 0 ⟨0, 1, 1, 6, 5, 3⟩),
     (0b11000110001100001010000110110110, 0, .fmin 0 ⟨0, 1, 1, 6, 5, 3⟩),
     (0b11000110001100001010000110110111, 0, .fmax 0 ⟨0, 1, 1, 6, 5, 3⟩),
     (0b11000110001100001010000110111000, 0, .fcmp 0 ⟨0, 1, 1, 6, 5, 3⟩),
     (0b11000010000000001010000110111001, 0, .fclass 0 ⟨0, 0, 1, 0, 5, 3⟩),
     (0b11000010100100001010000110111010, 0, .fcvt 0 ⟨0, 0, 1, 0x12, 5, 3⟩),
     (0b10000000000000000100000000000001, 0, .br ⟨2, 0, 0⟩),
     (0b10000000000000000100000110000001, 0, .brl ⟨2, 3, 0⟩),
     (0b10000000100110001010000000000010, 0, .jr ⟨9, 1, 5, 0, 0⟩),
     (0b10000000100110001010000110000010, 0, .jrl ⟨9, 1, 5, 3, 0⟩),
     (0b10000000010110001010001100000011, 0, .bcEq ⟨2, 1, 1, 5, 6, 0⟩),
     (0b10000000010110001010001100000100, 0, .bcNe ⟨2, 1, 1, 5, 6, 0⟩),
     (0b10000000010110001010001100000101, 0, .bcLt ⟨2, 1, 1, 5, 6, 0⟩)].all means = true := by
  decide +kernel

/-- BC_GE to STB. -/
theorem test_words_3 :
    [
     (0b10000000010110001010001100000110, 0, .bcGe ⟨2, 1, 1, 5, 6, 0⟩),
     (0b10000000010110001010001100000111, 0, .bcLtu ⟨2, 1, 1, 5, 6, 0⟩),
     (0b10000000010110001010001100001000, 0, .bcGeu ⟨2, 1, 1, 5, 6, 0⟩),
     (0b10000000000000101010001110001001, 0, .bcz ⟨2, 1, 0, 1, 7, 0⟩),
     (0b10000000000000100010001110001010, 0, .loop ⟨2, 0, 0, 1, 7, 0⟩),
     (0b10000000000010000000001000001011, 0, .crrd ⟨0, 0, 0, 0x40, 4⟩),
     (0b10000010000010000000001000001100, 0, .crwr ⟨0, 0, 1, 0x40, 4⟩),
     (0b10000100000010000000001000001101, 0, .crsetb ⟨0, 1, 0, 0x40, 4⟩),
     (0b10000000000010000000001000001101, 0, .crclrb ⟨0, 0, 0, 0x40, 4⟩),
     (0b10000010000000001010000000001110, 0, .waitf ⟨0, 0, 1, 0, 5, 0⟩),
     (0b10000000000000000000000000001111, 0, .synci ⟨0, 0, 0, 0, 0, 0⟩),
     (0b10000000100110001010000110010000, 0, .ldb ⟨2, 1, 1, 5, 3, 0⟩),
     (0b10000000100110001010000110010001, 0, .ldbu ⟨2, 1, 1, 5, 3, 0⟩),
     (0b10000000100110001010000110010010, 0, .ldh ⟨2, 1, 1, 5, 3, 0⟩),
     (0b10000000100110001010000110010011, 0, .ldhu ⟨2, 1, 1, 5, 3, 0⟩),
     (0b10000000100110001010000110010100, 0, .ldw ⟨2, 1, 1, 5, 3, 0⟩),
     (0b10000000100110001010000110010101, 0, .ldwu ⟨2, 1, 1, 5, 3, 0⟩),
     (0b10000000100110001010000110010110, 0, .ldd ⟨2, 1, 1, 5, 3, 0⟩),
     (0b10000001001110001010001100011000, 0, .stb ⟨2, 1, 1, 1, 5, 6, 0⟩)].all means = true := by
  decide +kernel

/-- STH to AMOMINU. -/
theorem test_words_4 :
    [
     (0b10000001001110001010001100011001, 0, .sth ⟨2, 1, 1, 1, 5, 6, 0⟩),
     (0b10000001001110001010001100011010, 0, .stw ⟨2, 1, 1, 1, 5, 6, 0⟩),
     (0b10000001001110001010001100011011, 0, .std ⟨2, 1, 1, 1, 5, 6, 0⟩),
     (0b10000001010010001010000110011100, 0, .ldaq ⟨2, 4, 1, 5, 3, 0⟩),
     (0b10000010100110001010001100011101, 0, .strl ⟨2, 4, 1, 1, 5, 6, 0⟩),
     (0b10000000100110001010000110011110, 0, .ldv ⟨2, 1, 1, 5, 3, 0⟩),
     (0b10000001001110001010001100011111, 0, .stv ⟨2, 1, 1, 1, 5, 6, 0⟩),
     (0b10000110001100001010000110100000, 0, .ldvx ⟨0, 1, 1, 6, 5, 3⟩),
     (0b10000110001100001010000110100001, 0, .stvx ⟨0, 1, 1, 6, 5, 3⟩),
     (0b10000110001100001010000000100010, 0, .pref ⟨0, 1, 1, 6, 5, 0⟩),
     (0b10000110001100001010000000100011, 0, .invr ⟨0, 1, 1, 6, 5, 0⟩),
     (0b10000110001100001010000000100100, 0, .wbr ⟨0, 1, 1, 6, 5, 0⟩),
     (0b10100110001100001010000110110000, 0, .amoadd ⟨4, 1, 1, 6, 5, 3, 0⟩),
     (0b10100110001100001010000110110001, 0, .amoand ⟨4, 1, 1, 6, 5, 3, 0⟩),
     (0b10100110001100001010000110110010, 0, .amoor ⟨4, 1, 1, 6, 5, 3, 0⟩),
     (0b10100110001100001010000110110011, 0, .amoxor ⟨4, 1, 1, 6, 5, 3, 0⟩),
     (0b10100110001100001010000110110100, 0, .amomin ⟨4, 1, 1, 6, 5, 3, 0⟩),
     (0b10100110001100001010000110110101, 0, .amomax ⟨4, 1, 1, 6, 5, 3, 0⟩),
     (0b10100110001100001010000110110110, 0, .amominu ⟨4, 1, 1, 6, 5, 3, 0⟩)].all means = true := by
  decide +kernel

/-- AMOMAXU to CPYQ. -/
theorem test_words_5 :
    [
     (0b10100110001100001010000110110111, 0, .amomaxu ⟨4, 1, 1, 6, 5, 3, 0⟩),
     (0b10100110001100001010000110111000, 0, .amoswp ⟨4, 1, 1, 6, 5, 3, 0⟩),
     (0b10100110001100001010000110111001, 0, .amocas ⟨4, 1, 1, 6, 5, 3, 0⟩),
     (0b10100110001100001010000110111010, 0, .amofadd ⟨4, 1, 1, 6, 5, 3, 0⟩),
     (0b10100110001100001010000110111011, 0, .amoaddt ⟨4, 1, 1, 6, 5, 3, 0⟩),
     (0b10000000000000000110001011000000, 0, .fence ⟨0, 1, 4, 5⟩),
     (0b10000010000000001010000001000001, 0, .sigclr ⟨0, 0, 1, 0, 5, 0⟩),
     (0b10000110001100001010000001000010, 0, .regset ⟨0, 1, 1, 6, 5, 0⟩),
     (0b10000010000000001010000001000011, 0, .regclr ⟨0, 0, 1, 0, 5, 0⟩),
     (0b10000010000000001010000001000100, 0, .retype ⟨0, 0, 1, 0, 5, 0⟩),
     (0b10000110001100001010000001000101, 0, .wsclr ⟨0, 1, 1, 6, 5, 0⟩),
     (0b10110110001100001010000001000110, 0, .publ ⟨6, 1, 1, 6, 5, 0⟩),
     (0b10000000000100001010101001000111, 0, .sbind ⟨0, 2, 5, 0x14⟩),
     (0b10000000000000000000101001001000, 0, .sunbind ⟨0, 0, 0, 0x14⟩),
     (0b10010010001100001010000111010000, 0, .cpy ⟨2, 1, 6, 5, 3, 0⟩),
     (0b10010010001100001010000111010001, 0, .cpy2 ⟨2, 1, 6, 5, 3, 0⟩),
     (0b10010010001100001010000111010010, 0, .cpym ⟨2, 1, 6, 5, 3, 0⟩),
     (0b10010010001100001010000111010011, 0, .cpyw ⟨2, 1, 6, 5, 3, 0⟩),
     (0b10000000000000000000000111010100, 0, .cpyq ⟨0, 0, 0, 0, 3, 0⟩)].all means = true := by
  decide +kernel

/-- SPAWN to WFA. -/
theorem test_words_6 :
    [
     (0b10001010101010001010001101100000, 0, .spawn ⟨0, 0x155, 5, 6⟩),
     (0b10000000001110001010001101100001, 0x155, .spawnh ⟨0, 7, 5, 6, 0x155⟩),
     (0b10000000000000000000000111100010, 0, .take ⟨0, 0, 0, 0, 0, 3⟩),
     (0b10001010000000001010000111100010, 0, .steal ⟨1, 0, 1, 0, 5, 3⟩),
     (0b10010000000000000000000111100010, 0, .stealAny ⟨2, 0, 0, 0, 0, 3⟩),
     (0b10000000000000000000000001100011, 0, .tend ⟨0, 0, 0, 0, 0, 0⟩),
     (0b10001000000000000000000001100011, 0, .tabort ⟨1, 0, 0, 0, 0, 0⟩),
     (0b10000010000000001010000111100100, 0, .qdepth ⟨0, 0, 1, 0, 5, 3⟩),
     (0b10001000000000000000000111100100, 0, .qdepthIn ⟨1, 0, 0, 0, 0, 3⟩),
     (0b10000110001100001010000001100101, 0, .send ⟨0, 1, 1, 6, 5, 0⟩),
     (0b10000110001100001010000001100110, 0, .sendg ⟨0, 1, 1, 6, 5, 0⟩),
     (0b10000000000000010010000001100111, 0, .gjoin ⟨0, 0, 9, 0⟩),
     (0b10001000000000010010000001100111, 0, .gleave ⟨1, 0, 9, 0⟩),
     (0b10010000000000010010000001100111, 0, .gtag ⟨2, 0, 9, 0⟩),
     (0b10011000000000010010000001100111, 0, .gbar ⟨3, 0, 9, 0⟩),
     (0b10100000000000010010000001100111, 0, .garrive ⟨4, 0, 9, 0⟩),
     (0b10101000000000010010000001100111, 0, .gwait ⟨5, 0, 9, 0⟩),
     (0b10000000000000010010001101101000, 0x155, .treel ⟨0, 9, 6, 0x155⟩),
     (0b10000000000000000000000111101110, 0, .wfa ⟨0, 0, 0, 0, 0, 3⟩)].all means = true := by
  decide +kernel

/-- SEMP to NPCFG. -/
theorem test_words_7 :
    [
     (0b10000000000000010110000001101001, 0, .semp ⟨0, 0, 0xb, 0⟩),
     (0b10001000000000010110000001101001, 0, .semv ⟨1, 0, 0xb, 0⟩),
     (0b10010000000000010110000111101001, 0, .semtry ⟨2, 0, 0xb, 3⟩),
     (0b10000000000000000000000001101010, 0, .prio ⟨0, 0, 0⟩),
     (0b10000000000000010010000001101011, 0, .rope ⟨9, 0, 0⟩),
     (0b10000000000000000000000001101100, 0, .unrope ⟨0, 0, 0, 0, 0, 0⟩),
     (0b10000000000000010010000001101101, 0, .ropeck ⟨9, 0, 0⟩),
     (0b10000000000000010010000001110000, 0, .belay ⟨9, 0, 0⟩),
     (0b10000000000000000000000001110001, 0, .unbelay ⟨0, 0, 0, 0, 0, 0⟩),
     (0b10001000000000000000000001110001, 0, .mwait ⟨1, 0, 0, 0, 0, 0⟩),
     (0b10010000000000000000000111110001, 0, .mstat ⟨2, 0, 0, 0, 0, 3⟩),
     (0b10000110001100001010000001110010, 0, .mgath ⟨0, 1, 1, 6, 5, 0⟩),
     (0b10000010000000001010000001110011, 0, .mldb ⟨0, 0, 1, 0, 5, 0⟩),
     (0b10000000000000000000000111110100, 0, .mmul ⟨0, 0, 0, 0, 0, 3⟩),
     (0b10001010000000001010000111110100, 0, .mmuls ⟨1, 0, 1, 0, 5, 3⟩),
     (0b10010110001100001010000001110100, 0, .mscale ⟨2, 1, 1, 6, 5, 0⟩),
     (0b10011010000000001010000111110100, 0, .mstore ⟨3, 0, 1, 0, 5, 3⟩),
     (0b10100000000000000000000111110100, 0, .mclr ⟨4, 0, 0, 0, 0, 3⟩),
     (0b10000010000000001010000001110101, 0, .npcfg ⟨0, 0, 1, 0, 5, 0⟩)].all means = true := by
  decide +kernel

/-- NPRED to VNEG. -/
theorem test_words_8 :
    [
     (0b10000110001100001010000111110110, 0, .npred ⟨0, 1, 1, 6, 5, 3⟩),
     (0b10000010000000001010000111110111, 0, .ncheck ⟨0, 0, 1, 0, 5, 3⟩),
     (0b10000000000000010010000001111000, 0, .trap ⟨9, 0, 0⟩),
     (0b10000000000000000000000001111001, 0, .tret ⟨0, 0, 0, 0, 0, 0⟩),
     (0b10000000000000000000000001111010, 0, .upcret ⟨0, 0, 0, 0, 0, 0⟩),
     (0b10000110001100001010000001111011, 0, .ctxsave ⟨0, 1, 1, 6, 5, 0⟩),
     (0b10000010000000001010000111111100, 0, .ctxload ⟨0, 0, 1, 0, 5, 3⟩),
     (0b10000110001100001010000001111101, 0, .xinv ⟨0, 1, 1, 6, 5, 0⟩),
     (0b10000000000000000000000001111110, 0, .replayall ⟨0, 0, 0, 0, 0, 0⟩),
     (0b10000000000000010010000001111111, 0, .dbrk ⟨9, 0, 0⟩),
     (0b11000110001100001010000111000000, 0, .vadd 0 ⟨0, 1, 1, 6, 5, 3⟩),
     (0b11000110001100001010000111000001, 0, .vsub 0 ⟨0, 1, 1, 6, 5, 3⟩),
     (0b11000110001100001010000111000010, 0, .vmul 0 ⟨0, 1, 1, 6, 5, 3⟩),
     (0b11000110001100001010000111000011, 0, .vfma 0 ⟨0, 1, 1, 6, 5, 3⟩),
     (0b11000110001100001010000111000100, 0, .vmac 0 ⟨0, 1, 1, 6, 5, 3⟩),
     (0b11000110001100001010000111000101, 0, .vmin 0 ⟨0, 1, 1, 6, 5, 3⟩),
     (0b11000110001100001010000111000110, 0, .vmax 0 ⟨0, 1, 1, 6, 5, 3⟩),
     (0b11000010000000001010000111000111, 0, .vabs 0 ⟨0, 0, 1, 0, 5, 3⟩),
     (0b11000010000000001010000111001000, 0, .vneg 0 ⟨0, 0, 1, 0, 5, 3⟩)].all means = true := by
  decide +kernel

/-- VAND to VRSQ. -/
theorem test_words_9 :
    [
     (0b11000110001100001010000111001001, 0, .vand 0 ⟨0, 1, 1, 6, 5, 3⟩),
     (0b11000110001100001010000111001010, 0, .vor 0 ⟨0, 1, 1, 6, 5, 3⟩),
     (0b11000110001100001010000111001011, 0, .vxor 0 ⟨0, 1, 1, 6, 5, 3⟩),
     (0b11000110001100001010000111001100, 0, .vsll 0 ⟨0, 1, 1, 6, 5, 3⟩),
     (0b11001010001100001010000111001100, 0, .vsllImm 0 ⟨1, 0, 1, 6, 5, 3⟩),
     (0b11000110001100001010000111001101, 0, .vsrl 0 ⟨0, 1, 1, 6, 5, 3⟩),
     (0b11001010001100001010000111001101, 0, .vsrlImm 0 ⟨1, 0, 1, 6, 5, 3⟩),
     (0b11000110001100001010000111001110, 0, .vsra 0 ⟨0, 1, 1, 6, 5, 3⟩),
     (0b11001010001100001010000111001110, 0, .vsraImm 0 ⟨1, 0, 1, 6, 5, 3⟩),
     (0b11000110001100001010000111001111, 0, .vcmp 0 ⟨0, 1, 1, 6, 5, 3⟩),
     (0b11000110001100001010000111010000, 0, .vsel 0 ⟨0, 1, 1, 6, 5, 3⟩),
     (0b11000010000000001010000111010001, 0, .vbcast 0 ⟨0, 0, 1, 0, 5, 3⟩),
     (0b11000110001100001010000111010010, 0, .vext 0 ⟨0, 1, 1, 6, 5, 3⟩),
     (0b11000010001100001010000111010011, 0, .vred 0 ⟨0, 0, 1, 6, 5, 3⟩),
     (0b11000110001100001010000111010100, 0, .vperm 0 ⟨0, 1, 1, 6, 5, 3⟩),
     (0b11000010001100001010000111010101, 0, .vcvt 0 ⟨0, 0, 1, 6, 5, 3⟩),
     (0b11000010000000001010000111010110, 0, .vexp2 0 ⟨0, 0, 1, 0, 5, 3⟩),
     (0b11000010000000001010000111010111, 0, .vrcp 0 ⟨0, 0, 1, 0, 5, 3⟩),
     (0b11000010000000001010000111011000, 0, .vrsq 0 ⟨0, 0, 1, 0, 5, 3⟩)].all means = true := by
  decide +kernel

/-- VLOG2 to PSET. -/
theorem test_words_10 :
    [
     (0b11000010000000001010000111011001, 0, .vlog2 0 ⟨0, 0, 1, 0, 5, 3⟩),
     (0b11000010001100001010000111011010, 0, .vnzc 0 ⟨0, 0, 1, 6, 5, 3⟩),
     (0b11000010001100001010000111011011, 0, .vbmap 0 ⟨0, 0, 1, 6, 5, 3⟩),
     (0b11000010000000001010000111011100, 0, .vpackb 0 ⟨0, 0, 1, 0, 5, 3⟩),
     (0b11000010000000001010000111011101, 0, .vunpkb 0 ⟨0, 0, 1, 0, 5, 3⟩),
     (0b11100110001100001010000111011101, 0, .vunpkbZx8 0 ⟨4, 1, 1, 6, 5, 3⟩),
     (0b11000100001100001010000111011110, 0, .vidx 0 ⟨0, 1, 0, 6, 5, 3⟩),
     (0b11001100001100001010000111011110, 0, .vidxI32 0 ⟨1, 1, 0, 6, 5, 3⟩),
     (0b11000000001100001010000111011111, 0, .vnar 0 ⟨0, 0, 0, 6, 5, 3⟩),
     (0b11000000000000000000000111110000, 0, .aclr 0 ⟨0, 0, 0, 0, 0, 3⟩),
     (0b11000010000000001010000111110001, 0, .amovToAcc 0 ⟨0, 0, 1, 0, 5, 3⟩),
     (0b11110000000000001010000111110001, 0, .amovFromAcc 0 ⟨6, 0, 0, 0, 5, 3⟩),
     (0b11000000001100001010000111110010, 0, .pand 0 ⟨0, 0, 0, 6, 5, 3⟩),
     (0b11000000001100001010000111110011, 0, .por 0 ⟨0, 0, 0, 6, 5, 3⟩),
     (0b11000000001100001010000111110100, 0, .pxor 0 ⟨0, 0, 0, 6, 5, 3⟩),
     (0b11000000000000001010000111110101, 0, .pnot 0 ⟨0, 0, 0, 0, 5, 3⟩),
     (0b11000000000000001010000111110110, 0, .pcnt 0 ⟨0, 0, 0, 0, 5, 3⟩),
     (0b11000000000000001010000111110111, 0, .pfirst 0 ⟨0, 0, 0, 0, 5, 3⟩),
     (0b11000010000000001010000111111000, 0, .pset 0 ⟨0, 0, 1, 0, 5, 3⟩)].all means = true := by
  decide +kernel

/-- The worked encodings of spec/05: STD x15, 0(x13) beside ADDI x13, x13, 8; SPAWN of body 0 with x13 and x14 beside
ADD x13, x20, x14; LI x20, 0x00800200; ADD x0, x0, x0. -/
theorem test_worked_encodings :
    (match decodeBundle false 0x0019A79B 0x0089A688 with
      | .ok (.pair c a) => c == .std ⟨0, 0, 1, 1, 13, 15, 0⟩ && a == .addi 0 ⟨8, 1, 13, 13, 0⟩ | _ => false) = true ∧
    (match decodeBundle false 0x0001A760 0x06728680 with
      | .ok (.pair c a) => c == .spawn ⟨0, 0, 13, 14⟩ && a == .add 0 ⟨0, 1, 1, 14, 20, 13⟩ | _ => false) = true ∧
    means (0xC0000A11, 0x00800200, .li 0 ⟨0, 20, 0x00800200⟩) = true ∧
    means (0xC6000000, 0, .add 0 ⟨0, 1, 1, 0, 0, 0⟩) = true := by
  decide +kernel

/-! ## States and operands that meet the statements' hypotheses. -/

theorem issues_of {s : State} {i : Instr}
    (h : (decide (s.latch = none) && decide (s.tail = none) && decide (check s [(i, 0)] = .go) &&
      !drains (reading s i) i) = true) : Issues s i := by
  simpa [Issues, and_assoc] using h
theorem reaches_of {s : State} {i : Instr}
    (h : (decide (s.latch = none) && decide (s.tail = none) && !busy s &&
      decide (emptyTrap s (cur s).pc [(i, 0)] = none) && ready s [i] && !ropeFull s) = true) : Reaches s i := by
  simpa [Reaches, and_assoc] using h

/-- A package with one partition of cluster 0 and slice 0, on whose core n context 0 runs. -/
def one (n : Nat) (core : Core) (c : Ctx) : State :=
  { cores := [(n, { core with part := some 0, ctxs := [(0, { c with running := true })] })]
    parts := [(0, { live := true, clusters := [0], slices := [0], ceiling := 0x1000000, tdi := .run })]
    core := n }
def far (c : Ctx) : State := one 0 { xb := 16 } c
def xs (l : List (Nat × Dword)) : Regs := { x := l }
def farX (l : List (Nat × Dword)) : State := far { regs := xs l }

theorem meets_LoneBundleDecodesToItself :
    (wellFormed false (.vadd 0 ⟨1, 1, 1, 31, 31, 31⟩) = true ∧ hasWord (.vadd 0 ⟨1, 1, 1, 31, 31, 31⟩) = true ∧
      gpOf (.vadd 0 ⟨1, 1, 1, 31, 31, 31⟩) = 0) ∧
    (wellFormed true (.li 0 ⟨0, 63, 0xFFFFFFFF⟩) = true ∧ hasWord (.li 0 ⟨0, 63, 0xFFFFFFFF⟩) = true ∧
      gpOf (.li 0 ⟨0, 63, 0xFFFFFFFF⟩) = 0) := by decide +kernel
theorem meets_PairedBundleDecodesToItself :
    let c : Instr := .ldd ⟨0x80, 0, 1, 13, 9, 0⟩
    let a : Instr := .vadd 3 ⟨1, 1, 1, 2, 1, 3⟩
    wellFormed false c = true ∧ wellFormed false a = true ∧ hasWord c = true ∧ isA c = false ∧ isA a = true ∧
      literalOnly c = false ∧ (literal c).getD 0 = 0 ∧ (literal a).getD 0 = 0 := by decide +kernel
/-- Words of a lone bundle and of a pair that decode; and the highest words. -/
theorem meets_DecodedBundleIsLegalAndUnique :
    (match decodeBundle false 0xC6000000 0 with | .ok (.lone _) => true | _ => false) = true ∧
    (match decodeBundle false 0x0019A79B 0x0089A688 with | .ok (.pair _ _) => true | _ => false) = true ∧
    0xFFFFFFFF < 2 ^ 32 := by decide +kernel

/-- The dword of a bundle at pc 0 of core 0. -/
def bundleAt (w0 w1 : Nat) : State := one 0 { xb := 16, tcm := writeBytes [] 0 8 (w0 + 2 ^ 32 * w1) } {}
theorem meets_StepRunsTheDecodedBundle :
    let s := bundleAt 0xC6000000 0
    let u := issuing s [] 0 0
    let p := bundleAt 0x0019A79B 0x0089A688
    (s.schedule = [] ∧ ticks s = [] ∧ budgets s = [] ∧ dues s = [] ∧ works s = [] ∧ nextCore s (coreOrder s) [] = some ([], 0, 0) ∧
      (cur u).bpSkip = false ∧ bpHit u = none ∧ isSecond (cur u) = false ∧ (cur u).pc < boundary u 0 ∧
      ffind (coreAt u 0).fetched (cur u).pc = none ∧ tcmDword u 0 0 = 0xC6000000) ∧
    (budgets p = [] ∧ dues p = [] ∧ works p = [] ∧ nextCore p (coreOrder p) [] = some ([], 0, 0) ∧ pairDest (.std ⟨0, 0, 1, 1, 13, 15, 0⟩) (.addi 0 ⟨8, 1, 13, 13, 0⟩) = false ∧
      check (readEntry (noteFetch (issuing p [] 0 0) 0 0) [(.std ⟨0, 0, 1, 1, 13, 15, 0⟩, 0), (.addi 0 ⟨8, 1, 13, 13, 0⟩, 1)])
        [(.std ⟨0, 0, 1, 1, 13, 15, 0⟩, 0), (.addi 0 ⟨8, 1, 13, 13, 0⟩, 1)] = .go) := by
  decide +kernel
theorem meets_StepRunsTheScheduledEvent : ({ schedule := [.counterRead, .coldStart] } : State).schedule = .counterRead :: [.coldStart] := rfl
theorem meets_FetchTrapsAreTaken :
    let s := one 0 { xb := 0 } {}
    let t := one 0 { xb := 8 } {}
    (noCtx 0 0 = false ∧ attempts s = true ∧ isSecond (cur s) = false ∧ boundary s 0 ≤ (cur s).pc) ∧
    (attempts t = true ∧ (cur t).pc < boundary t 0 ∧ ffind (coreAt t 0).fetched (cur t).pc = none ∧
      (match decodeBundle false 0 0 with | .error e => e.sub == .enc | _ => false) = true ∧ tcmDword t 0 0 = 0) := by
  decide +kernel

theorem meets_IntegerInstructionsGiveTheirRows :
    (integerRow (.sub 1 ⟨1, 1, 1, 2, 1, 63⟩)).isSome = true ∧ Issues (farX [(1, 5), (2, 7)]) (.sub 1 ⟨1, 1, 1, 2, 1, 63⟩) ∧
    (divisionRow (.div 0 ⟨3, 1, 1, 0, 1, 0⟩)).isSome = true ∧ Issues (farX [(1, 5)]) (.div 0 ⟨3, 1, 1, 0, 1, 0⟩) :=
  ⟨by rfl, issues_of (by decide +kernel), by rfl, issues_of (by decide +kernel)⟩
theorem meets_IntegerInstructionsGiveTheirRows_others :
    (bitRow (.bext 0 ⟨3, 1, 1, 2, 1, 3⟩)).isSome = true ∧ Issues (farX [(1, 5)]) (.bext 0 ⟨3, 1, 1, 2, 1, 3⟩) ∧
    (immediateRow (.addi 0 ⟨0, 1, 1, 0, 0x80000000⟩)).isSome = true ∧ Issues (farX []) (.addi 0 ⟨0, 1, 1, 0, 0x80000000⟩) :=
  ⟨by rfl, issues_of (by decide +kernel), by rfl, issues_of (by decide +kernel)⟩
theorem meets_FloatInstructionsGiveTheirRows :
    (floatRow (.fma 0 ⟨2, 1, 1, 2, 1, 3⟩)).isSome = true ∧ Issues (farX [(1, 0x3FF0000000000000)]) (.fma 0 ⟨2, 1, 1, 2, 1, 3⟩) :=
  ⟨by rfl, issues_of (by decide +kernel)⟩
theorem meets_RoundingFollowsTheMode :
    (e4m3 ∈ formats ∧ 4 < 5 ∧ (roundTo e4m3 4 0 (.exact true 3 (-1))).2 &&& fOF = 0) ∧
    (e2m1 ∈ formats ∧ 0xFFFF < 2 ^ 16 ∧ 7 < 2 ^ e2m1.width ∧ (decodeF e2m1 7).isNan = false) := by decide +kernel
theorem meets_CompareMasksFollowTheValues :
    f32 ∈ formats ∧ isFin (decodeF f32 0x80000000) = true ∧ isFin (decodeF f32 0x7F7FFFFF) = true ∧
    (decodeF f32 0x7F800001).isNan = true ∧ decodeF f32 0xFF800000 = .inf true ∧ decodeF f32 0x7F800000 = .inf false := by
  decide +kernel
def stream1 : Stream :=
  { vd := 16, write := false, space := 1, elem := 0, base := 0x100, stride := [4, 0, 0], bound := [300, 1, 1] }
theorem meets_BranchesGoWhereTheirRowsSay :
    ((branchRow (.loop ⟨0x2000, 0, 0, 1, 1, 0⟩)).isSome = true ∧ Issues (farX [(1, 0)]) (.loop ⟨0x2000, 0, 0, 1, 1, 0⟩) ∧
      Untraced (farX [(1, 0)]) 0) ∧
    ((1 : BitVec 1) = 1 ∧ Issues (far { streams := [(0, stream1)] }) (.bcz ⟨4, 1, 1, 0, 16, 0⟩) ∧
      Untraced (far { streams := [(0, stream1)] }) 0 ∧ isSecond (cur (far { streams := [(0, stream1)] })) = false) :=
  ⟨⟨by rfl, issues_of (by decide +kernel), by rfl⟩, rfl, issues_of (by decide +kernel), by rfl, by rfl⟩
theorem meets_ControlReadsGiveTheRegisters :
    (Issues (far {}) (.crrd ⟨0, 0, 0, 0x060, 3⟩) ∧ (0x060, 0) ∈ crTable (far {})) ∧
    (Issues (far {}) (.crrd ⟨0, 0, 0, 0x071, 3⟩) ∧ (0x071, 0) ∈ lateTable (far {})) :=
  ⟨⟨issues_of (by decide +kernel), by decide +kernel⟩, issues_of (by decide +kernel), by decide +kernel⟩
theorem meets_ControlWritesReadBackOrTrap :
    ((crWriteRow (.crsetb ⟨0, 1, 0, 0x040, 2⟩)).isSome = true ∧ Issues (far {}) (.crsetb ⟨0, 1, 0, 0x040, 2⟩) ∧
      (coreAt (far {}) 0).part.isSome = true ∧ (crWritten (far {}) 0x040 4).isSome = true) ∧
    (Reaches (far {}) (.crwr ⟨0, 0, 1, 0x071, 3⟩) ∧ Reaches (farX [(3, 6)]) (.crwr ⟨0, 0, 1, 0x040, 3⟩) ∧
      5 < (rx (cur (farX [(3, 6)])).regs 3).toNat % 8) :=
  ⟨⟨by rfl, issues_of (by decide +kernel), by rfl, by rfl⟩, reaches_of (by decide +kernel), reaches_of (by decide +kernel),
    by decide +kernel⟩
theorem meets_WaitsAndSynciChangeNothingElse :
    Issues (far {}) (.waitf ⟨0, 0, 1, 0, 63, 0⟩) ∧ Issues (far { rope := .lead [(1, 0, 1)] }) (.ropeck ⟨15, 0, 0⟩) ∧
    Issues (far {}) (.synci ⟨0, 0, 0, 0, 0, 0⟩) :=
  ⟨issues_of (by decide +kernel), issues_of (by decide +kernel), issues_of (by decide +kernel)⟩
theorem unbound_of {s : State} {i : Instr} (h : (cur s).streams = []) : Unbound s i := by simp [Unbound, h]
theorem meets_LaneInstructionsGiveTheirRows :
    (laneRow (.vfma 1 ⟨1, 1, 1, 31, 16, 31⟩)).isSome = true ∧ Issues (far {}) (.vfma 1 ⟨1, 1, 1, 31, 16, 31⟩) ∧
      Unbound (far {}) (.vfma 1 ⟨1, 1, 1, 31, 16, 31⟩) :=
  ⟨by rfl, issues_of (by decide +kernel), unbound_of rfl⟩
theorem meets_FloatLanesGiveTheirRows :
    (floatLaneRow (.vcvt 0 ⟨5, 0, 1, 3, 1, 2⟩)).isSome = true ∧ Issues (far {}) (.vcvt 0 ⟨5, 0, 1, 3, 1, 2⟩) ∧
      Unbound (far {}) (.vcvt 0 ⟨5, 0, 1, 3, 1, 2⟩) :=
  ⟨by rfl, issues_of (by decide +kernel), unbound_of rfl⟩
theorem meets_PredicatesAndReductionsGiveTheirRows :
    (predRow (.pset 0 ⟨0, 0, 1, 0, 1, 15⟩)).isSome = true ∧ Issues (farX [(1, 300)]) (.pset 0 ⟨0, 0, 1, 0, 1, 15⟩) ∧
      Unbound (farX [(1, 300)]) (.pset 0 ⟨0, 0, 1, 0, 1, 15⟩) :=
  ⟨by rfl, issues_of (by decide +kernel), unbound_of rfl⟩
theorem meets_PredicatesAndReductionsGiveTheirRows_x :
    (vectorXRow (.vred 2 ⟨4, 0, 1, 15, 1, 3⟩)).isSome = true ∧ Issues (far {}) (.vred 2 ⟨4, 0, 1, 15, 1, 3⟩) ∧
      Unbound (far {}) (.vred 2 ⟨4, 0, 1, 15, 1, 3⟩) :=
  ⟨by rfl, issues_of (by decide +kernel), unbound_of rfl⟩
theorem meets_AccumulatorsGiveTheirRows :
    (accRow (.vmac 1 ⟨1, 1, 1, 2, 1, 7⟩)).isSome = true ∧ Issues (far {}) (.vmac 1 ⟨1, 1, 1, 2, 1, 7⟩) ∧
      Unbound (far {}) (.vmac 1 ⟨1, 1, 1, 2, 1, 7⟩) :=
  ⟨by rfl, issues_of (by decide +kernel), unbound_of rfl⟩

/-- A beat, the last beat, a done stream, and a beat read ahead. -/
theorem meets_BoundReadsPopOneBeat :
    let i : Instr := .vadd 0 ⟨1, 1, 1, 17, 16, 3⟩
    let s (c : Nat) : State := far { streams := [(2, { stream1 with count := c })] }
    let a : Stream := { stream1 with ready := [(0, (5, 1, none))] }
    ((laneRow i).isSome = true ∧ stream1.write = false ∧ stream1.space = 1 ∧ stream1.vd ∈ vReads i ∧ stream1.vd ≠ 3) ∧
    (Issues (s 0) i ∧ streamDone stream1 = false ∧ ffind stream1.ready 0 = none ∧ (s 0).accesses = [] ∧
      beatFault (s 0) 0 stream1 0 = none) ∧
    (Issues (s 1) i ∧ beatFault (s 1) 0 { stream1 with count := 1 } 1 = none) ∧
    (Issues (s 2) i ∧ streamDone { stream1 with count := 2 } = true) ∧
    (Issues (far { streams := [(2, a)] }) i ∧ streamDone a = false ∧ ffind a.ready 0 = some (5, 1, none)) :=
  ⟨by decide +kernel, ⟨issues_of (by decide +kernel), by decide +kernel⟩, ⟨issues_of (by decide +kernel), by decide +kernel⟩,
    ⟨issues_of (by decide +kernel), by decide +kernel⟩, issues_of (by decide +kernel), by decide +kernel⟩
theorem meets_BoundWritesPushOneBeat :
    let i : Instr := .vadd 0 ⟨1, 1, 1, 2, 1, 16⟩
    let st : Stream := { stream1 with write := true, elem := 5 }
    let s : State := far { streams := [(7, st)] }
    (laneRow i).isSome = true ∧ Issues s i ∧ (cur s).streams = [(7, st)] ∧ st.write = true ∧ st.space = 1 ∧ st.vd = 16 ∧
      beatFault s 0 st st.count = none :=
  ⟨by rfl, issues_of (by decide +kernel), rfl, rfl, rfl, rfl, by decide +kernel⟩

theorem memoryOk_far (c : Ctx) : MemoryOk (far c) := by
  refine ⟨rfl, rfl, rfl, fun e h => ?_, fun e h => ?_, fun e h im hi => ?_⟩
  · rw [List.mem_singleton.mp h]; rfl
  · exact absurd h List.not_mem_nil
  · rw [List.mem_singleton.mp h] at hi; cases hi
/-- An access of core 0 to the scratchpad, each part at its bank, and the state in which it stands alone. -/
def bankAccess (k : AccessKind) (ps : List Piece) (data : Nat) : Access :=
  { kind := k, core := 0, ctx := 0, part := 0, pc := 0, word := 0, pieces := ps, data := data, spm := true,
    there := ps.foldl (fun m p => fset m p.pos 0) [] }
def banked (a : Access) : State := { far {} with accesses := [a], cycle := 1 }
theorem sole_banked (a : Access) : Sole (banked a) a := ⟨List.mem_singleton.mpr rfl, fun _ h _ => List.mem_singleton.mp h⟩
/-- Its bank, fresh, grants its part i to it. -/
def grants (a : Access) (o i : Nat) : Bool :=
  decide (bankGrant (banked a) (a.core / 8) (bankOf o) = some (.core a.core a.id i, { ptr := 1, eng := false, last := some 1 }))
theorem memoryOk_banked (a : Access) : MemoryOk (banked a) := by
  refine ⟨rfl, rfl, rfl, fun e h => ?_, fun e h => ?_, fun e h im hi => ?_⟩
  · rw [List.mem_singleton.mp h]; rfl
  · exact absurd h List.not_mem_nil
  · rw [List.mem_singleton.mp h] at hi; cases hi
/-- The lowest TCM address at the boundary, and the highest scratchpad dword. -/
theorem meets_LocalLoadsGiveTheBytes :
    let p := part1 0x5FFFF8 8 0 false
    let a := bankAccess (.load 8 true false 3) [p] 0
    ((loadRow (.ldh ⟨8, 2, 1, 0, 3, 0⟩)).isSome = true ∧ Issues (far {}) (.ldh ⟨8, 2, 1, 0, 3, 0⟩)) ∧
    Sole (banked a) a ∧ a.spm = true ∧ a.host = false ∧ a.kind = .load 8 true false 3 ∧ a.pieces = [p] ∧ a.data = 0 ∧
      grants a 0x5FFFF8 0 = true :=
  ⟨⟨by rfl, issues_of (by decide +kernel)⟩, sole_banked _, by decide +kernel⟩
/-- A copy into the scratchpad with a word for the bank of offset 8, and a state in which cores wait there too. -/
def wordCopy : Copy :=
  { id := 1, core := 0, ctx := 0, part := 0, pc := 0, kind := 0, sp := 2, h := 0, dst := 0, src := 0, len := 8, waits := [((0, 8, 8, 5), 0)] }
def contended (b : Bank) (copies : List Copy) (cores : List Nat) : State :=
  { far {} with
    cycle := 1
    clusters := [(0, { banks := [(1, b)], copies := copies })]
    accesses := cores.map fun n => { bankAccess .store [part1 8 8 0 true] 7 with core := n, id := n } }
/-- A bank that has granted in this cycle; the engine's turn, and alone; the cores' turn, from the pointer on and round it. -/
theorem meets_LocalStoresWriteTheBytes_banks :
    let pick (b : Bank) (cs : List Copy) (ns : List Nat) := (bankGrant (contended b cs ns) 0 1).map (·.1)
    pick { last := some 1 } [wordCopy] [3] = none ∧
    pick {} [wordCopy] [3] = some (.engine 0 0 0) ∧ pick { eng := true } [wordCopy] [] = some (.engine 0 0 0) ∧
    pick { eng := true, ptr := 4 } [wordCopy] [3, 7] = some (.core 7 7 0) ∧ pick { ptr := 4 } [] [3, 2] = some (.core 2 2 0) ∧
    (coresAt (contended { eng := true, ptr := 4 } [wordCopy] [3, 7]) 0 1).length = 2 := by decide +kernel
/-- A command of the context that was issued before the store, and has not begun, holds it. -/
theorem meets_LocalStoresWriteTheBytes :
    let p := part1 0x5FFFF8 8 0 true
    let a := bankAccess .store [p] 7
    let m : MCmd := { core := 0, ctx := 0, instr := .mldb ⟨0, 0, 1, 0, 1, 0⟩, pc := 0, a := 0x5FFFF8, b := 0, regs := {}, icount := 0 }
    let s : State := { banked a with clusters := [(0, { cmds := [m] })] }
    ((storeRow (.stb ⟨16, 1, 1, 1, 0, 3, 0⟩)).isSome = true ∧ Issues (far {}) (.stb ⟨16, 1, 1, 1, 0, 3, 0⟩) ∧ MemoryOk (far {})) ∧
    Sole (banked a) a ∧ (a.spm = true ∧ a.host = false ∧ a.kind = .store ∧ a.pieces = [p] ∧ grants a 0x5FFFF8 0 = true ∧
      commandHolds s a p = true) ∧ MemoryOk (banked a) :=
  ⟨⟨by rfl, issues_of (by decide +kernel), memoryOk_far _⟩, sole_banked _, by decide +kernel, memoryOk_banked _⟩
/-- Lanes 0 and 1 of the index vector v2 name one address, every other lane none. -/
def indices : Vec := vecOf fun l => if l < 2 then 4 else 0xFFFFFFFF
def gather : Ctx := { regs := { v := [(2, indices)] } }
theorem meets_LocalVectorAccessesMoveTheirBytes :
    let lanes : List (Nat × Nat) := [(0, 4), (1, 4), (255, 0x5FFFFC)]
    let words (w : Bool) : List Piece := lanes.map fun e => part1 e.2 4 (4 * e.1) w
    let ok (a : Access) (i : Nat) : Bool := a.spm && !a.host && match a.pieces[i]? with
      | some p => grants a p.va i && p.write == storesKind a.kind
      | none => false
    Issues (far {}) (.ldv ⟨1, 2, 1, 0, 3, 0⟩) ∧
    (Issues (far {}) (.stv ⟨1, 1, 1, 1, 0, 3, 0⟩) ∧ Unbound (far {}) (.stv ⟨1, 1, 1, 1, 0, 3, 0⟩) ∧ MemoryOk (far {})) ∧
    (ok (bankAccess (.ldv false 31) [part1 0x5FFFF8 8 1016 false] 0) 0 = true ∧
      ok (bankAccess (.ldvx 31) (words false) 0) 2 = true ∧ MemoryOk (banked (bankAccess (.ldvx 31) (words false) 0))) ∧
    (ok (bankAccess .stv [part1 0x5FFFF8 8 1016 true] (BitVec.allOnes 8192).toNat) 0 = true ∧
      ok (bankAccess .stvx (words true) (BitVec.allOnes 8192).toNat) 0 = true ∧
      MemoryOk (banked (bankAccess .stvx (words true) (BitVec.allOnes 8192).toNat)) ∧
      Sole (banked (bankAccess .stvx (words true) 0)) (bankAccess .stvx (words true) 0)) :=
  ⟨issues_of (by decide +kernel), ⟨issues_of (by decide +kernel), unbound_of rfl, memoryOk_far _⟩,
    ⟨by decide +kernel, by decide +kernel, memoryOk_banked _⟩, by decide +kernel, by decide +kernel, memoryOk_banked _,
    sole_banked _⟩

/-- A line of virtual page 0 in the L1 of core 0. -/
def lined (l : L1Line) (c : Ctx) : State := one 0 { xb := 16, l1 := [(0, l)] } c
def line0 (ct : BitVec 2) : L1Line := { ct := ct, data := 0x1122334455667788, pa := 0x1000, wr := true }
theorem unwatched_of {s : State} {i : Instr}
    (h : (!watchHits (coreAt s s.core) (watchSpan (snapshot s) i) 0 && !watchHits (coreAt s s.core) (watchSpan (snapshot s) i) 1) = true) :
    Unwatched s i := by
  intro w hw
  simp only [Bool.and_eq_true, Bool.not_eq_true'] at h
  match w, hw with
  | 0, _ => exact h.1
  | 1, _ => exact h.2
theorem meets_LoadsHitTheirLine :
    let i : Instr := .ldh ⟨31, 0, 1, 0, 3, 0⟩
    let s := lined (line0 2) {}
    (loadRow i).isSome = true ∧ Issues s i ∧ Unwatched s i ∧ loadSpace 0 = 0 ∧ Config.isHome s.core = false ∧
      accessesOf s s.core s.ctx = [] ∧ lineKey (partOf s s.core) (loadAddr (cur s).regs ⟨31, 0, 1, 0, 3, 0⟩ 2) = 0 ∧
      l1Line s s.core 0 = some (line0 2) ∧ (line0 2).pref = none :=
  ⟨by rfl, issues_of (by decide +kernel), unwatched_of (by decide +kernel), by decide +kernel⟩
theorem meets_StoresHitTheirLine :
    let i : Instr := .std ⟨7, 0, 1, 1, 0, 3, 0⟩
    let s := lined (line0 3) {}
    (storeRow i).isSome = true ∧ Issues s i ∧ Unwatched s i ∧ (0 : BitVec 2) = 0 ∧ Config.isHome s.core = false ∧
      accessesOf s s.core s.ctx = [] ∧ lineKey (partOf s s.core) (storeAddr (cur s).regs ⟨7, 0, 1, 1, 0, 3, 0⟩ 8) = 0 ∧
      l1Line s s.core 0 = some (line0 3) ∧ (line0 3).wr = true ∧ ((line0 3).ct = 1 ∨ (line0 3).ct = 3) :=
  ⟨by rfl, issues_of (by decide +kernel), unwatched_of (by decide +kernel), by decide +kernel⟩
theorem meets_ScalarAccessesAreSent :
    ((loadRow (.ldw ⟨0, 1, 1, 1, 3, 0⟩)).isSome = true ∧ Issues (farX [(1, 0x1FFFFFFFFFFFFFC)]) (.ldw ⟨0, 1, 1, 1, 3, 0⟩) ∧
      Issues (far {}) (.ldd ⟨0, 3, 1, 0, 3, 0x5FFFF8⟩)) ∧
    ((storeRow (.stw ⟨0x40, 0, 1, 1, 1, 3, 0⟩)).isSome = true ∧ Issues (farX [(1, 0x1000)]) (.stw ⟨0x40, 0, 1, 1, 1, 3, 0⟩) ∧
      Issues (far {}) (.std ⟨0, 2, 1, 1, 0, 3, 0x5FFFF8⟩)) ∧
    Issues (farX [(1, 0x1000)]) (.ldaq ⟨0, 4, 1, 1, 3, 0⟩) ∧ Issues (farX [(1, 0x1000)]) (.strl ⟨0, 6, 1, 1, 1, 3, 0⟩) :=
  ⟨⟨by rfl, issues_of (by decide +kernel), issues_of (by decide +kernel)⟩,
    ⟨by rfl, issues_of (by decide +kernel), issues_of (by decide +kernel)⟩, issues_of (by decide +kernel),
    issues_of (by decide +kernel)⟩
theorem meets_VectorAccessesAreSent :
    (Issues (farX [(1, 0x1000)]) (.ldv ⟨0, 1, 1, 1, 3, 0⟩) ∧ loadSpace 1 = 0) ∧ Issues (farX [(1, 0x1000)]) (.stv ⟨0, 0, 1, 1, 1, 3, 0⟩) ∧
    Issues (far { regs := { x := [(1, 0x1000)], v := [(2, indices)] } }) (.ldvx ⟨2, 1, 1, 2, 1, 3⟩) ∧
    Issues (far { regs := { x := [(1, 0x1000)], v := [(2, indices)] } }) (.stvx ⟨0, 1, 1, 2, 1, 3⟩) ∧
    (Issues (far {}) (.ldv ⟨0, 3, 1, 0, 3, 0x5FFC00⟩) ∧ Issues (far {}) (.stv ⟨1, 2, 1, 1, 0, 3, 0⟩) ∧
      Issues (far gather) (.ldvx ⟨4, 1, 1, 2, 0, 3⟩) ∧ Issues (far gather) (.stvx ⟨4, 1, 1, 2, 0, 3⟩)) ∧
    Issues (farX [(1, 0x1FC0), (2, 0x1040)]) (.wsclr ⟨0, 1, 1, 2, 1, 0⟩) ∧ Issues (farX [(1, 0x1008), (2, 9)]) (.publ ⟨0, 1, 1, 2, 1, 0⟩) :=
  ⟨⟨issues_of (by decide +kernel), by rfl⟩, issues_of (by decide +kernel), issues_of (by decide +kernel),
    issues_of (by decide +kernel),
    ⟨issues_of (by decide +kernel), issues_of (by decide +kernel), issues_of (by decide +kernel), issues_of (by decide +kernel)⟩,
    issues_of (by decide +kernel), issues_of (by decide +kernel)⟩
theorem meets_AtomicsAreSentAndCompute :
    (atomicRow (.amoaddt ⟨4, 1, 1, 2, 1, 3, 0⟩)).isSome = true ∧ Issues (farX [(1, 0x1000), (2, 9)]) (.amoaddt ⟨4, 1, 1, 2, 1, 3, 0⟩) ∧
    (atomicRow (.amocas ⟨0, 1, 1, 2, 1, 3, 0xFFFFFFF8⟩)).isSome = true ∧
    Issues (farX [(1, 0x1000), (2, 9)]) (.amocas ⟨0, 1, 1, 2, 1, 3, 0xFFFFFFF8⟩) :=
  ⟨by rfl, issues_of (by decide +kernel), by rfl, issues_of (by decide +kernel)⟩

/-- One past the top of the virtual space, the byte below the boundary, one past TCM and the scratchpad, a home core's
scratchpad access, and an odd address in each space. -/
theorem meets_BadAddressesTrap :
    let ld (sp : BitVec 2) : Instr := .ldh ⟨0, sp, 1, 1, 3, 0⟩
    let s (a : Nat) : State := farX [(1, BitVec.ofNat 64 a)]
    let h (a : Nat) : State := one 512 { xb := 16 } { regs := xs [(1, BitVec.ofNat 64 a)] }
    let acc (a : Nat) (sp : BitVec 2) := scalarAccess (cur (s a)).regs (ld sp)
    (acc (2 ^ 57 - 1) 0 = some (0, 2 ^ 57 - 1, 2) ∧ Reaches (s (2 ^ 57 - 1)) (ld 0)) ∧
    (acc 14 2 = some (1, 14, 2) ∧ Reaches (s 14) (ld 2) ∧ 14 < boundary (s 14) 0) ∧
    (acc 0x7FFFF 2 = some (1, 0x7FFFF, 2) ∧ Reaches (s 0x7FFFF) (ld 2) ∧ boundary (s 0x7FFFF) 0 ≤ 0x7FFFF ∧
      Config.tcmSize 0 < 0x7FFFF + 2) ∧
    (acc 0x5FFFFF 3 = some (2, 0x5FFFFF, 2) ∧ Reaches (s 0x5FFFFF) (ld 3) ∧ 0x600000 < 0x5FFFFF + 2) ∧
    (scalarAccess (cur (h 0)).regs (ld 3) = some (2, 0, 2) ∧ Reaches (h 0) (ld 3) ∧ 512 ≤ (h 0).core) ∧
    (acc 1 0 = some (0, 1, 2) ∧ Reaches (s 1) (ld 0) ∧ acc 17 2 = some (1, 17, 2) ∧ Reaches (s 17) (ld 2) ∧
      acc 1 3 = some (2, 1, 2) ∧ Reaches (s 1) (ld 3)) :=
  ⟨⟨by decide +kernel, reaches_of (by decide +kernel)⟩, ⟨by decide +kernel, reaches_of (by decide +kernel), by decide +kernel⟩,
    ⟨by decide +kernel, reaches_of (by decide +kernel), by decide +kernel⟩,
    ⟨by decide +kernel, reaches_of (by decide +kernel), by decide⟩,
    ⟨by decide +kernel, reaches_of (by decide +kernel), by decide⟩,
    by decide +kernel, reaches_of (by decide +kernel), by decide +kernel, reaches_of (by decide +kernel), by decide +kernel,
    reaches_of (by decide +kernel)⟩
theorem meets_EmptySourcesTrapOrHold :
    let s := far { regs := { xe := 2, ve := 2 } }
    let first (i : Instr) := (srcs i).find? fun x => !x.w && srcEmpty s x
    let add (w1 : BitVec 1) : Instr := .add 0 ⟨0, 1, w1, 2, 1, 3⟩
    let vadd (w2 : BitVec 1) : Instr := .vadd 0 ⟨1, w2, 1, 1, 2, 3⟩
    let src (f : Nat) : Src := { file := f, reg := 1, w := false }
    (s.latch = none ∧ s.tail = none ∧ busy s = false ∧ (cur s).streams = []) ∧
    -- an empty first and an empty second source; one with w = 1 holds
    (first (add 0) = some (src 0) ∧ first (vadd 0) = some (src 1) ∧ first (add 1) = none ∧ first (vadd 1) = none ∧
      ((srcs (add 1)).any (srcEmpty s) = true ∧ (srcs (vadd 1)).any (srcEmpty s) = true)) ∧
    hasWord (add 0) = true ∧ hasWord (vadd 0) = true := by
  decide +kernel
theorem meets_CacheInstructionsActOnTheirLines :
    (Issues (farX [(1, 0x1000), (2, 64)]) (.invr ⟨0, 1, 1, 2, 1, 0⟩) ∧ Issues (farX [(1, 0x1000)]) (.wbr ⟨0, 1, 1, 2, 1, 0⟩) ∧
      Issues (farX [(1, 0x103F), (2, 2)]) (.pref ⟨0, 1, 1, 2, 1, 0⟩)) ∧
    Issues (far {}) (.fence ⟨0, 1, 0, 15⟩) ∧ Issues (far {}) (.fence ⟨0, 0, 6, 1⟩) :=
  ⟨⟨issues_of (by decide +kernel), issues_of (by decide +kernel), issues_of (by decide +kernel)⟩, issues_of (by decide +kernel),
    issues_of (by decide +kernel)⟩
def homed (h : HomeLine) (s : State) : State := setHome s 0 h
theorem meets_ReleasesWriteBackAndAcquiresDrop :
    let s := homed { ct := 1, data := 5, pa := 0x1000 } (lined { line0 1 with dirty := 0xFF } {})
    frising 0 (coreAt s 0).l1 = true ∧ l1Line s 0 0 = some { line0 1 with dirty := 0xFF } ∧
      homeLine s 0 = some { ct := 1, data := 5, pa := 0x1000 } ∧ isPeer 0x1000 = false := by decide +kernel
theorem meets_SignaturesAndRegionsAreSet :
    Issues (farX [(1, 0x1000)]) (.sigclr ⟨0, 0, 1, 0, 1, 0⟩) ∧
    Issues (farX [(1, 0x1000), (2, 0x1FF0000010C)]) (.regset ⟨0, 1, 1, 2, 1, 0⟩) ∧
    Issues (farX [(1, 63)]) (.regclr ⟨0, 0, 1, 0, 1, 0⟩) ∧ regionWaits (farX [(1, 63)]) 0 = false :=
  ⟨issues_of (by decide +kernel), issues_of (by decide +kernel), issues_of (by decide +kernel), by rfl⟩

def load1 : Access :=
  { kind := .load 8 false false 3, core := 0, ctx := 1, part := 0, pc := 8, word := 0, pieces := [part1 0x5000 8 0 false],
    stage := .parked 0 0 1 0 }
/-- Tables at physical 0 that map the page at 2^30, of RC and in transition, with the window at virtual 0. -/
def tables (e : Nat) : FMap Byte :=
  [(0, 0x1001), (0x1000, 0x2001), (0x2008, 0x3001), (0x3000, 0x4001), (0x4000, e)].foldl
    (fun m (x : Nat × Nat) => writeBytes m x.1 8 x.2) []
def tabled (e : Nat) (s : State) : State :=
  { s with
    hbm := tables e
    parts := [(0, { live := true, clusters := [0], slices := [0], tdi := .run, granted := [(0, 2 ^ 30)] })] }
def leafFound (s : State) (va : Nat) : Bool :=
  match findLeaf s 0 va with
  | .leaf u l => !retypeFails u u.core 0 (va / leafSize l * leafSize l) l
  | _ => false
/-- An access that its home has translated stands in the page of the leaf. -/
def leafBusy (s : State) (va : Nat) : Bool :=
  match findLeaf s 0 va with
  | .leaf u l => translated u 0 (va / leafSize l * leafSize l) (va / leafSize l * leafSize l + leafSize l)
  | _ => false
def leafNone (s : State) (va : Nat) : Bool := match findLeaf s 0 va with | .none _ => true | _ => false
def leafFails (s : State) (va : Nat) : Bool :=
  match findLeaf s 0 va with
  | .leaf u l => retypeFails u u.core 0 (va / leafSize l * leafSize l) l
  | _ => false
/-- The lines of the leaf, or of its 16 entries, can be written. -/
def leafWrites (s : State) (va : Nat) : Bool :=
  match findLeaf s 0 va with
  | .leaf u l =>
    let x : Transit := { base := va / leafSize l * leafSize l, size := leafSize l, leaf := l, core := s.core, ctx := s.ctx }
    ((leafVas l).foldl (leavesReady 0) (some (modPart u 0 fun y => { y with transit := y.transit ++ [x] }))).isSome
  | _ => false
/-- A leaf that is not in transition, and 16 entries whose second line waits for an HBM retry. -/
theorem meets_RetypeAndXinvActOnTheirRange_leaf :
    let s (e : Nat) (l : List Nat) : State := { tabled e (farX [(1, 0x40000000), (2, 0x42)]) with retries := l }
    let i : Instr := .retype ⟨0, 0, 1, 0, 1, 0⟩
    let at_ (e : Nat) (l : List Nat) := releaseAll (reading (s e l) i) 0
    (Issues (s 0x1000B []) i ∧ leafFails (at_ 0x1000B []) 0x40000000 = true) ∧
    leafWrites (at_ 0x1080B []) 0x40000000 = true ∧
    (Issues (s 0x1082B [0x101]) i ∧ ownTransit (reading (s 0x1082B [0x101]) i) = none ∧
      leafFound (at_ 0x1082B [0x101]) 0x40000000 = true ∧ leafWrites (at_ 0x1082B [0x101]) 0x40000000 = false) :=
  ⟨⟨issues_of (by decide +kernel), by decide +kernel⟩, by decide +kernel, issues_of (by decide +kernel), by decide +kernel⟩
theorem meets_RetypeAndXinvActOnTheirRange :
    let s (e : Nat) := tabled e (farX [(1, 0x40000000), (2, 0x42)])
    let i : Instr := .retype ⟨0, 0, 1, 0, 1, 0⟩
    let j : Instr := .xinv ⟨0, 1, 1, 2, 1, 0⟩
    let busyPage : State := { s 0x1080B with accesses := [{ load1 with ctx := 1, part := 0, stage := .hbm 1024, checked := true, pieces := [part1 0x40000000 8 0 false] }] }
    let window : State := tabled 0x1080B (farX [(1, 0x1000)])
    (Issues (s 0x1080B) i ∧ ownTransit (reading (s 0x1080B) i) = none ∧
      leafFound (releaseAll (reading (s 0x1080B) i) 0) 0x40000000 = true ∧
      leafBusy (releaseAll (reading (s 0x1080B) i) 0) 0x40000000 = false) ∧
    (Issues busyPage i ∧ ownTransit (reading busyPage i) = none ∧ leafFound (releaseAll (reading busyPage i) 0) 0x40000000 = true ∧
      leafBusy (releaseAll (reading busyPage i) 0) 0x40000000 = true) ∧
    (Issues window i ∧ inWindow (partAt window 0) 0x1000 = true) ∧
    (Issues (s 0) i ∧ ownTransit (reading (s 0) i) = none ∧ leafNone (releaseAll (reading (s 0) i) 0) 0x40000000 = true) ∧
    (Issues (s 0x1080B) j ∧ xinvWaits (reading (s 0x1080B) j) 0 0x40000000 (0x40000000 + pageSize 2) true = false) ∧
    (Issues (farX [(2, 0x80)]) j ∧ xinvWaits (reading (farX [(2, 0x80)]) j) 0 0 (2 ^ 57) false = false) :=
  ⟨⟨issues_of (by decide +kernel), by decide +kernel⟩, ⟨issues_of (by decide +kernel), by decide +kernel⟩,
    ⟨issues_of (by decide +kernel), by decide +kernel⟩, ⟨issues_of (by decide +kernel), by decide +kernel⟩,
    ⟨issues_of (by decide +kernel), by decide +kernel⟩, issues_of (by decide +kernel), by decide +kernel⟩
def bindRegs (w : Dword) : List (Nat × Dword) := [(8, 0x100), (9, w), (10, 4), (13, 300), (14, 1), (15, 1)]
theorem meets_BindingsBeginAndEnd :
    Issues (farX (bindRegs 0)) (.sbind ⟨0, 7, 8, 31⟩) ∧
    (Issues (farX (bindRegs 0x71)) (.sbind ⟨0, 0, 8, 16⟩) ∧ (cur (farX (bindRegs 0x71))).streams = [] ∧
      (rx (cur (farX (bindRegs 0x71))).regs 9).toNat % 4 ≠ 0) ∧
    (Issues (far { streams := [(2, stream1)] }) (.sunbind ⟨0, 0, 0, 16⟩) ∧
      ((cur (far { streams := [(2, stream1)] })).streams.find? fun e => e.2.vd == 16) = some (2, stream1)) :=
  ⟨issues_of (by decide +kernel), ⟨issues_of (by decide +kernel), by decide +kernel⟩, issues_of (by decide +kernel), by decide +kernel⟩

def copy1 (kind sp len rows : Nat) : Copy :=
  { id := 1, core := 0, ctx := 0, part := 0, pc := 0, kind := kind, sp := sp, h := 0, dst := 0x1000, src := 0x2000, len := len,
    rows := rows }
/-- A virtual copy of one byte, and rows of a copy into TCM; the states of a copy in its queue. -/
theorem meets_CopiesEnterTheirEngine :
    let s := farX [(1, 0x1000), (2, 0x2000), (3, 1)]
    let t := farX [(1, 0x1000), (2, 0x2000), (4, 0x200000040), (5, 0x4000000040)]
    ((copyRow (.cpy ⟨0, 0, 3, 2, 1, 0⟩)).isSome = true ∧ Issues s (.cpy ⟨0, 0, 3, 2, 1, 0⟩) ∧
      (cluAt s (clusterFor s 0)).copies.length < 64 ∧
      (copyHomes s (copy1 0 0 1 1)).all (fun h => (sliceAt s h).ranges.length < 64) = true ∧
      xinvHolds s (copy1 0 0 1 1) = false ∧ (copy1 0 0 1 1).len * (copy1 0 0 1 1).rows ≤ 2 ^ 20) ∧
    ((copyRow (.cpy2 ⟨0, 1, 4, 2, 1, 0⟩)).isSome = true ∧ Issues t (.cpy2 ⟨0, 1, 4, 2, 1, 0⟩) ∧
      copyHomes t { copy1 1 1 64 2 with dstride := 64, sstride := 64 } = []) ∧
    (copy1 3 1 64 1).core = t.core ∧ (copy1 3 1 64 1).ctx = t.ctx ∧ (copy1 3 1 64 1).sp ≠ 0 ∧ (copy1 3 1 64 1).kind = 3 :=
  ⟨⟨by rfl, issues_of (by decide +kernel), by decide +kernel⟩, ⟨by rfl, issues_of (by decide +kernel), by decide +kernel⟩,
    by decide +kernel⟩
def copying (c : Copy) : State := { far {} with clusters := [(0, { copies := [c] })] }
theorem meets_CopiesCompleteAndAreCounted :
    (Issues (far {}) (.cpyq ⟨0, 0, 0, 0, 3, 0⟩) ∧ (cur (far {})).copies = [] ∧ (cur (far {})).cpyq = []) ∧
    (let n (b : Bool) : Ctx := { copies := [{ id := 1, lo := 0, hi := 0, done := b }] }
     Issues (far (n true)) (.cpyq ⟨0, 0, 0, 0, 63, 0⟩) ∧ Issues (far (n false)) (.cpyq ⟨0, 0, 0, 0, 63, 0⟩) ∧
      (∀ x ∈ (cur (far (n true))).copies, x.done = true) ∧ ∃ x ∈ (cur (far (n false))).copies, x.done = false) ∧
    (cluAt (far {}) 63).copies[0]? = none ∧
    (let c := { copy1 0 1 64 1 with done := 1 }
     let s := copying c
     let d := { c with h := 5 }
     let full : State := modCore (copying d) 0 fun x =>
       { x with inbound := List.replicate 4096 { body := .task { near := true, far := true, mid := 9 } false, mid := 0 } }
     (cluAt s 0).copies[0]? = some c ∧ s.accesses = [] ∧ (partAt s c.part).cut = none ∧ copyHeld s 0 c = false ∧
      c.fault = none ∧ (copyPieces c).length ≤ c.done ∧ copyReceivers s c = [] ∧
      (cluAt (copying d) 0).copies[0]? = some d ∧ copyReceivers (copying d) d = [0] ∧ inboundUsed (coreAt (copying d) 0) < 4096 ∧
      d.kind ≠ 2 ∧ d.h ≠ 0 ∧ copyStarted (copying d) 0 d 0 = false ∧ copyStarted full 0 d 0 = false ∧
      copyHeld full 0 d = false ∧ copyReceivers full d = [0] ∧ (cluAt full 0).copies[0]? = some d ∧ 4096 ≤ inboundUsed (coreAt full 0)) :=
  ⟨⟨issues_of (by decide +kernel), by decide +kernel⟩,
    ⟨issues_of (by decide +kernel), issues_of (by decide +kernel), by decide +kernel⟩, by decide +kernel⟩

/-- A body of either kind at bundle 2, class 1, kept in the cache of core 0. -/
def bodyEntry : Dword := 0x8000100000000002
def spawner (l : List (Nat × Dword)) : State :=
  one 0 { xb := 16, bodytab := 1, bodies := [(bodyVa 1 0, bodyEntry), (bodyVa 1 1023, bodyEntry)] } { regs := xs l }
theorem meets_SpawnsFillTheSendBuffer :
    let i : Instr := .spawn ⟨0, 0, 1, 2⟩
    let j : Instr := .spawnh ⟨0, 3, 1, 2, 0x3FF⟩
    let s := spawner [(1, 0x1FFFFFFFFFFFFFF), (2, 1)]
    let t := spawner [(1, 0x1000), (2, 0x200000)]
    ((recordRow s i).isSome = true ∧ Issues s i ∧ bodyAt (coreAt s 0) 0 = some bodyEntry) ∧
    ((recordRow t j).isSome = true ∧ Issues t j ∧ bodyAt (coreAt t 0) 1023 = some bodyEntry) :=
  ⟨⟨by rfl, issues_of (by decide +kernel), by decide +kernel⟩, by rfl, issues_of (by decide +kernel), by decide +kernel⟩

def task1 : QTask := { record := { near := true, far := true, abase := 0x1000, alenm1 := 63, mid := 9 }, order := 0 }
/-- A home core whose queue holds a task, and a far core that steals from it; the far core's partition holds it at the
home of its anchor. -/
def taker (l : List QTask) : State := { one 512 { xb := 16 } {} with slices := [(0, { parts := [(0, { front := l })] })] }
def stealer (l : List QTask) : State :=
  let s := farX [(1, 0x1000)]
  { s with slices := (List.range 256).map fun n => (n, { parts := [(0, { front := l, adv := (!l.isEmpty, 0) })] }) }
/-- A request of core n that has reserved context 1. -/
def asked (s : State) (n : Nat) (a : Ask) : State :=
  { s with reqs := [{ core := n, ctx := 0, rd := 3, res := some 1, ask := a }] }
theorem meets_TakesStartWhatTheQueueGives :
    (Issues (taker [task1]) (.take ⟨0, 0, 0, 0, 0, 3⟩) ∧ reservable (taker [task1]) 512 = some 1) ∧
    (Issues (stealer [task1]) (.steal ⟨1, 0, 1, 0, 1, 3⟩) ∧ reservable (stealer [task1]) 0 = some 1 ∧
      Issues (stealer [task1]) (.stealAny ⟨2, 0, 0, 0, 0, 3⟩)) ∧
    (((asked (taker [task1]) 512 (.take none [0])).reqs[0]?).isSome = true ∧
      (let q : QReq := { core := 512, ctx := 0, rd := 3, res := some 1, ask := .take none [0] }
       reqHeld (taker [task1]) q = false ∧ (askCtl (taker [task1]) q).isSome = true ∧
       (coreAt (modCore (taker [task1]) 512 fun c => { c with halted := true }) 512).halted = true ∧ isTake q = true ∧
       reqHeld (modCore (taker [task1]) 512 fun c => { c with halted := true }) q = true ∧
       reqHeld (modCore (taker [task1]) 512 fun c => { c with preempt := true }) q = true) ∧
      select (spAt (taker [task1]) 0 0) true = .task task1 ∧ select (spAt (taker []) 0 0) true = .reason 1) ∧
    (select (spAt (stealer [task1]) 255 0) false = .task task1 ∧ select (spAt (stealer []) 0 0) false = .reason 1 ∧
      bestSlice (stealer [task1]) 0 3 = some 192 ∧ bestSlice (stealer []) 0 0 = none) :=
  ⟨⟨issues_of (by decide +kernel), by decide +kernel⟩,
    ⟨issues_of (by decide +kernel), by decide +kernel, issues_of (by decide +kernel)⟩, by decide +kernel, by decide +kernel⟩
/-- At one queue: a TAKE goes before a STEAL and an enqueue, a STEAL before an enqueue, and an enqueue that has waited more
than four cycles before both; one that has waited four cycles does not. -/
theorem meets_TakesStartWhatTheQueueGives_order :
    let q (a : Ask) : QReq := { core := 512, ctx := 0, rd := 3, res := some 1, ask := a, arr := some 5 }
    let m : Msg := { src := 1, body := .enqueue 0 0 task1.record, arr := some 5 }
    let s (t : Nat) (l : List Ask) : State := { taker [task1] with cycle := t, reqs := l.map q, msgs := [m] }
    queueOp (s 9 [.steal 0, .take none [0]]) 0 0 = some (.req 1) ∧ queueOp (s 9 [.steal 0]) 0 0 = some (.req 0) ∧
    queueOp (s 9 []) 0 0 = some (.msg 0) ∧ queueOp (s 10 [.steal 0, .take none [0]]) 0 0 = some (.msg 0) ∧
    queueOp (s 5 [.steal 0]) 0 0 = none ∧ reqsAt (s 10 [.steal 0]) (.queue 0 0) (fun _ => true) ≠ [] := by decide +kernel
/-- A queue in order with a spilled task in a block that covers it, before and after which tasks stand on chip; what it
gives does not meet the spilled one. -/
def spilled : SlicePart :=
  { front := [{ task1 with record := { task1.record with abase := 0x100000 } }], spill := [{ task1 with order := 1, blk := some 4 }],
    back := [{ task1 with order := 2, record := { task1.record with abase := 0x2000 } }],
    blocks := [{ id := 4, lo := 0x1000, hi := 0x1040, placed := 1, count := 1 }], nextBlk := 5, order := 3 }
theorem meets_TakesStartWhatTheQueueGives_spill :
    SpillOk spilled ∧ select spilled true = .task { task1 with record := { task1.record with abase := 0x100000 } } ∧
    (select { spilled with front := [] } true =
      .task { task1 with order := 2, record := { task1.record with abase := 0x2000 } }) := by
  refine ⟨⟨by decide, by decide, by decide, by decide, fun t ht => ?_⟩, by decide +kernel, by decide +kernel⟩
  rw [List.mem_singleton.mp ht]
  exact ⟨_, List.mem_singleton.mpr rfl, rfl, by decide, by decide⟩
/-- Every form of request stands in some state. -/
theorem meets_TakesStartWhatTheQueueGives_forms (a : Ask) :
    ((asked (taker []) 512 a).reqs[0]?) = some { core := 512, ctx := 0, rd := 3, res := some 1, ask := a } := rfl
theorem meets_EndsOfWorkReleaseAndSend :
    let s := far { start := .task (some 0), record := some task1.record, sends := [{ record := task1.record, dest := .core 1 }] }
    (Untraced s 0 ∧ (cur s).rope = .none ∧ Issues s (.tend ⟨0, 0, 0, 0, 0, 0⟩) ∧ Issues s (.tabort ⟨1, 0, 0, 0, 0, 0⟩)) ∧
    (Untraced (far { upcall := true }) 0 ∧ Issues (far { upcall := true }) (.upcret ⟨0, 0, 0, 0, 0, 0⟩)) ∧
    (s.msgs.any fun m => m.src == 0 && m.ctx == some 0) = false ∧
    (let m : Msg := { src := 0, ctx := some 0, body := .inbound 1 0 (.task task1.record false) }
     let w : Wait := { instr := .tend ⟨0, 0, 0, 0, 0, 0⟩, ops := {}, pc := 0, sub := .full, fate := .defer, fin := .dormant }
     (({ s with msgs := [m] } : State).msgs.any fun m => m.src == 0 && m.ctx == some 0) = true ∧
      (ctxAt (far { wait := some w }) 0 0).wait = some w ∧ w.fin = .dormant) :=
  ⟨⟨by rfl, by rfl, issues_of (by decide +kernel), issues_of (by decide +kernel)⟩,
    ⟨by rfl, issues_of (by decide +kernel)⟩, by decide +kernel⟩
theorem meets_CountsAreGiven :
    Issues (farX [(1, 0x1000)]) (.qdepth ⟨0, 0, 1, 0, 1, 3⟩) ∧ Issues (far {}) (.qdepthIn ⟨1, 0, 0, 0, 0, 3⟩) ∧
    (({ taker [task1] with reqs := [{ core := 512, ctx := 0, rd := 3, ask := .depth 255 }] } : State).reqs[0]?) =
      some { core := 512, ctx := 0, rd := 3, ask := .depth 255 } ∧
    (Issues (far {}) (.wfa ⟨0, 0, 0, 0, 0, 3⟩) ∧ (cur (far {})).treel = 0) ∧ Issues (far {}) (.mstat ⟨2, 0, 0, 0, 0, 3⟩) :=
  ⟨issues_of (by decide +kernel), issues_of (by decide +kernel), rfl, ⟨issues_of (by decide +kernel), by rfl⟩,
    issues_of (by decide +kernel)⟩

/-- Core 0 is the one member of group 9. -/
def grouped (b : Barrier) (c : Ctx) : State :=
  { one 0 { xb := 16, gslots := [some 9, none, none, none] } c with
    parts := [(0, { live := true, clusters := [0], slices := [0], tdi := .run, groups := [(9, [0])] })]
    slices := (List.range 256).map fun n => (n, { parts := [(0, { barriers := [(9, b)] })] }) }
theorem meets_GroupInstructionsActOnTheirGroup :
    (Issues (far {}) (.gjoin ⟨0, 0, 9, 0⟩) ∧ inSlots (far {}) 9 = false) ∧
    (Issues (grouped {} {}) (.gjoin ⟨0, 0, 9, 0⟩) ∧ inSlots (grouped {} {}) 9 = true) ∧
    (Issues (grouped {} {}) (.gleave ⟨1, 0, 9, 0⟩) ∧ heldBack (grouped {} {}) 9 = false) ∧
    Issues (grouped {} {}) (.gtag ⟨2, 0, 9, 0⟩) ∧ Issues (grouped {} {}) (.garrive ⟨4, 0, 9, 0⟩) ∧
    (Issues (grouped {} {}) (.gwait ⟨5, 0, 9, 0⟩) ∧ ffind (cur (grouped {} {})).arrivals 9 = none ∧
      arriving (grouped {} {}) 0 9 (some 0) = false) ∧
    (let s := grouped { phase := 1 } { arrivals := [(9, (0, false))] }
     Issues s (.gwait ⟨5, 0, 9, 0⟩) ∧ ffind (cur s).arrivals 9 = some (0, false) ∧ 0 < (barrierOf s 0 9).phase) ∧
    (Issues (grouped {} {}) (.gbar ⟨3, 0, 9, 0⟩) ∧ ffind (cur (grouped {} {})).arrivals 9 = none ∧ heldBack (grouped {} {}) 9 = false) ∧
    (let q : QReq := { core := 0, ctx := 0, rd := 0, ask := .arrive 9 false true }
     let s (b : Barrier) : State := { grouped b {} with reqs := [q] }
     (s {}).reqs[0]? = some q ∧ (barrierOf (s {}) 0 9).arrived.contains 0 = false ∧
       (barrierOf (s { arrived := [0] }) 0 9).arrived.contains 0 = true) ∧
    (let t : State := { grouped { phase := 1 } { arrivals := [(9, (0, true))] } with latch := some {} }
     t.latch = some {} ∧ drains t (.gbar ⟨3, 0, 9, 0⟩) = false ∧ ffind (cur t).arrivals 9 = some (0, true) ∧
       0 < (barrierOf t 0 9).phase) ∧
    ((barrierOf (grouped { arrived := [0] } {}) 0 9).arrived ≠ [] ∧ members (grouped { arrived := [0] } {}) 0 9 = [0] ∧
      0 ∈ (barrierOf (grouped { arrived := [0] } {}) 0 9).arrived) :=
  ⟨⟨issues_of (by decide +kernel), by decide +kernel⟩, ⟨issues_of (by decide +kernel), by decide +kernel⟩,
    ⟨issues_of (by decide +kernel), by decide +kernel⟩, issues_of (by decide +kernel), issues_of (by decide +kernel),
    ⟨issues_of (by decide +kernel), by decide +kernel⟩, ⟨issues_of (by decide +kernel), by decide +kernel⟩,
    ⟨issues_of (by decide +kernel), by decide +kernel⟩, by decide +kernel⟩
/-- A GWAIT whose arrival is on its way, and one whose phase has not ended; a GBAR whose arrival is recorded. -/
theorem meets_GroupInstructionsActOnTheirGroup_waits :
    let q : QReq := { core := 0, ctx := 0, rd := 0, ask := .arrive 9 false true }
    let s : State := { grouped {} {} with reqs := [q] }
    let t := grouped {} { arrivals := [(9, (0, false))] }
    (Issues s (.gwait ⟨5, 0, 9, 0⟩) ∧ arriving s 0 9 (some 0) = true) ∧
    (Issues t (.gwait ⟨5, 0, 9, 0⟩) ∧ ffind (cur t).arrivals 9 = some (0, false) ∧ (barrierOf t 0 9).phase ≤ 0) ∧
    arriving (grouped { phase := 1 } { arrivals := [(9, (0, false))] }) 0 9 (some 0) = false ∧
    arriving { grouped { phase := 1 } { arrivals := [(9, (0, true))] } with latch := some {} } 0 9 (some 0) = false :=
  ⟨⟨issues_of (by decide +kernel), by decide +kernel⟩, ⟨issues_of (by decide +kernel), by decide +kernel⟩, by decide +kernel⟩
def withSecond : State :=
  let s := far { rope := .lead [(1, 0, 1)] }
  { s with cores := s.cores ++ [(1, { part := some 0, xb := 16, ctxs := [(0, { running := true, rope := .second 0 0 })] })] }
def twoCores : State :=
  let s := far {}
  { s with cores := s.cores ++ [(1, { part := some 0, xb := 16 })] }
theorem meets_ClassesLaunchesAndRopes :
    Issues (far {}) (.prio ⟨3, 0, 0⟩) ∧ Issues (grouped {} {}) (.treel ⟨0, 9, 1, 0xFFFF⟩) ∧
    (Issues twoCores (.rope ⟨2, 0, 0⟩) ∧ 
      (startSeconds (ropeCores 0 2) (reading twoCores (.rope ⟨2, 0, 0⟩)) 0).2 = []) ∧
    Issues withSecond (.unrope ⟨0, 0, 0, 0, 0, 0⟩) ∧ ((1, 0) ≠ (twoCores.core, twoCores.ctx) ∧ (cur twoCores).rope = .none) :=
  ⟨issues_of (by decide +kernel), issues_of (by decide +kernel), ⟨issues_of (by decide +kernel), by decide +kernel⟩,
    issues_of (by decide +kernel), by decide +kernel⟩
def semaphored (x : Sem) : State := { far {} with clusters := [(0, { sems := [(63, x)] })] }
theorem meets_SemaphoresCount :
    Issues (semaphored { count := 1 }) (.semp ⟨0, 0, 63, 0⟩) ∧ Issues (semaphored { count := 0xFFFE }) (.semv ⟨1, 0, 63, 0⟩) ∧
    Issues (semaphored { queue := [(0, 1), (1, 0)] }) (.semv ⟨1, 0, 63, 0⟩) ∧
    (Reaches (semaphored { count := 0xFFFF }) (.semv ⟨1, 0, 63, 0⟩) ∧ ownAccess (semaphored { count := 0xFFFF }) = false) ∧
    Issues (semaphored {}) (.semtry ⟨2, 0, 63, 3⟩) ∧
    (({ semaphored { count := 1 } with reqs := [{ core := 0, ctx := 0, rd := 3, ask := .semtry 63 }] } : State).reqs[0]?) =
      some { core := 0, ctx := 0, rd := 3, ask := .semtry 63 } ∧
    (fget {} (cluAt (semaphored { count := 1 }) (clusterFor (semaphored { count := 1 }) 0)).sems 63 : Sem) = { count := 1 } ∧
    (fget {} (cluAt (semaphored { queue := [(0, 1), (1, 0)] }) 0).sems 63 : Sem).queue = (0, 1) :: [(1, 0)] ∧
    (fget {} (cluAt (semaphored { count := 0xFFFE }) 0).sems 63 : Sem).count ≠ 0xFFFF ∧
    (fget {} (cluAt (semaphored {}) 0).sems 63 : Sem) = {} ∧ clusterFor (semaphored {}) 0 = 0 :=
  ⟨issues_of (by decide +kernel), issues_of (by decide +kernel), issues_of (by decide +kernel),
    ⟨reaches_of (by decide +kernel), by rfl⟩, issues_of (by decide +kernel), rfl, by decide +kernel⟩
/-- A SEMV that waits at a full count, and one whose bundle has another half. -/
theorem meets_SemaphoresCount_half :
    let w (a : Option Instr) : Wait :=
      { instr := .semv ⟨1, 0, 63, 0⟩, ops := {}, pc := 0, sub := .barrier, fate := .defer, fin := .release, half := a }
    let s (x : Sem) (a : Option Instr) : State :=
      { far { wait := some (w a) } with clusters := [(0, { sems := [(63, x)] })],
                                        reqs := [{ core := 0, ctx := 0, rd := 0, ask := .semv 63 }] }
    (ctxAt (s { count := 0xFFFF } none) 0 0).wait = some (w none) ∧ (w none).half.isSome = false ∧
    (w (some (.add 3 ⟨0, 1, 1, 1, 2, 4⟩))).half.isSome = true ∧ clusterFor (s { count := 0xFFFF } none) 0 = 0 ∧
    (fget {} (cluAt (s { count := 0xFFFF } none) 0).sems 63 : Sem).count = 0xFFFF := by
  decide +kernel
/-- A semaphore's own requests stand in some state. -/
theorem meets_SemaphoresCount_forms (x : Sem) (a : Ask) :
    (({ semaphored x with reqs := [{ core := 0, ctx := 0, rd := 0, ask := a }] } : State).reqs[0]?) =
      some { core := 0, ctx := 0, rd := 0, ask := a } := rfl
def leased (c : Cluster) : State := { far {} with clusters := [(0, { c with holder := some (0, 0), remain := 1, last := some 0 })] }
theorem meets_LeasesAndCommandsAreQueued :
    Issues (far {}) (.belay ⟨64, 0, 0⟩) ∧
    (Issues (leased {}) (.unbelay ⟨0, 0, 0, 0, 0, 0⟩) ∧ Config.isHome (leased {}).core = false ∧
      (cluAt (leased {}) 0).holder = some (0, 0)) ∧
    Issues (leased {}) (.mwait ⟨1, 0, 0, 0, 0, 0⟩) ∧
    ((commandRow (.mmuls ⟨1, 0, 1, 0, 5, 3⟩)).isSome = true ∧ Issues (leased {}) (.mmuls ⟨1, 0, 1, 0, 5, 3⟩) ∧
      ((cluAt (leased {}) 0).cmds.filter fun m => !m.zeroing).length < 128) :=
  ⟨issues_of (by decide +kernel), ⟨issues_of (by decide +kernel), by decide +kernel⟩, issues_of (by decide +kernel), by rfl,
    issues_of (by decide +kernel), by decide +kernel⟩
def cmd (i : Instr) (a b : Nat) : MCmd := { core := 0, ctx := 0, instr := i, pc := 8, a := a, b := b, regs := {}, icount := 1 }
def queued (m : MCmd) : State := leased { cmds := [m] }
theorem meets_LeasesAndCommandsAreQueued_none :
    Issues (far {}) (.unbelay ⟨0, 0, 0, 0, 0, 0⟩) ∧ (cluAt (far {}) 0).holder ≠ some (0, 0) :=
  ⟨issues_of (by decide +kernel), by decide +kernel⟩
/-- A fill at the head of the queue in each of its steps, with a word that its bank gives; rows left and none left. -/
theorem meets_ArrayCommandsArePerformed_steps :
    let g : MCmd := cmd (.mgath ⟨0, 1, 1, 2, 1, 0⟩) 0 0x5FFFF8
    let l : MCmd := cmd (.mldb ⟨0, 0, 1, 0, 1, 0⟩) 0 0
    let at_ (m : MCmd) (x : Bool × List Nat) : MCmd := { m with gather := some x }
    let bank (m : MCmd) : State := { queued m with cycle := 1 }
    (∀ m ∈ [g, l], m.out = none ∧ m.gather = none ∧ storesBefore (queued m) m = false ∧ gatherNext (queued m) 0 m ≠ none) ∧
    ([0, 3].any (· != 0) = true ∧ bankGrant (bank (at_ g (false, [0, 3]))) 0 1 = some (.gather, { eng := true, last := some 1 })) ∧
    (gatherNext (queued (at_ g (false, [0]))) 0 (at_ g (false, [0]))).isSome = true ∧
    gatherNext (queued (at_ g (true, [0]))) 0 (at_ g (true, [0])) = none ∧
    gatherNext (queued (at_ l (true, [0]))) 0 (at_ l (true, [0])) = none ∧
    (∀ i ∈ [Instr.mclr ⟨4, 0, 0, 0, 0, 3⟩, .mscale ⟨2, 1, 1, 2, 1, 0⟩, .mscale ⟨2, 1, 1, 2, 1, 1⟩, .mmul ⟨0, 0, 0, 0, 0, 3⟩,
      .mmuls ⟨1, 0, 1, 0, 5, 3⟩, .mstore ⟨3, 0, 1, 0, 5, 3⟩], gatherNext (queued (cmd i 0 0)) 0 (cmd i 0 0) = none) ∧
    ({ l with out := some [(0, 8, 1)] } : MCmd).out = some ((0, 8, 1) :: []) ∧ ({ l with out := some [] } : MCmd).out = some [] := by
  decide +kernel
/-- A product over empty buffers, dense and sparse. -/
theorem meets_ArrayCommandsArePerformed_product :
    let c : Cluster := cluAt (queued (cmd (.mmul ⟨0, 0, 0, 0, 0, 3⟩) 0 0)) 0
    let r : Regs := { fmta := 3, fmtb := 3 }
    let ok (sparse : Bool) : Bool := match opFmt r.fmta, opFmt r.fmtb with
      | some fa, some fb => (mmulFault c r sparse fa fb).isNone && (scaleFault fa.smode c.latch.k c.fifoA).isNone &&
          (scaleFault fb.smode 256 c.fifoB).isNone &&
          (match allPlaces (queued (cmd (.mmul ⟨0, 0, 0, 0, 0, 3⟩) 0 0)) 0 c.latch.k sparse 0 (List.range 256) with
            | .ok _ => true | _ => false)
      | _, _ => false
    ok false = true ∧ ok true = true := by
  decide +kernel
theorem meets_ArrayCommandsArePerformed :
    let fill (m : MCmd) : Bool := match fillRows (queued m) 0 m.regs.fmtb m.regs.sclb m.a (List.range 256) with | .ok _ => true | _ => false
    let gath (m : MCmd) : Bool := match indexVector (queued m) 0 m.b with
      | .ok es => (match fillRows (queued m) 0 m.regs.fmta m.regs.scla m.a es with | .ok _ => true | _ => false)
      | _ => false
    let bad (m : MCmd) : Bool := match perform (modClu (queued m) 0 fun c => { c with cmds := [] }) 0 m with | .fault _ _ => true | _ => false
    (cluAt (queued { cmd (.mclr ⟨4, 0, 0, 0, 0, 3⟩) 0 0 with zeroing := true }) 0).cmds =
      { cmd (.mclr ⟨4, 0, 0, 0, 0, 3⟩) 0 0 with zeroing := true } :: [] ∧
    (cluAt (queued (cmd (.mclr ⟨4, 0, 0, 0, 0, 3⟩) 0 0)) 0).cmds = cmd (.mclr ⟨4, 0, 0, 0, 0, 3⟩) 0 0 :: [] ∧
    ((cmd (.mscale ⟨2, 1, 1, 2, 1, 0⟩) 0x5FF000 4096).a + (cmd (.mscale ⟨2, 1, 1, 2, 1, 0⟩) 0x5FF000 4096).b ≤ 0x600000 ∧
      (cluAt (queued (cmd (.mscale ⟨2, 1, 1, 2, 1, 0⟩) 0x5FF000 4096)) 0).fifoA.length + 4096 ≤ 4096) ∧
    fill (cmd (.mldb ⟨0, 0, 1, 0, 1, 0⟩) 0 0) = true ∧ gath (cmd (.mgath ⟨0, 1, 1, 2, 1, 0⟩) 0 0x5FFFF8) = true ∧
    bad (cmd (.mldb ⟨0, 0, 1, 0, 1, 0⟩) 0x600000 0) = true ∧
    ((cmd (.mclr ⟨4, 0, 0, 0, 0, 3⟩) 0 0).out = none ∧ storesBefore (queued (cmd (.mclr ⟨4, 0, 0, 0, 0, 3⟩) 0 0)) (cmd (.mclr ⟨4, 0, 0, 0, 0, 3⟩) 0 0) = false) ∧
    (let m := { cmd (.mstore ⟨3, 0, 1, 0, 5, 3⟩) 0x5C0000 0 with before := 1, regs := { fmto := 2 } }
     storesBefore { queued m with accesses := [bankAccess .store [part1 0 8 0 true] 0] } m = true ∧ m.regs.fmto.toNat % 16 ≤ 8 ∧
       m.a + 256 * rowBytes (m.regs.fmto.toNat % 16) ≤ 0x600000) := by decide +kernel

/-- A table of D = 64 and Dff = 64 with rank 1, and its scratchpad. -/
def predTable : Cluster := { spm := writeBytes [] 0 64 (64 + 64 * 2 ^ 32 + 2 ^ 64) }
def predicted (c : Cluster) (l : List (Nat × Dword)) : State := { farX l with clusters := [(0, c)] }
def predCfg1 : PredCfg := { headerN (64 + 64 * 2 ^ 32 + 2 ^ 64) with image := 64 + 64 * 2 ^ 32 + 2 ^ 64 }
def predReq (i : Instr) (a b : Nat) : NReq := { core := 0, ctx := 0, instr := i, pc := 0, a := a, b := b, eps := 0, before := 0 }
theorem meets_PredictorInstructionsPredict :
    let f : FmtR := ⟨0, 1, 1, 2, 1, 3⟩
    let g : FmtR := ⟨0, 0, 1, 0, 1, 3⟩
    let b : PredBuf := { core := 0, ctx := 0, skipped := [(5, 0x3F800000)] }
    let at0 (c : Cluster) (q : NReq) : Bool := servable (predicted { c with npq := [q] } []) [] q
    Issues (farX []) (.npcfg ⟨0, 0, 1, 0, 1, 0⟩) ∧ Issues (farX [(1, 0x100000000), (2, 0x1000)]) (.npred f) ∧
    Issues (farX []) (.ncheck g) ∧
    (at0 predTable (predReq (.npcfg g) 0 0) = true ∧ (match loadTable (predicted predTable []) 0 0 with | .ok _ => true | _ => false) = true) ∧
    (at0 { pcfg := some predCfg1 } (predReq (.npred f) 0x100000000 0x1000) = true ∧
      (predictN predCfg1 [tokenN predCfg1 0]).1.length ≤ 64 ∧ 0x1000 + vectorLen 64 ≤ 0x600000) ∧
    (at0 { pbuf := some b } (predReq (.ncheck g) 0 0) = true ∧ b.core = 0 ∧ b.ctx = 0) ∧
    at0 {} (predReq (.npred f) 0x100000000 0) = true ∧ at0 { recfg := [(0, 0)] } (predReq (.ncheck g) 0 0) = true ∧
    (at0 { pbuf := some { b with ctx := 1 } } (predReq (.ncheck g) 0 0) = true ∧ ({ b with ctx := 1 } : PredBuf).ctx ≠ 0) ∧
    at0 {} (predReq (.ncheck g) 0 0) = true :=
  ⟨issues_of (by decide +kernel), issues_of (by decide +kernel), issues_of (by decide +kernel), by decide +kernel⟩

theorem meets_TrapsEnterTheHandler :
    let s := one 0 { trapvec := 0x8000000000000010 } { start := .task (some 0), record := some task1.record }
    let t := one 0 { trapvec := 0x8000000000000010 } { tstat := 1 }
    (Untraced s 0 ∧ (ctxAt s 0 0).rope = .none ∧ (ctxAt s 0 0).tstat.getLsbD 0 = false ∧ copiesLeft s 0 0 = false ∧
      commandsLeft s 0 0 = false ∧ (coreAt s 0).trapvec.getLsbD 63 = true ∧ isTask (ctxAt s 0 0) = true ∧
      (ctxAt s 0 0).record = some task1.record) ∧
    (Untraced t 0 ∧ (ctxAt t 0 0).rope = .none ∧ (ctxAt t 0 0).tstat.getLsbD 0 = true) ∧
    (copiesLeft (far {}) 0 0 = false ∧ commandsLeft (far {}) 0 0 = false ∧ (coreAt (far {}) 0).trapvec.getLsbD 63 = false ∧
      isTask (ctxAt (far {}) 0 0) = false) :=
  ⟨⟨by rfl, by decide +kernel⟩, ⟨by rfl, by decide +kernel⟩, by decide +kernel⟩
def halting : State :=
  let s := one 0 { xb := 16, dctl := 8 } {}
  { s with parts := [(0, { live := true, clusters := [0], slices := [0], tdi := .run, policy := 31 })] }
theorem meets_TrapInstructionsAndTheReturn :
    Issues (far {}) (.trap ⟨0x1FFF, 0, 0⟩) ∧ Issues (far {}) (.dbrk ⟨0, 0, 0⟩) ∧
    (Issues halting (.dbrk ⟨0, 0, 0⟩) ∧ (partAt halting 0).policy.getLsbD 0 = true ∧ (coreAt halting 0).dctl.getLsbD 3 = true ∧
      (coreAt halting 0).halted = false) ∧
    Issues (far { tstat := 0x81, tpc := 0x80 }) (.tret ⟨0, 0, 0, 0, 0, 0⟩) :=
  ⟨issues_of (by decide +kernel), issues_of (by decide +kernel), ⟨issues_of (by decide +kernel), by decide +kernel⟩,
    issues_of (by decide +kernel)⟩

/-- A context in an upcall beside a parked one; and the save's access once its image is stored. -/
def saving (l : List Access) : State :=
  { one 0 { xb := 16 } { upcall := true, regs := xs [(1, 0x10000), (2, 1)] } with accesses := l, accessId := 9 }
def saved : Access :=
  { id := 5, kind := .save 1, core := 0, ctx := 0, part := 0, pc := 0, word := 0, pieces := [], stage := .performed }
theorem crcBits_lt : ∀ n r, r < 2 ^ 32 → crcBits n r < 2 ^ 32
  | 0, _, h => h
  | n + 1, r, h => crcBits_lt n _ (by split <;> [exact Nat.xor_lt_two_pow (by omega) (by decide); omega])
theorem crcBytes_lt : ∀ n w r, r < 2 ^ 32 → crcBytes n w r < 2 ^ 32
  | 0, _, _, h => h
  | n + 1, w, _, h => crcBytes_lt n _ _ (crcBits_lt 8 _ (Nat.xor_lt_two_pow h (by omega)))
/-- The read of an image by core 0 into its context 1, and an image that is not rejected. -/
def loading (w : Nat) (st : Stage) : Access :=
  { id := 5, kind := .loadCtx 3 1 0x10000, core := 0, ctx := 0, part := 0, pc := 0, word := 0, pieces := [], data := w, stage := st }
theorem crc32c_lt (n w : Nat) : crc32c n w < 2 ^ 32 := Nat.xor_lt_two_pow (crcBytes_lt _ _ _ (by decide)) (by decide)
theorem meets_ContextsAreSavedLoadedAndReplayed_image (c : Nat) (hc : crc32c 65528 0 = c) :
    let w := 1 + c * 2 ^ 32
    imageBad (far {}) 0 w = false ∧ field w 0x628 4 = 0 ∧ bitAt (field w 0xA0 8) 0 = false := by
  intro w
  have h : c < 2 ^ 32 := hc ▸ crc32c_lt _ _
  have e : w / 2 ^ 64 = 0 := by omega
  have z : ∀ lo n, 64 ≤ lo → bits w lo n = 0 := fun lo n hl => by
    have : w < 2 ^ lo := lt_of_lt_of_le (by omega) (Nat.pow_le_pow_right (by decide) hl)
    simp [bits, Nat.div_eq_of_lt this]
  refine ⟨?_, z _ _ (by decide), ?_⟩
  · have h1 : field w 0 2 = 1 := by simp only [field, bits]; omega
    have h2 : bits w 16 6 = 0 := by simp only [bits]; omega
    have h3 : bits w 32 32 = c := by simp only [bits]; omega
    have h4 : bits w 22 10 = 0 := by simp only [bits]; omega
    have hp : partOf (far {}) 0 = 0 := rfl
    rw [imageBad, h1, h2, h3, h4, hp, e, hc]
    simp [Config.isHome]
  · rw [show field w 0xA0 8 = 0 from z _ _ (by decide)]; decide
/-- A REPLAYALL that waits, alone and beside an access that it has presented again. -/
theorem meets_ContextsAreSavedLoadedAndReplayed_replay :
    let w : Wait := { instr := .replayall ⟨0, 0, 0, 0, 0, 0⟩, ops := {}, pc := 0, sub := .full, fate := .defer, fin := .release }
    let a : Access := { load1 with stage := .ready, again := some 0 }
    let s (l : List Access) : State := { far { wait := some w } with accesses := l }
    (ctxAt (s []) 0 0).wait = some w ∧ w.fin = .release ∧ (s []).accesses = [] ∧
    (a ∈ (s [a]).accesses ∧ a.part = partOf (s [a]) 0 ∧ a.again.isSome = true ∧ Config.dieOf a.core = Config.dieOf 0) ∧
    (replayed (far {}) 0 0 load1 = true ∧ Config.dieOf load1.core = 0) := by
  decide +kernel
theorem meets_ContextsAreSavedLoadedAndReplayed_ends :
    let t := { saving [{ saved with stage := .failed 7 0 0x10040 }] with latch := some (xs [(1, 0x10000), (2, 1)]) }
    let s (w : Nat) : State := { far {} with accesses := [loading w .performed], accessId := 6 }
    ((accessesOf t 0 0).find? fun y => y.kind == .save 1) = some { saved with stage := .failed 7 0 0x10040 } ∧
    (((s 0).accesses.find? fun x => x.id == 5) = some (loading 0 .performed) ∧ imageBad (s 0) 0 0 = true) ∧
    (coreAt (s 0) 0).preempt = false ∧ ((s 0).accesses.all fun x => decide (x.id < (s 0).accessId)) = true := by
  refine ⟨by decide +kernel, ⟨by decide +kernel, ?_⟩, by decide +kernel, by decide +kernel⟩
  simp [imageBad, field, bits]
theorem meets_ContextsAreSavedLoadedAndReplayed :
    let i : Instr := .ctxsave ⟨0, 1, 1, 2, 1, 0⟩
    let s := saving [load1]
    let r := beginSave (reading s i) 0 1
    (Issues s i ∧ ((accessesOf (reading s i) 0 0).find? fun x => x.kind == .save 1) = none ∧ saveWaits r 0 1 = false ∧
      ((ownAccesses r 0 1).find? fun x => heldByPark x) = some { load1 with stage := .saving }) ∧
    (let t := { saving [saved] with latch := some (xs [(1, 0x10000), (2, 1)]) }
     t.latch = some (xs [(1, 0x10000), (2, 1)]) ∧ ((accessesOf t 0 0).find? fun y => y.kind == .save 1) = some saved ∧
      saved.stage = .performed) ∧
    (Issues (farX [(1, 0x10000)]) (.ctxload ⟨0, 0, 1, 0, 1, 3⟩) ∧ freeCtx (farX [(1, 0x10000)]) 0 = some 1) ∧
    (Issues (far {}) (.replayall ⟨0, 0, 0, 0, 0, 0⟩) ∧ (far {}).accesses = [] ∧ (coreAt (far {}) 0).l1 = []) :=
  ⟨⟨issues_of (by decide +kernel), by decide +kernel⟩, by decide +kernel, ⟨issues_of (by decide +kernel), by decide +kernel⟩,
    issues_of (by decide +kernel), by decide +kernel⟩

/-- Core 0 with what reaches it. -/
def reached (core : Core) (c : Ctx) : State := one 0 core c
def inbox (b : InBody) : Core := { inbound := [{ body := b, mid := 7 }], bodies := [(0, bodyEntry)] }
theorem meets_CoresTakeWhatReachesThem :
    let free (b : InBody) : State := one 0 (inbox b) {}
    noCtx 0 1 = false ∧
    (ctxAt (reached {} { pend := [.x 5 9, .v 31 1], xp := 32 }) 0 0).pend[0]? = some (.x 5 9) ∧
    (ctxAt (reached {} { pend := [.x 5 9, .v 31 1], xp := 32 }) 0 0).pend[1]? = some (.v 31 1) ∧
    (let s := reached {} { refusals := [{ cause := 7, sub := 0, tval := 0x1000, rpc := 8 }] }
     (ctxAt s 0 0).refusals = { cause := 7, sub := 0, tval := 0x1000, rpc := 8 } :: [] ∧ (ctxAt s 0 0).running = true ∧
       ctxParked s 0 0 = false ∧ accessesOf s 0 0 = [] ∧ (refusalPlace s 0 0).isSome = true) ∧
    (let w : Wait := { instr := .tend ⟨0, 0, 0, 0, 0, 0⟩, ops := {}, pc := 0, sub := .full, fate := .defer, fin := .again }
     let s := reached {} { refusals := [{ cause := 7, sub := 0, tval := 0x1000, rpc := 8 }], wait := some w }
     (ctxAt s 0 0).wait = some w ∧ endWaits w = true ∧ (ctxAt s 0 0).running = true ∧ ctxParked s 0 0 = false) ∧
    (ctxAt (reached {} { pend := [.late 63 1 7], xp := 2 ^ 63 }) 0 0).pend[0]? = some (.late 63 1 7) ∧
    (let clear : Access := { load1 with kind := .wsclr, ctx := 0, blocking := true, stage := .ready }
     clearing { reached {} {} with accesses := [clear] } 0 0 = true ∧ clearing (reached {} {}) 0 0 = false) ∧
    (let s := { reached { tbudget := 4096 } {} with cycle := 4096 }
     (coreAt s 0).tbudget.toNat % 2 ^ 40 ≤ budgetCount s 0 0 ∧ (ctxAt (reached {} { owed := true }) 0 0).owed = true ∧ (ctxAt s 0 0).refusals = [] ∧
       underSave s 0 0 = false ∧ clearing s 0 0 = false) ∧
    (let w : Wait := { instr := .gbar ⟨3, 0, 9, 0⟩, ops := {}, pc := 0, sub := .barrier, fate := .defer, fin := .again }
     (ctxAt (reached {} { wait := some w }) 0 0).wait = some w ∧ w.fate = .defer ∧
       ctxParked (reached {} { wait := some w }) 0 0 = false) ∧
    (freeCtx (free (.task task1.record false)) 0 = some 1 ∧ ffind (coreAt (free (.task task1.record false)) 0).bodies (bodyVa 0 0) = some bodyEntry ∧
      bodyValid bodyEntry.toNat = true ∧ bodyFar bodyEntry.toNat = true ∧ bodyAbsent false bodyEntry.toNat = false) ∧
    (freeCtx (free (.launch 0x80 5 1 (0, 0))) 0 = some 1 ∧ (0, 0) ≠ (0, 1)) ∧
    (let s := one 0 { inbox (.handler 1 0 0 0 0 0) with htable := 0x10000, tcm := writeBytes [] 8 8 0x8000000000000010 } {}
     freeCtx s 0 = some 1 ∧ handlerValid s 0 1 = true) ∧
    (let s := one 0 { upcvec := 0x8000000000010010, upcalls := [{ va := 1, info := 2, pc := 8, cls := 1 }] } {}
     (coreAt s 0).upcvec.getLsbD 63 = true ∧ (coreAt s 0).upcvec.toNat / 2 ^ 16 % 8 = 1 ∧ (ctxAt s 0 1).running = false ∧
       (partAt s (partOf s 0)).loading = false) ∧
    ((coreAt (reached { preempt := true } {}) 0).preempt = true) ∧
    ((coreAt halting 0).part = some 0 ∧ (partAt halting 0).tdi = .run ∧ (partAt halting 0).policy.getLsbD 0 = true ∧
      (coreAt halting 0).halted = false ∧ (partAt (far {}) 0).policy.getLsbD 0 = false ∧ (partAt (far {}) 0).tdi = .run) ∧
    ((partAt halting 0).live = true ∧ (partAt halting 0).cut = none ∧ inPart halting 0 0 = true ∧
      serviceBusy halting (windowService halting 0) 0 halting.accessId = false ∧
      (coreAt (modCore halting 0 fun c => { c with halted := true }) 0).halted = true) := by
  decide +kernel
theorem meets_CoresTakeWhatReachesThem_untraced : Untraced (far {}) 0 := rfl

def mailed (l : List Msg) (q : SlicePart) : State := { far {} with msgs := l, slices := [(0, { parts := [(0, q)] })] }
def enqueue1 : Msg := { src := 1, body := .enqueue 0 0 task1.record }
def inbound1 : Msg := { src := 1, body := .inbound 0 0 (.task task1.record false) }
def retire1 : Msg := { src := 1, body := .retire 0 0 9 }
def launch1 : Msg := { src := 1, body := .launch 0 0 0x80 5 1 (1, 0) 1 [0, 1] }
theorem meets_MessagesReachTheirQueues :
    let s := mailed [enqueue1, inbound1, launch1] {}
    let t (l : List Msg) : State := { mailed l {} with cycle := 1 }
    let at0 (m : Msg) : Msg := { m with arr := some 0 }
    s.msgs[0]? = some enqueue1 ∧ enqueue1.arr = none ∧ s.msgs.take 0 = [] ∧ (mailed [retire1] {}).msgs[0]? = some retire1 ∧
    (let u := t [at0 enqueue1]
     u.msgs[0]? = some (at0 enqueue1) ∧ dueAt u (.queue 0 0) = some (.msg 0)) ∧
    (let u := t [at0 enqueue1, at0 { retire1 with src := 2 }]
     dueAt u (.queue 0 0) = some (.msg 1) ∧ queueRet u 0 0 = some 1 ∧ (spAt u 0 0).lastRet ≠ some u.cycle) ∧
    s.msgs[1]? = some inbound1 ∧ channelHead s 1 inbound1 = true ∧
    s.msgs[2]? = some launch1 ∧ channelHead s 2 launch1 = true ∧ (s.msgs.all fun x => !(sameLaunch launch1 x && msgBlocked s x)) = true ∧
    (partAt s 0).cut = none ∧ depth (spAt s 0 0) < 16384 ∧ inboundUsed (coreAt s 0) < 4096 := by
  decide +kernel
/-- An inbound queue without room. -/
theorem meets_MessagesReachTheirQueues_inbound (n : Nat) (h : 4096 ≤ n) :
    4096 ≤ inboundUsed { inbound := List.replicate n { body := .task task1.record false, mid := 0 } } := by
  have e : ∀ l : List InRec, (∀ r ∈ l, r = { body := .task task1.record false, mid := 0 }) →
      inboundUsed { inbound := l } = l.length := fun l hl => by
    unfold inboundUsed
    rw [List.filter_eq_self.mpr fun r hr => by rw [hl r hr]; rfl]
  rw [e _ fun r hr => List.eq_of_mem_replicate hr, List.length_replicate]
  exact h
/-- A queue at its limit, and one whose front section alone is full. -/
theorem meets_MessagesReachTheirQueues_full (n : Nat) (h : 16384 ≤ n) :
    16384 ≤ depth (spAt (mailed [enqueue1] { spill := List.replicate n task1 }) 0 0) := by
  have e : ∀ q, spAt (mailed [enqueue1] q) 0 0 = q := fun _ => rfl
  rw [e]
  simpa [depth] using h
theorem meets_MessagesReachTheirQueues_back (q : QTask) :
    ¬ (([] : List QTask) = [] ∧ ([] : List QTask) = [] ∧ (List.replicate 512 q).length < 512) := fun h =>
  absurd h.2.2 (by rw [List.length_replicate]; decide)
/-- An access of core 0 at a stage. -/
def going (l : List Access) : State := { far {} with accesses := l, cycle := 10000 }
def staged (st : Stage) : Access := { load1 with stage := st }
def table4 (e : Nat) : State := tabled e (farX [])
def walkStep (s : State) (va lvl table : Nat) : Nat :=
  match fillWindow s 0 ((table + 8 * (va / 2 ^ (12 + 9 * lvl) % 512)) % 2 ^ 30) with
  | .ok u => scPeek u (lineKey 0 ((table + 8 * (va / 2 ^ (12 + 9 * lvl) % 512)) % 2 ^ 30)) ((table + 8 * (va / 2 ^ (12 + 9 * lvl) % 512)) % 64) 8
  | _ => 0
def rcTlb : Tlb :=
  { part := 0, base := 0x40000000, size := 4096, frame := 0x10000, w := true, d := true, ct := 1, hw := false, dup := false, pte := 0 }
/-- A package whose home of address 2^30 holds its translation and its line. -/
def homeHit : State :=
  let s := far {}
  let h := homeIn s 0 0x40000000
  { s with slices := [(h, { tlb1 := [rcTlb], lines := [(lineKey 0 0x40000000, { ct := 1, data := 7, pa := 0x10000 })] })] }
/-- A partition whose memory a peer reads: the highest frame of the HBM. -/
def shared : State :=
  { far {} with parts := [(0, { live := true, clusters := [0], slices := [0], tdi := .run, granted := [(0x7FFFFFF000, 4096)] })] }
def copyLeave : LeaveReq := { kind := 1, core := 0, ctx := 0, copy := 0, cycle := 3 }
def belayLeave : LeaveReq := { copyLeave with kind := 0 }
def belay1 : Belay := { core := 0, ctx := 0, n := 64 }
theorem meets_HomesActOnTheirEvents_walks :
    (((going [staged (.walk 255)]).accesses.filter fun x => x.stage == .walk 255)[0]? = some (staged (.walk 255)) ∧
      walkable (going [staged (.walk 255)]) (staged (.walk 255)) = true) ∧
    -- eight that came before it need the slice's walkers
    (let w (i : Nat) : Access := { staged (.walk 0) with pieces := [part1 (0x50000000 + 4096 * i) 8 0 false], id := i }
     let a : Access := { staged (.walk 0) with pieces := [part1 0x40000000 8 0 false], id := 9 }
     walkable { homeHit with accesses := (List.range 8).map w ++ [a] } a = false ∧
      walkable { homeHit with accesses := (List.range 7).map w ++ [a] } a = true) := by
  decide +kernel
theorem meets_HomesActOnTheirEvents_peers :
    ((far {}).peerWait.all fun x => peerHeld (far {}) x) = true ∧ (shared.peerWait.all fun x => peerHeld shared x) = true ∧
    peerHeld { shared with retries := [0x1FFFFFFFF] } (.miss 0x7FFFFFFFF8) = true := by
  decide +kernel
theorem meets_HomesActOnTheirEvents :
    -- a reserved bit, an absent entry, a table, a leaf
    (walkStep (table4 0x10000000000001B) 0x40000000 0 0x4000 = 0x10000000000001B ∧ bits 0x10000000000001B 52 12 ≠ 0) ∧
    (walkStep (table4 0) 0x40000000 0 0x4000 = 0) ∧
    (walkStep (table4 0x1080B) 0x40000000 1 0x4000 = 0x1080B ∧ bitAt 0x1080B 11 = true ∧ bitAt 0x1080B 2 = false) ∧
    (walkStep (table4 0) 0x40000000 4 0 = 0x1001 ∧ bits 0x1001 30 22 = (partAt (table4 0) 0).ptroot.toNat / 2 ^ 30 % 2 ^ 22) ∧
    (walkStep (table4 0x1004B) 0x40000000 0 0x4000 = 0x1004B ∧
      leafRefused (partAt (table4 0) 0) (bits 0x1004B 12 40 * 4096) 1 false false = false) ∧
    (let a := staged (.parked 0 5 1 0)
     (going [a]).accesses.filter (unwatched (going [a]) 0) = [a] ∧ isParked a = true ∧
       ((going [a]).accesses.find? fun x => x.id == a.id && isParked x) = some a) ∧
    ((going [staged (.token 2 none)]).accesses[0]? = some (staged (.token 2 none)) ∧ 
      (going [staged (.token 3 none)]).accesses[0]? = some (staged (.token 3 none)) ∧
      agentBusy (going [staged (.token 3 none)]) (staged (.token 3 none)) = false ∧
      2047 < (staged (.token 0 none)).sent + 2048 ∧ (staged (.token 0 none)).sent + 2048 ≤ (going []).cycle) ∧
    (let a := staged (.token 4 (some 7))
     firstServed (going [a]) ((going [a]).accesses.filter fun x =>
       x.part == 0 && headVa x / 64 == 0x140 && (persistentSince x).isSome) = some a) ∧
    (0x40000000 + 64 ≤ 2 ^ 57 ∧ 0x40000000 % 64 + 64 ≤ 64 ∧ (partAt homeHit 0).cut = none ∧ (partAt homeHit 0).live = true ∧
      (partAt homeHit 0).tdi = .run ∧ homeHit.accesses = [] ∧ (homeHit.parts.all fun e => e.2.winQ.isEmpty) = true ∧
      (partAt homeHit 0).transit = [] ∧ inWindow (partAt homeHit 0) 0x40000000 = false ∧
      tlbFind homeHit (homeIn homeHit 0 0x40000000) 0 0x40000000 = some rcTlb ∧
      homeLine homeHit (lineKey 0 0x40000000) = some { ct := 1, data := 7, pa := 0x10000 } ∧ isPeer 0x10000 = false) ∧
    (partAt (far {}) 63).tdi ≠ .run ∧
    (peerBad (far {}) 0x7FFFFFFFF8 = true ∧ peerBad shared (2 ^ 39) = true) ∧
    (0x7FFFFFFFF8 < 2 ^ 39 ∧ 0x7FFFFFFFF8 % 8 = 0 ∧ (frameAt shared 0x7FFFFFFFF8).poisoned = false ∧
      keyOfPa shared 0x7FFFFFFFF8 = none ∧ (paLine shared 0x7FFFFFFFF8).2 &&& dwordMask (0x7FFFFFFFF8 % 64) 8 = 0 ∧
      (paLine { shared with wsMeta := [(0x1FFFFFFFF, 0x80)] } 0x7FFFFFFFF8).2 &&& dwordMask (0x7FFFFFFFF8 % 64) 8 ≠ 0 ∧
      (shared.parts.any fun e => e.2.live && granted e.2 0x7FFFFFFFF8) = true ∧ (shared.parts.all fun e => e.2.cut.isNone) = true ∧
      shared.retries.contains 0x1FFFFFFFF = false ∧ ({ shared with retries := [0x1FFFFFFFF] } : State).retries.contains (0x7FFFFFFFF8 / 64) = true) ∧
    ((far {}).retries.contains 5 = false ∧ keyOfPa (far {}) (64 * 5) = none ∧ ({ far {} with retries := [5] } : State).retries.contains 5 = true ∧
      onRetry 5 (staged (.walk 0)) = false) ∧
    (let s := { far {} with dies := [(0, { leaveQ := [copyLeave, belayLeave] })], clusters := [(0, { chosen := some belay1 })] }
     ((dieAt s 0).holders.filter fun x => x.kind == 1).length < (dieAt s 0).clim ∧
       oldestLeave ((dieAt s 0).leaveQ.filter fun x => x.kind == 1) = some copyLeave ∧
       ((dieAt s 0).holders.filter fun x => x.kind == 0).length < (dieAt s 0).blim ∧
       oldestLeave ((dieAt s 0).leaveQ.filter fun x => x.kind == 0) = some belayLeave ∧ (cluAt s (belayLeave.core / 8)).chosen = some belay1) ∧
    ((dieAt { far {} with dies := [(0, { clim := 0 })] } 0).clim ≤ 0) ∧
    (let s := { far {} with clusters := [(63, { belays := [belay1] })] }
     (cluAt s 63).holder = none ∧ (cluAt s 63).chosen = none ∧ pickBelay s 63 = some belay1) := by decide +kernel

def spec1 : PartitionSpec :=
  { part := 63, clusters := [63], slices := [255], frames := [(0, 2 ^ 27)], ceiling := 4096, ptroot := 0, walkcfg := 0, entropy := 0 }
def launchR : LaunchRecord := { start := 0x80, ap := 5, cls := 3, bodyt := 0, res4 := 0, res5 := 0, res6 := 0, go := 1 }
/-- An object of one native image without sections at 2^30, which the slice's translation maps: MAGIC, VERSION, NIMG and
the length; the entry's revision, level, offset and size. -/
def object1 : Nat :=
  0x4F5A5342 + 2 ^ 32 + 2 ^ 48 + 2 ^ 64 * 104 + 2 ^ 512 * (0x0312 * 2 ^ 8 + 4 * 2 ^ 24) + 2 ^ 576 * 96 + 2 ^ 640 * 8
def loadable : State :=
  { cores := [(0, { part := some 0 })]
    parts := [(0, { live := true, clusters := [0], slices := [0], tdi := .run, granted := [(0, 2 ^ 30)] })]
    slices := [0, 64].foldl (fun m k => fset m (homeIn homeHit 0 (0x40000000 + k)) { tlb1 := [rcTlb] }) []
    hbm := writeBytes [] 0x10000 104 object1 }
def loadR : LoadRecord := { obj := 0x40000000, dbase := 0, go := 1 }
theorem meets_FirmwareActsOnPartitions_load :
    (partAt loadable 0).live = true ∧ (partAt loadable 0).tdi = .run ∧ (partAt loadable 0).cut = none ∧ (partAt loadable 0).loadQ = none ∧
    loadR.go ≠ 0 ∧ anyRunning loadable 0 = false ∧ (loadsTo (loadAccepted loadable 0 loadR) 0 loadR).isSome = true := by decide +kernel
/-- A partition whose cores are all pre-empted in a cut. -/
def stopped1 : State :=
  { cores := ((List.range 8).map fun n => (n, { part := some 0, preempt := true })) ++ [(512, { part := some 0, preempt := true })]
    parts := [(0, { live := true, clusters := [0], slices := [0], tdi := .run, cut := some { stop := true } })] }
theorem meets_FirmwareActsOnPartitions_busy :
    let s : State := { far {} with parts := [(0, { live := true, clusters := [0], winQ := [(0, .launch launchR)] })], accessId := 1 }
    serviceBusy s (windowService s 0) 0 s.accessId = true ∧ takesNone (far {}) 0 = false ∧ takesNone stopped1 0 = true ∧
      serviceBusy (far {}) (windowService (far {}) 0) 0 (far {}).accessId = false := by
  decide +kernel
theorem meets_FirmwareActsOnPartitions :
    createBad (far {}) { spec1 with clusters := [0] } = true ∧ createBad (far {}) spec1 = false ∧
    ((partAt (far {}) 63).live = false ∧ (partAt (far {}) 0).live = true) ∧
    ((partAt { far {} with parts := [(0, { live := true })] } 0).tdi = .unlocked ∧
      (partAt { far {} with parts := [(0, { live := true, tdi := .locked })] } 0).tdi = .locked) ∧
    ((partAt (far {}) 0).tdi = .run ∧ (partAt (far {}) 0).cut = none ∧ (partAt (far {}) 0).launchQ = none ∧
      (partAt (far {}) 0).loading = false ∧ launchR.go ≠ 0 ∧ launchBad { launchR with cls := 4 } = true ∧ launchBad launchR = false ∧
      freeCtx (far {}) (baseCamp (far {}) 0) = some 1 ∧ (coreAt (far {}) (baseCamp (far {}) 0)).halted = false ∧
      (coreAt (far {}) (baseCamp (far {}) 0)).part = some 0) ∧
    ((partAt (far {}) 0).loadQ = none ∧ anyRunning (far {}) 0 = true ∧
      anyRunning { far {} with cores := [] } 0 = false ∧ (8 : Dword).toNat % 64 ≠ 0) ∧
    (inPart (far { stopped := true }) 0 0 = true ∧ (ctxAt (far { stopped := true }) 0 0).stopped = true ∧
      (ctxAt (far {}) 0 0).stopped = false) := by decide +kernel

theorem meets_RequestsAreAttested :
    let s := { far {} with exchanges := [65], sessions := [1], parts := [(0, { live := true })], measured := true }
    (s.measured = true ∧ (partAt s 0).live = true ∧ (partAt (far {}) 63).live = false ∧ (State.reset).spdm = []) ∧
    (65 < 66 ∧ s.xmss < 2 ^ 20 ∧ 2 ^ 20 ≤ ({ s with xmss := 2 ^ 20 } : State).xmss) ∧ 65 ∈ s.exchanges ∧ ¬ 65 ∈ s.sessions ∧
    (1 ∈ s.sessions ∧ (partAt s 0).live = true ∧ (partAt s 0).tdi = .unlocked ∧ policyOk (partAt s 0) [] = false) := by decide +kernel
/-- A policy is accepted where its bytes carry the partition's digest and its key verifies the signature. -/
theorem meets_RequestsAreAttested_policy (q : Partition) (k : BitVec 512) (b : List Byte) (h : 120 ≤ b.length)
    (hv : byteField b 0 8 = 1) (hd : byteField b 8 64 = (partDigest { q with tenantKey := some k, policySeq := none }).toNat)
    (hp : byteField b 80 8 < 32) (hs : Config.xmssVerify k (b.take 120) (b.drop 120) = true) :
    policyOk { q with tenantKey := some k, policySeq := none } b = true := by
  simp [policyOk, h, hv, hd, hp, hs]

def sampled : State :=
  { far {} with
    cycle := 256
    parts := [(0, { live := true, clusters := [0], slices := [0], tdi := .run, policy := 31, sampcfg := 0x8000000000000800 })] }
def cutting (c : Cut) : State :=
  { far {} with cores := [], parts := [(0, { live := true, clusters := [0], slices := [0], tdi := .run, cut := some c })] }
def stoppedCores : FMap Core := ((List.range 8).map fun n => (n, { part := some 0, preempt := true })) ++ [(512, { part := some 0, preempt := true })]
def image1 : CutImage :=
  { hkey := 0, clusters := [0], slices := [0], ptroot := 0, walkcfg := 0, bodytab := 5, groups := [], cores := [(0, { part := some 0 })],
    clus := [], queues := [], sigs := [], hwfull := [], full := [], frames := [], records := [], stops := [], log := [], links := [], asks := [] }
def resumable : State :=
  { cores := [(0, { part := some 0 })], parts := [(0, { live := true, clusters := [0], slices := [0], image := some image1 })] }
theorem meets_RunsAreSampledDumpedAndCut :
    (tickDue sampled 0 = true ∧ tickDue (far {}) 0 = false) ∧
    ((coreAt halting 0).part = some 0 ∧ (partAt halting 0).tdi = .run ∧ (partAt halting 0).policy.getLsbD 4 = true ∧
      (coreAt halting 0).halted = false ∧ (partAt (far {}) 0).policy.getLsbD 4 = false) ∧
    ((partAt (far {}) 0).live = true ∧ (partAt (far {}) 0).cut = none ∧ (partAt (cutting { stop := true }) 0).cut.isSome = true) ∧
    (let s := { cutting { stop := true } with cores := stoppedCores }
     markerOk (cutting { stop := true }) 0 0 1000 { stop := true } = false ∧
     (markerOk s 0 0 1000 { stop := true } = true ∧ (cutUnits s 0).all (Cut.recorded { stop := true }).contains = false) ∧
     (let c : Cut := { stop := true, recorded := cutUnits s 0 }
      markerOk s 0 512 512 c = true ∧ c.held = [] ∧ (cutUnits s 0).all c.recorded.contains = true)) ∧
    (resumeOk (far {}) 0 image1 = false ∧ resumeOk resumable 0 image1 = true ∧ (partAt resumable 0).image = some image1 ∧
      image1.log = [] ∧ image1.clus = [] ∧ ffind resumable.cores 0 = some { part := some 0 } ∧
      ffind image1.cores 0 = some { part := some 0 }) := by decide +kernel
theorem meets_StepKeepsMemoryOk : MemoryOk (bundleAt 0xC6000000 0) ∧ Memory.wf (coreAt (bundleAt 0xC6000000 0) 0).tcm = true ∧
    (match step (bundleAt 0xC6000000 0) with | .next _ => true | _ => false) = true := by
  refine ⟨⟨rfl, rfl, rfl, fun e h => ?_, fun e h => ?_, fun e h im hi => ?_⟩, by decide +kernel, by decide +kernel⟩
  · rw [List.mem_singleton.mp h]; decide +kernel
  · exact absurd h List.not_mem_nil
  · rw [List.mem_singleton.mp h] at hi; cases hi

/-! ## Small checks against values that the spec works out, or that follow by hand from its rules. -/

/-- x[rd] after one step of an instruction on core 0. -/
def xAfter (i : Instr) (rd : Nat) (c : Ctx) : Dword :=
  match exec i (far c) with | .next t => rx (ctxAt t 0 0).regs rd | _ => 0xDEAD
def frmAfter (i : Instr) (c : Ctx) : Dword :=
  match exec i (far c) with | .next t => (ctxAt t 0 0).regs.frm | _ => 0xDEAD
def pcAfter (i : Instr) (c : Ctx) : Nat :=
  match exec i (far c) with | .next t => (ctxAt t 0 0).pc | _ => 0xDEAD
def trapAfter (i : Instr) (c : Ctx) : Nat × Dword × Nat :=
  match exec i (one 0 { xb := 16, trapvec := 0x8000000000000010 } c) with
  | .next t => ((ctxAt t 0 0).tcause.toNat, (ctxAt t 0 0).tval, (ctxAt t 0 0).pc)
  | _ => (0xDEAD, 0, 0)
def withX (l : List (Nat × Dword)) : Ctx := { regs := xs l }
def withF (m : Nat) (l : List (Nat × Dword)) : Ctx := { regs := { x := l, frm := BitVec.ofNat 64 m } }
/-- FADD.s x20, x21, x22 with 1.0 and 2^-24, as spec/06 works it out: 0 to nearest even, 1 toward zero, 2 up, 4 away. -/
def sumS : Instr := .fadd 0 ⟨1, 1, 1, 22, 21, 20⟩
def oneAndTiny : List (Nat × Dword) := [(21, 0x3F800000), (22, 0x33800000)]
theorem test_fadd_nearest_even : xAfter sumS 20 (withF 0 oneAndTiny) = 0x3F800000 := by decide +kernel
theorem test_fadd_up : xAfter sumS 20 (withF 2 oneAndTiny) = 0x3F800001 ∧ frmAfter sumS (withF 2 oneAndTiny) = 0x102 := by
  decide +kernel
/-- FCVT.i32.f64 of -2.75 toward zero, and of 2^32; spec/06. -/
theorem test_fcvt_to_int : xAfter (.fcvt 0 ⟨6, 0, 1, 9, 21, 20⟩) 20 (withX [(21, 0xC006000000000000)]) = 0xFFFFFFFFFFFFFFFE := by
  decide +kernel
theorem test_fcvt_saturates :
    xAfter (.fcvt 0 ⟨6, 0, 1, 8, 21, 20⟩) 20 (withX [(21, 0x41F0000000000000)]) = 0x7FFFFFFF ∧
    frmAfter (.fcvt 0 ⟨6, 0, 1, 8, 21, 20⟩) (withX [(21, 0x41F0000000000000)]) = 0x1000 := by decide +kernel
theorem test_fdiv_by_zero :
    xAfter (.fdiv 0 ⟨2, 1, 1, 22, 21, 20⟩) 20 (withX [(21, 0x3FF0000000000000)]) = 0x7FF0000000000000 ∧
    frmAfter (.fdiv 0 ⟨2, 1, 1, 22, 21, 20⟩) (withX [(21, 0x3FF0000000000000)]) = 0x800 := by decide +kernel
/-- The worked conversions of spec/13. -/
theorem test_conversions_e4m3 :
    roundTo e4m3 0 0 (decodeF f32 0x3E99999A) = (0x2A, fNX) ∧ roundTo e4m3 1 0 (decodeF f32 0x3E99999A) = (0x29, fNX) ∧
    roundTo e4m3 0 0 (decodeF f32 0x43FA0000) = (0x7E, fOF ||| fNX) := by decide +kernel
theorem test_conversions_small :
    roundTo e5m2 2 0 (.exact false 70000 0) = (0x7C, fOF ||| fNX) ∧ roundTo e5m2 1 0 (.exact false 70000 0) = (0x7B, fOF ||| fNX) ∧
    roundTo e2m1 0 0 (.exact false 5 (-1)) = (4, fNX) ∧ roundTo e2m1 4 0 (.exact false 5 (-1)) = (5, fNX) ∧
    roundTo e3m2 0 0 (decodeF f32 0x3DCCCCCD) = (2, fNX) ∧ roundTo e2m3 0 0 (decodeF f32 0x7FC00000) = (0, fNV) := by
  decide +kernel
/-- R249's example: 1.296875 goes up exactly when the random value is at least 0xA000. -/
theorem test_stochastic :
    (roundTo e4m3 5 0x9FFF (.exact false 83 (-6))).1 = 0x3A ∧ (roundTo e4m3 5 0xA000 (.exact false 83 (-6))).1 = 0x3B := by
  decide +kernel
/-- The ZX8 block of spec/13: header 0x00A3, tokens 111 and 10 and thirty zeros, raw fields 0 and 13. -/
theorem test_zx8_block :
    (zxBlocks 0x0000000312300000 (0xA3 + 2 ^ 16 * (0xF + 2 ^ 35 * 13 * 16)) 1 0).1.take 2 = [0x40, 0xB5] := by decide +kernel
/-- The delta record of spec/21. -/
theorem test_sample_record :
    let was : List (Nat × Nat) := (1, 0x40) :: List.replicate 67 (0, 0)
    let is : List (Nat × Nat) :=
      (1, 0x43) :: List.replicate 7 (0, 0) ++ (5, 0x288) :: List.replicate 55 (0, 0) ++ (2, 0x12) :: List.replicate 3 (0, 0)
    sampleRecord 0x120000 16 68 false false (sampleTokens (is.zip was) 0) =
      [0x0000001200440001, 0x120000, 0x47, 0x092B600A22E30066, 0x04] := by decide +kernel
/-- The loop of spec/06 in one bundle: x8 adds the old x9. -/
theorem test_loop_beside_addsh :
    let c : Instr := .loop ⟨0, 0, 0, 1, 9, 0⟩
    let a : Instr := .addsh 0 ⟨3, 1, 1, 9, 8, 8⟩
    let w := encodePair c a
    w = (0x0000248A, 0x1E490403) ∧
    (match step (one 0 { xb := 16, tcm := writeBytes [] 0 8 (w.1 + 2 ^ 32 * w.2) } (withX [(9, 4)])) with
      | .next t => (rx (ctxAt t 0 0).regs 8, rx (ctxAt t 0 0).regs 9, (ctxAt t 0 0).pc)
      | _ => (0, 0, 1)) = (32, 3, 0) := by decide +kernel
/-- The misaligned store of spec/20: two records buffered, cause 3; the record is requeued for its context. -/
def stolen : State :=
  one 19 { xb := 0x1000, trapvec := 0x8000000000000010 }
    { pc := 0x240, start := .task (some 69), record := some { task1.record with mid := 0x11400030 }
      sends := [{ record := task1.record, dest := .core 1 }, { record := task1.record, dest := .core 1 }]
      regs := xs [(1, 0x800104)] }
def trapRegs (t : State) : List Dword :=
  [(ctxAt t 19 0).tstat, (ctxAt t 19 0).tpc, (ctxAt t 19 0).tcause, (ctxAt t 19 0).tval]
theorem test_trap_of_a_task :
    (match exec (.std ⟨0, 0, 1, 1, 1, 3, 0⟩) stolen with
      | .next t => trapRegs t == [0x02000021, 0x240, 3, 0x800104] &&
          ((coreAt t 19).inbound.map fun e => (e.mid, e.held)) == [(0x11400030, some 0)]
      | _ => false) = true := by decide +kernel
theorem test_div_by_zero : xAfter (.div 0 ⟨0, 1, 1, 2, 1, 3⟩) 3 (withX [(1, 5)]) = 0xFFFFFFFFFFFFFFFF := by decide +kernel
theorem test_rem_of_the_most_negative :
    xAfter (.rem 0 ⟨0, 1, 1, 2, 1, 3⟩) 3 (withX [(1, 0x8000000000000000), (2, 0xFFFFFFFFFFFFFFFF)]) = 0 := by decide +kernel
theorem test_sub_wraps : xAfter (.sub 0 ⟨0, 1, 1, 2, 1, 3⟩) 3 (withX [(1, 0), (2, 1)]) = 0xFFFFFFFFFFFFFFFF := by decide +kernel
theorem test_mulh : xAfter (.mulh 0 ⟨0, 1, 1, 2, 1, 3⟩) 3 (withX [(1, 0xFFFFFFFFFFFFFFFF), (2, 2)]) = 0xFFFFFFFFFFFFFFFF := by
  decide +kernel
theorem test_sra : xAfter (.sra 0 ⟨0, 1, 1, 2, 1, 3⟩) 3 (withX [(1, 0x8000000000000000), (2, 63)]) = 0xFFFFFFFFFFFFFFFF := by
  decide +kernel
theorem test_addi_long : xAfter (.addi 0 ⟨0, 1, 1, 3, 0x80000000⟩) 3 (withX [(1, 1)]) = 0xFFFFFFFF80000001 := by decide +kernel
theorem test_x0_is_zero : xAfter (.addi 0 ⟨5, 1, 0, 0, 0⟩) 0 (withX []) = 0 := by decide +kernel
theorem test_branch_back : pcAfter (.bcLt ⟨0x1FF, 1, 1, 1, 2, 0⟩) { withX [(1, 0xFFFFFFFFFFFFFFFF)] with pc := 24 } = 16 := by
  decide +kernel
theorem test_jrl_links : pcAfter (.jrl ⟨2, 1, 1, 3, 0⟩) { withX [(1, 64)] with pc := 24 } = 80 ∧
    xAfter (.jrl ⟨2, 1, 1, 3, 0⟩) 3 { withX [(1, 64)] with pc := 24 } = 32 := by decide +kernel
theorem test_empty_source_traps :
    trapAfter (.add 0 ⟨0, 1, 0, 2, 1, 3⟩) { regs := { xe := 2 } } = (0x02, 1, 0x80) := by decide +kernel
theorem test_trap_number : trapAfter (.trap ⟨0x1234, 0, 0⟩) {} = (0x15, 0x1234, 0x80) := by decide +kernel
theorem test_tcm_below_the_boundary : trapAfter (.ldd ⟨1, 2, 1, 0, 3, 0⟩) {} = (0x04, 8, 0x80) := by decide +kernel
theorem test_tret_outside_a_handler : trapAfter (.tret ⟨0, 0, 0, 0, 0, 0⟩) {} = (0x0701, 0, 0x80) := by decide +kernel


end Sys2Proof.Tests
end

/-! # Every step keeps the memories in canonical form

One rule for each function of the model that returns a state: `MemoryOk.f` says of the function `f` that, from a state
whose byte memories are in canonical form, it leaves such a state. Few functions write a byte memory; their rules rest on
`MemoryOk.hbm`, `MemoryOk.hostMem`, `MemoryOk.peerMem`, `MemoryOk.modCoreWith`, `MemoryOk.modCluWith` and
`MemoryOk.modPartWith`. All other writes are covered by `MemoryOk.other`, `MemoryOk.modCore`, `MemoryOk.modClu` and
`MemoryOk.modPart`. The rule for a function that calls others names their rules in the same order. Where a function
returns something that holds a state, a predicate says the same of that state (`FillOk`, `TransOk`, `PResOk`, ...). -/

namespace Sys2Proof.Machine
section
variable {s t : State}

/-! ## State updates and home lines -/

theorem fset_all {α : Type} {P : α → Prop} {v : α} (hv : P v) {k : Nat} :
    ∀ {m : FMap α}, (∀ e ∈ m, P e.2) → ∀ e ∈ fset m k v, P e.2
  | [], _ => by simpa [fset] using hv
  | (j, w) :: m, hm => by
    have hw : P w := hm (j, w) List.mem_cons_self
    have ht : ∀ e ∈ m, P e.2 := fun e he => hm e (List.mem_cons_of_mem _ he)
    unfold fset
    split
    · simpa [hv, hw] using ht
    · split
      · simpa [hv] using ht
      · simpa [hw] using fset_all (k := k) hv ht

theorem fget_of_all {α : Type} {P : α → Prop} {d : α} (hd : P d) {k : Nat} :
    ∀ {m : FMap α}, (∀ e ∈ m, P e.2) → P (fget d m k)
  | [], _ => hd
  | (j, w) :: m, hm => by
    unfold fget
    split
    · exact hm (j, w) List.mem_cons_self
    · exact fget_of_all hd fun e he => hm e (List.mem_cons_of_mem _ he)

theorem foldl_keeps {α β : Type} {P : α → Prop} {f : α → β → α} (hf : ∀ a b, P a → P (f a b))
    {l : List β} {a : α} (h : P a) : P (l.foldl f a) := List.foldlRecOn l f h fun a ha b _ => hf a b ha

theorem ite_keeps {α : Type} {P : α → Prop} {c : Prop} {_ : Decidable c} {a b : α} (ha : P a) (hb : P b) :
    P (if c then a else b) := by
  split
  · exact ha
  · exact hb

/-- A core's TCM is in canonical form. -/
abbrev CoreOk (c : Core) : Prop := Memory.wf c.tcm = true
/-- A cluster's scratchpad is in canonical form. -/
abbrev ClusterOk (c : Cluster) : Prop := Memory.wf c.spm = true
/-- The memories that a cut has recorded are in canonical form. -/
def ImageOk (im : CutImage) : Prop :=
  Memory.wf im.frames = true ∧ (∀ x ∈ im.cores, CoreOk x.2) ∧ ∀ x ∈ im.clus, ClusterOk x.2
/-- A partition's image, where it has one, is in canonical form. -/
abbrev PartOk (q : Partition) : Prop := ∀ im, q.image = some im → ImageOk im

/-! ### The parts of `MemoryOk` -/

theorem MemoryOk.wf_hbm (h : MemoryOk s) : Memory.wf s.hbm = true := h.1
theorem MemoryOk.wf_hostMem (h : MemoryOk s) : Memory.wf s.hostMem = true := h.2.1
theorem MemoryOk.wf_peerMem (h : MemoryOk s) : Memory.wf s.peerMem = true := h.2.2.1
theorem MemoryOk.cores_ok (h : MemoryOk s) : ∀ e ∈ s.cores, CoreOk e.2 := h.2.2.2.1
theorem MemoryOk.clusters_ok (h : MemoryOk s) : ∀ e ∈ s.clusters, ClusterOk e.2 := h.2.2.2.2.1
theorem MemoryOk.parts_ok (h : MemoryOk s) : ∀ e ∈ s.parts, PartOk e.2 := h.2.2.2.2.2
theorem coreOk_default : CoreOk {} := rfl
theorem clusterOk_default : ClusterOk {} := rfl
theorem partOk_default : PartOk {} := fun _ h => nomatch h

protected theorem MemoryOk.coreAt {n} (h : MemoryOk s) : CoreOk (coreAt s n) :=
  fget_of_all (P := CoreOk) coreOk_default h.cores_ok
protected theorem MemoryOk.cluAt {n} (h : MemoryOk s) : ClusterOk (cluAt s n) :=
  fget_of_all (P := ClusterOk) clusterOk_default h.clusters_ok
protected theorem MemoryOk.partAt {n} (h : MemoryOk s) : PartOk (partAt s n) :=
  fget_of_all (P := PartOk) partOk_default h.parts_ok

protected theorem MemoryOk.cores {m} (h : MemoryOk s) (hm : ∀ e ∈ m, CoreOk e.2) : MemoryOk { s with cores := m } := by
  obtain ⟨hhbm, hhost, hpeer, -, hclus, hparts⟩ := h
  exact ⟨hhbm, hhost, hpeer, hm, hclus, hparts⟩
protected theorem MemoryOk.clusters {m} (h : MemoryOk s) (hm : ∀ e ∈ m, ClusterOk e.2) :
    MemoryOk { s with clusters := m } := by
  obtain ⟨hhbm, hhost, hpeer, hcores, -, hparts⟩ := h
  exact ⟨hhbm, hhost, hpeer, hcores, hm, hparts⟩
protected theorem MemoryOk.parts {m} (h : MemoryOk s) (hm : ∀ e ∈ m, PartOk e.2) : MemoryOk { s with parts := m } := by
  obtain ⟨hhbm, hhost, hpeer, hcores, hclus, -⟩ := h
  exact ⟨hhbm, hhost, hpeer, hcores, hclus, hm⟩
protected theorem MemoryOk.hbm {m} (h : MemoryOk s) (hm : Memory.wf m = true) : MemoryOk { s with hbm := m } :=
  ⟨hm, h.2⟩
protected theorem MemoryOk.hostMem {m} (h : MemoryOk s) (hm : Memory.wf m = true) : MemoryOk { s with hostMem := m } :=
  ⟨h.wf_hbm, hm, h.2.2⟩
protected theorem MemoryOk.peerMem {m} (h : MemoryOk s) (hm : Memory.wf m = true) : MemoryOk { s with peerMem := m } :=
  ⟨h.wf_hbm, h.wf_hostMem, hm, h.2.2.2⟩

protected theorem MemoryOk.setCore {n c} (h : MemoryOk s) (hc : CoreOk c) : MemoryOk (setCore s n c) :=
  h.cores (fset_all (P := CoreOk) hc h.cores_ok)
/-- Whatever a step writes into the fields of the package that hold no byte memory. -/
protected theorem MemoryOk.other {cycle schedule core ctx latch tail free turn slices dies accesses accessId copyId reqs msgs
    hbmKeys frames wsMeta retries peerOut peerWait peerFull xmss exchanges sessions spdm measured linkDown lifetime flash reads
    poisonLog refusedWb} (h : MemoryOk s) :
    MemoryOk ⟨cycle, schedule, core, ctx, latch, tail, free, turn, s.cores, s.clusters, slices, dies, s.parts, accesses,
      accessId, copyId, reqs, msgs, s.hbm, hbmKeys, frames, wsMeta, retries, s.hostMem, s.peerMem, peerOut, peerWait, peerFull,
      xmss, exchanges, sessions, spdm, measured, linkDown, lifetime, flash, reads, poisonLog, refusedWb⟩ := h

/-! ### Updates of one core, cluster or partition

The rules named `…With` are for updates that may write its memory. -/

protected theorem MemoryOk.modCoreWith {n f} (h : MemoryOk s) (hf : ∀ c, CoreOk c → CoreOk (f c)) :
    MemoryOk (modCore s n f) := h.setCore (hf _ h.coreAt)
protected theorem MemoryOk.modCluWith {n f} (h : MemoryOk s) (hf : ∀ c, ClusterOk c → ClusterOk (f c)) :
    MemoryOk (modClu s n f) := h.clusters (fset_all (P := ClusterOk) (hf _ h.cluAt) h.clusters_ok)
protected theorem MemoryOk.modPartWith {n f} (h : MemoryOk s) (hf : ∀ q, PartOk q → PartOk (f q)) :
    MemoryOk (modPart s n f) := h.parts (fset_all (P := PartOk) (hf _ h.partAt) h.parts_ok)
/-- Whatever a step writes into the fields of a core other than its TCM. -/
protected theorem MemoryOk.modCore {n
    part ctxs xb bodytab tbudget gslots trapvec upcvec htable inbound seq upcalls preempt sched rotors l1 sig fetched
    bodies takePtr inflight seen dctl dstat bp wpa wpc trctl halted haltAt counters} (h : MemoryOk s) :
    MemoryOk (setCore s n ⟨
      part, ctxs, (coreAt s n).tcm, xb, bodytab, tbudget, gslots, trapvec, upcvec, htable, inbound, seq, upcalls,
      preempt, sched, rotors, l1, sig, fetched, bodies, takePtr, inflight, seen, dctl, dstat, bp, wpa, wpc, trctl,
      halted, haltAt, counters⟩) :=
  h.setCore h.coreAt
/-- Whatever a step writes into the fields of a cluster other than its scratchpad. -/
protected theorem MemoryOk.modClu {n
    banks sems regions copies starts latch btile tiles fifoA fifoB cmds holder remain last arb belays chosen pcfg
    npreds recfg pbuf npq} (h : MemoryOk s) :
    MemoryOk { s with clusters := fset s.clusters n ⟨
      (cluAt s n).spm, banks, sems, regions, copies, starts, latch, btile, tiles, fifoA, fifoB, cmds, holder, remain,
      last, arb, belays, chosen, pcfg, npreds, recfg, pbuf, npq⟩ } := by
  refine h.clusters (fset_all (P := ClusterOk) ?_ h.clusters_ok)
  exact h.cluAt (n := n)
/-- Whatever a step writes into the fields of a partition other than its image. -/
protected theorem MemoryOk.modPart {n
    live clusters slices granted ceiling ptroot walkcfg hkey memKey bodytab sampcfg sampRef sampCount sampLost sampAt
    groups launchQ launchAcc launchGo loadQ loadGo loadStat loading stopHead stopLog msix tdi tenantKey policy
    policyDig policySeq dumpKey dumpCount dumpDue dumps aer answers cut transit winQ winRec ptypes} (h : MemoryOk s) :
    MemoryOk { s with parts := fset s.parts n ⟨
      live, clusters, slices, granted, ceiling, ptroot, walkcfg, hkey, memKey, bodytab, sampcfg, sampRef, sampCount,
      sampLost, sampAt, groups, launchQ, launchAcc, launchGo, loadQ, loadGo, loadStat, loading, stopHead, stopLog,
      msix, tdi, tenantKey, policy, policyDig, policySeq, dumpKey, dumpCount, dumpDue, dumps, aer, answers, cut,
      (partAt s n).image, transit, winQ, winRec, ptypes⟩ } := by
  refine h.parts (fset_all (P := PartOk) ?_ h.parts_ok)
  exact h.partAt (n := n)
protected theorem MemoryOk.modCtx {n k f} (h : MemoryOk s) : MemoryOk (modCtx s n k f) := h.modCore
protected theorem MemoryOk.modCur {f} (h : MemoryOk s) : MemoryOk (modCur s f) := h.modCtx
protected theorem MemoryOk.modSlice {n f} (h : MemoryOk s) : MemoryOk (modSlice s n f) := h
protected theorem MemoryOk.modSP {n p f} (h : MemoryOk s) : MemoryOk (modSP s n p f) := h
protected theorem MemoryOk.modDie {n f} (h : MemoryOk s) : MemoryOk (modDie s n f) := h
protected theorem MemoryOk.freeBit (h : MemoryOk s) : MemoryOk (freeBit s).2 := h
protected theorem MemoryOk.freeDword (h : MemoryOk s) : MemoryOk (freeDword s).2 := h

protected theorem MemoryOk.ite {c : Prop} {_ : Decidable c} (h : MemoryOk s) (ht : MemoryOk t) :
    MemoryOk (if c then s else t) := ite_keeps h ht
protected theorem MemoryOk.foldl {α : Type} {f : State → α → State} {l : List α} (h : MemoryOk s)
    (hf : ∀ s a, MemoryOk s → MemoryOk (f s a)) : MemoryOk (l.foldl f s) := foldl_keeps hf h
theorem MemoryOk.ofFst {α : Type} {p : State × α} {a : α} (h : MemoryOk p.1) (e : p = (t, a)) : MemoryOk t := by
  subst e
  exact h
theorem MemoryOk.ofSnd {α : Type} {p : α × State} {a : α} (h : MemoryOk p.2) (e : p = (a, t)) : MemoryOk t := by
  subst e
  exact h

/-! ### Home queues -/

protected theorem MemoryOk.enqueueInbound {n b} (h : MemoryOk s) : MemoryOk (enqueueInbound s n b) := h.modCore
protected theorem MemoryOk.requeue {n k r} (h : MemoryOk s) : MemoryOk (requeue s n k r) := h.modCore
protected theorem MemoryOk.unhold {n k} (h : MemoryOk s) : MemoryOk (unhold s n k) := h.modCore
protected theorem MemoryOk.applyMsg {m} (h : MemoryOk s) : MemoryOk (applyMsg s m) := by
  unfold applyMsg
  split
  · exact h.modSP
  · exact h.modSP
  · exact h.enqueueInbound
  · exact .ite h.enqueueInbound h.enqueueInbound.other
protected theorem MemoryOk.applyNoted {m} (h : MemoryOk s) : MemoryOk (applyNoted s m) := by
  unfold applyNoted
  split
  · exact h.applyMsg.modSP
  · exact h.applyMsg.modSP
  · exact h.applyMsg
protected theorem MemoryOk.receive {m} (h : MemoryOk s) : MemoryOk (receive s m) := by
  unfold receive
  split
  · exact h.applyMsg
  · exact .ite h.modPart (.ite h.modPart h.applyMsg)

/-! ### Lines, signatures and buffers -/

protected theorem MemoryOk.setHome {k l} (h : MemoryOk s) : MemoryOk (setHome s k l) := h.modSlice
protected theorem MemoryOk.modHome {k f} (h : MemoryOk s) : MemoryOk (modHome s k f) := by
  unfold modHome
  split
  · exact h.setHome
  · exact h
protected theorem MemoryOk.putHome {k off n v} (h : MemoryOk s) : MemoryOk (putHome s k off n v) := by
  unfold putHome
  split
  · exact h
  · exact .ite (h.peerMem (wf_writeBytes _ _ _ h.wf_peerMem)) h.setHome
protected theorem MemoryOk.mergeHome {k d m} (h : MemoryOk s) : MemoryOk (mergeHome s k d m) :=
  h.foldl fun _ _ h => .ite h.putHome h
protected theorem MemoryOk.setL1 {n k l} (h : MemoryOk s) : MemoryOk (setL1 s n k l) := h.modCore
protected theorem MemoryOk.delL1 {n k} (h : MemoryOk s) : MemoryOk (delL1 s n k) := h.modCore
protected theorem MemoryOk.bump {n i} (h : MemoryOk s) : MemoryOk (bump s n i) := h.modCore
protected theorem MemoryOk.cleanL1 {n k} (h : MemoryOk s) : MemoryOk (cleanL1 s n k) := by
  unfold cleanL1
  split
  · exact h
  · exact .ite h h.mergeHome.setL1
protected theorem MemoryOk.dropL1 {n k} (h : MemoryOk s) : MemoryOk (dropL1 s n k) := by
  unfold dropL1
  split
  · exact h
  · refine .delL1 ?_
    split
    · exact h.cleanL1.modHome.bump
    · exact h.cleanL1.modHome
protected theorem MemoryOk.roomL1 {n k} (h : MemoryOk s) : MemoryOk (roomL1 s n k) := by
  refine .ite h (.ite h ?_)
  dsimp only [freeDword]
  split
  · exact .dropL1 h
  · exact h
protected theorem MemoryOk.putL1 {n k l} (h : MemoryOk s) : MemoryOk (putL1 s n k l) := h.roomL1.setL1
protected theorem MemoryOk.dropWhere {n p} (h : MemoryOk s) : MemoryOk (dropWhere s n p) :=
  h.foldl fun _ _ h => .ite h.dropL1 h
protected theorem MemoryOk.cleanWhere {n p} (h : MemoryOk s) : MemoryOk (cleanWhere s n p) :=
  h.foldl fun _ _ h => .ite h.cleanL1 h
protected theorem MemoryOk.recallAll {k} (h : MemoryOk s) : MemoryOk (recallAll s k) := h.foldl fun _ _ h => h.dropL1
protected theorem MemoryOk.acquireRange {n lo hi} (h : MemoryOk s) : MemoryOk (acquireRange s n lo hi) := h.dropWhere
protected theorem MemoryOk.acquireAll {n} (h : MemoryOk s) : MemoryOk (acquireAll s n) := h.dropWhere
protected theorem MemoryOk.releaseAll {n} (h : MemoryOk s) : MemoryOk (releaseAll s n) := h.cleanWhere
protected theorem MemoryOk.sigRead {k n sc} (h : MemoryOk s) : MemoryOk (sigRead s k n sc).2 := by
  unfold sigRead
  split
  · dsimp only
    split
    · exact h
    · exact h.freeBit
  · exact h
protected theorem MemoryOk.sigRelease {k n sc g} (h : MemoryOk s) : MemoryOk (sigRelease s k n sc g) := by
  unfold sigRelease
  dsimp only
  split
  · exact h.modSlice
  · exact h.modSlice.modSP
protected theorem MemoryOk.sigClear {k} (h : MemoryOk s) : MemoryOk (sigClear s k) := .ite h.modSlice h.modSP
protected theorem MemoryOk.acquireSig {n g} (h : MemoryOk s) : MemoryOk (acquireSig s n g) := h.dropWhere
protected theorem MemoryOk.noteDirty {n k} (h : MemoryOk s) : MemoryOk (noteDirty s n k) := h.modCore
protected theorem MemoryOk.setFrame {pa f} (h : MemoryOk s) : MemoryOk (setFrame s pa f) := h
protected theorem MemoryOk.evictHome {k} (h : MemoryOk s) : MemoryOk (evictHome s k) := by
  unfold evictHome
  split
  · exact h
  · extract_lets s1 s2 s3
    have h1 : MemoryOk s1 := by
      dsimp only [s1]
      split
      · exact h.bump
      · exact h
    have h2 : MemoryOk s2 := by
      dsimp only [s2]
      split
      · exact h1.bump
      · exact h1
    have h3 : MemoryOk s3 := .ite h2 (.ite h2.other (h2.hbm (wf_writeBytes _ _ _ h2.wf_hbm)))
    exact .modSlice (.ite (.ite (.setFrame h3.other) h3.other) h3)

/-! ### Fills -/

/-- The state of a fill that succeeds keeps its memories in canonical form. -/
def FillOk : Fill → Prop
  | .ok s => MemoryOk s
  | .refuse _ | .retry _ | .busy => True
theorem FillOk.ok {f : Fill} (hf : FillOk f) (e : f = .ok t) : MemoryOk t := by
  subst e
  exact hf
protected theorem MemoryOk.evictAt {n k} (h : MemoryOk s) : MemoryOk (evictAt s n k) := .ite h.recallAll.evictHome h.modSlice
protected theorem MemoryOk.makeRoom {n k} (h : MemoryOk s) (e : makeRoom s n k = some t) : MemoryOk t := by
  unfold makeRoom at e
  dsimp only [freeDword] at e
  split at e
  · cases e
    exact h
  split at e
  · cases e
    exact h
  split at e
  · cases e
    exact .evictAt h
  · cases e
protected theorem MemoryOk.fillHome {k pa w ct} (h : MemoryOk s) : FillOk (fillHome s k pa w ct) := by
  unfold fillHome
  split
  · exact h
  split
  · trivial
  split
  · trivial
  split
  · trivial
  split
  · trivial
  next heq =>
    have ht := h.makeRoom heq
    split
    · exact ht.setHome
    · exact .setHome (.ite ht.setFrame ht)
protected theorem MemoryOk.gatherHome {k} (h : MemoryOk s) : MemoryOk (gatherHome s k) := h.recallAll
protected theorem MemoryOk.gatherCore {n k} (h : MemoryOk s) : MemoryOk (gatherCore s n k) := by
  unfold gatherCore
  dsimp only
  split
  · exact h.recallAll
  · exact h.recallAll.setHome.putL1
protected theorem MemoryOk.gatherRead {n k} (h : MemoryOk s) : MemoryOk (gatherRead s n k) := by
  unfold gatherRead
  split
  · split
    · exact h
    · exact .ite h.setL1.putL1 h.delL1.putL1
  · split
    · exact h
    · exact h.setHome.putL1
protected theorem MemoryOk.gatherToken {k} (h : MemoryOk s) : MemoryOk (gatherToken s k) := by
  unfold gatherToken
  split
  · exact h
  split
  · exact h
  · exact .ite h.setL1.modHome h.dropL1
protected theorem MemoryOk.drainHost {n p} (h : MemoryOk s) : MemoryOk (drainHost s n p) :=
  .modSlice (h.hostMem
    (foldl_keeps (P := fun m => Memory.wf m = true) (fun _ (e : HostByte) => wf_bput e.addr e.byte) h.wf_hostMem))
protected theorem MemoryOk.hostStore {n p a w v} (h : MemoryOk s) : MemoryOk (hostStore s n p a w v) :=
  .modSlice (.ite h.drainHost h)
protected theorem MemoryOk.hostLoad {n a w} (h : MemoryOk s) : MemoryOk (hostLoad s n a w).1 := h.drainHost

/-! ## Translation -/

/-! ### Translation -/

protected theorem MemoryOk.freeRecs {p} (h : MemoryOk s) : MemoryOk (freeRecs s p) := h
protected theorem MemoryOk.hideFaults {p} (h : MemoryOk s) : MemoryOk (hideFaults s p) := h
protected theorem MemoryOk.dropFaults {p lo hi} (h : MemoryOk s) : MemoryOk (dropFaults s p lo hi) := h.hideFaults.freeRecs
protected theorem MemoryOk.noteType {p wva e} (h : MemoryOk s) : MemoryOk (noteType s p wva e) := .ite h.modPart h
protected theorem MemoryOk.noteTypes {p line} (h : MemoryOk s) : MemoryOk (noteTypes s p line) :=
  .ite (h.foldl fun _ _ h => h.noteType) h
protected theorem MemoryOk.fireMonitor {p line} (h : MemoryOk s) : MemoryOk (fireMonitor s p line) :=
  .ite (.other (.freeRecs (.hideFaults (.modSlice h.noteTypes)))) h.noteTypes
protected theorem MemoryOk.armMonitor {p line} (h : MemoryOk s) : MemoryOk (armMonitor s p line) := h.modSlice
protected theorem MemoryOk.fillWindow {p va} (h : MemoryOk s) : FillOk (fillWindow s p va) := by
  unfold fillWindow
  dsimp only
  split
  · trivial
  have hf : FillOk (fillHome s (lineKey p va) (windowPa (partAt s p) + va % 2 ^ 30 / 64 * 64) true ctSC) := h.fillHome
  split
  next heq => exact (hf.ok heq).gatherToken
  · exact hf
protected theorem MemoryOk.putWindow {p va v} (h : MemoryOk s) : MemoryOk (putWindow s p va v) :=
  h.gatherHome.putHome.fireMonitor
protected theorem MemoryOk.tlbEnter {n u} (h : MemoryOk s) : MemoryOk (tlbEnter s n u) := h.modSlice
protected theorem MemoryOk.setWalkList {n p l} (h : MemoryOk s) : MemoryOk (setWalkList s n p l) := .ite h.modDie h.modSlice
protected theorem MemoryOk.walkEnter {n e} (h : MemoryOk s) : MemoryOk (walkEnter s n e) := h.setWalkList

/-- However a translation ends, the state that it leaves keeps its memories in canonical form. -/
def TransOk : Trans → Prop
  | .ok s _ | .refuse s _ _ | .park s _ _ _ | .retry s _ _ | .busy s _ | .needWalk s => MemoryOk s
theorem TransOk.of_eq {r r' : Trans} (h : TransOk r) (e : r = r') : TransOk r' := e ▸ h
protected theorem TransOk.ite {c : Prop} {_ : Decidable c} {r r' : Trans} (h : TransOk r) (h' : TransOk r') :
    TransOk (if c then r else r') := ite_keeps h h'

protected theorem MemoryOk.walkFrom {n p va w host fuel lvl table} (h : MemoryOk s) :
    TransOk (walkFrom n p va w host fuel s lvl table) := by
  induction fuel generalizing s lvl table with
  | zero => exact h
  | succ fuel ih =>
    unfold walkFrom
    extract_lets
    split
    · exact h
    · exact h
    · exact h
    · next heq =>
      have hf := h.fillWindow.ok heq
      exact .ite hf (.ite hf.armMonitor (.ite hf (.ite (.ite hf (ih hf.walkEnter)) (.ite hf.armMonitor
        (.ite hf (.ite (.ite hf hf.armMonitor) (.ite hf (.ite hf.armMonitor
          (.tlbEnter (.noteType (.ite hf.putWindow hf)))))))))))
protected theorem MemoryOk.walk {n p va w host goOn} (h : MemoryOk s) : TransOk (walk s n p va w host goOn) := by
  unfold walk
  split
  · exact h.walkFrom
  split
  · exact h.walkEnter.walkFrom
  · exact h.walkFrom
protected theorem MemoryOk.firstWrite {n p u} (h : MemoryOk s) : TransOk (firstWrite s n p u) := by
  unfold firstWrite
  split
  · exact h
  · exact h
  · exact h
  · next heq =>
    have hf := h.fillWindow.ok heq
    exact .ite hf (.ite hf.armMonitor hf.putWindow.tlbEnter)
protected theorem MemoryOk.translate {n p va w host} (h : MemoryOk s) : TransOk (translate s n p va w host) := by
  unfold translate
  extract_lets
  refine .ite h ?_
  split
  · exact .ite (.ite h h) (.ite h (.ite h.firstWrite h.tlbEnter))
  · split
    · exact h
    · exact h
protected theorem MemoryOk.offerFault {die p base size w} (h : MemoryOk s) : MemoryOk (offerFault s die p base size w).1 := by
  unfold offerFault
  dsimp only
  split
  · exact h
  split
  · exact h.modDie
  · exact h.modDie
protected theorem MemoryOk.queueUpcall {n u} (h : MemoryOk s) : MemoryOk (queueUpcall s n u) := .ite h.modCore h
protected theorem MemoryOk.parkAccess {a line cause lvl w p} (h : MemoryOk s) :
    MemoryOk (parkAccess s a line cause lvl w p).1 := by
  unfold parkAccess
  extract_lets _ _ _ _ s1
  have h1 : MemoryOk s1 := .ite h.tlbEnter h
  dsimp only
  split
  · refine .queueUpcall ?_
    split
    · exact h1.offerFault
    · exact h1
  · exact h1

/-! ### One part of an access -/

/-- However the attempt to perform a part ends, the state that it leaves keeps its memories in canonical form. -/
def PResOk : PRes → Prop
  | .done s _ _ | .stall s _ | .park s _ _ _ _ | .refuse s _ _ | .refuseVal s _ _ _ => MemoryOk s
theorem PResOk.of_eq {r r' : PRes} (h : PResOk r) (e : r = r') : PResOk r' := e ▸ h
protected theorem PResOk.ite {c : Prop} {_ : Decidable c} {r r' : PRes} (h : PResOk r) (h' : PResOk r') :
    PResOk (if c then r else r') := ite_keeps h h'
/-- The same for a part that has its translation, or has none. -/
def LocOk : Loc → Prop
  | .ok s _ _ => MemoryOk s
  | .no r => PResOk r
theorem LocOk.of_eq {r r' : Loc} (h : LocOk r) (e : r = r') : LocOk r' := e ▸ h
protected theorem LocOk.ite {c : Prop} {_ : Decidable c} {r r' : Loc} (h : LocOk r) (h' : LocOk r') :
    LocOk (if c then r else r') := ite_keeps h h'

protected theorem MemoryOk.locate {g a va w} (h : MemoryOk s) : LocOk (locate s g a va w) := by
  unfold locate
  refine .ite h ?_
  split
  · exact .ite h h
  extract_lets moving home near dupNear refusal walked r
  split
  · exact h.armMonitor
  have hr : TransOk r.1 := by
    dsimp only [r]
    split
    · next s1 heq =>
      have h1 : MemoryOk s1 := h.translate.of_eq heq
      exact ite_keeps h1.walk h1
    · exact h.translate
  clear_value dupNear
  split
  · split
    · exact h
    · exact h.tlbEnter
  split
  · next heq => exact hr.of_eq heq
  · next heq => exact hr.of_eq heq
  · next heq => exact hr.of_eq heq
  · next heq => exact hr.of_eq heq
  · next heq => exact hr.of_eq heq
  · next s1 u heq =>
    have h1 : MemoryOk s1 := hr.of_eq heq
    extract_lets s2
    have h2 : MemoryOk s2 := .ite h1.tlbEnter h1
    split
    · exact h2
    · exact .ite h2 h2

/-! ## The parts of an access -/

protected theorem MemoryOk.wakeWord {k} (h : MemoryOk s) : MemoryOk (wakeWord s k) := h.other
protected theorem MemoryOk.setWsFull {n k u va b} (h : MemoryOk s) : MemoryOk (setWsFull s n k u va b) :=
  .ite h.modSlice (.ite h.other h.modHome)
protected theorem MemoryOk.writeL1 {n k off w v} (h : MemoryOk s) : MemoryOk (writeL1 s n k off w v) := by
  unfold writeL1
  split
  · exact h
  · extract_lets s1 s2
    have h2 : MemoryOk s2 := .setL1 (.ite h.noteDirty h)
    exact .ite h2.fireMonitor h2
protected theorem MemoryOk.installL1 {n k l w} (h : MemoryOk s) : MemoryOk (installL1 s n k l w) := by
  unfold installL1
  split
  · exact h.setL1
  · exact h.putL1
protected theorem MemoryOk.usedL1 {n k l} (h : MemoryOk s) : MemoryOk (usedL1 s n k l) := by
  unfold usedL1
  split
  · exact h.bump.setL1
  · exact h
protected theorem MemoryOk.usedHome {g a k} (h : MemoryOk s) : MemoryOk (usedHome s g a k) := by
  unfold usedHome
  split
  · extract_lets mine s1
    have h1 : MemoryOk s1 := by
      dsimp only [s1]
      split
      · exact h.bump
      · exact h
    exact .ite h (.setHome (.ite h1.bump h1))
  · exact h
protected theorem MemoryOk.lateL1 {n k} (h : MemoryOk s) : MemoryOk (lateL1 s n k) := by
  unfold lateL1
  split
  · exact h.bump.modCore
  · exact h
protected theorem MemoryOk.demandL1 {n k} (h : MemoryOk s) : MemoryOk (demandL1 s n k) := by
  unfold demandL1
  split
  · exact h.usedL1
  · exact h.lateL1
protected theorem MemoryOk.demand {g a k} (h : MemoryOk s) : MemoryOk (demand s g a k) :=
  .ite h (.ite h.demandL1 (.ite h.lateL1 h))
protected theorem MemoryOk.lateEngine {line} (h : MemoryOk s) : MemoryOk (lateEngine s line) := by
  unfold lateEngine
  split
  · exact h.bump
  · exact h
protected theorem MemoryOk.filled {g a n k va u} (h : MemoryOk s) : LocOk (filled s g a n k va u) := by
  unfold filled
  split
  · exact h
  · exact MemoryOk.ite h.lateEngine h
  · exact h
  · next heq => exact h.usedHome.fillHome.ok heq
protected theorem MemoryOk.withLine {g a k va u f} (h : MemoryOk s) (hf : ∀ s l, MemoryOk s → PResOk (f s l)) :
    PResOk (withLine s g a k va u f) := by
  unfold withLine
  split
  · next heq => exact h.filled.of_eq heq
  · next s1 _ _ heq =>
    have h1 : MemoryOk s1 := h.filled.of_eq heq
    split
    · exact hf _ _ h1
    · exact h1
protected theorem MemoryOk.tokenRead {g k off w} (h : MemoryOk s) : PResOk (tokenRead s g k off w) :=
  .ite (MemoryOk.ite h.gatherHome h.gatherToken) h
protected theorem MemoryOk.dupRead {a n k va w u} (h : MemoryOk s) : PResOk (dupRead s a n k va w u) := by
  unfold dupRead
  extract_lets pa keep data
  have hkeep (s d) (h : MemoryOk s) : PResOk (keep s d) := MemoryOk.ite h.putL1 h
  split
  · exact hkeep _ _ h
  refine .ite h (.ite h ?_)
  split
  · exact h
  · next heq => exact hkeep _ _ (h.makeRoom heq).modSlice
protected theorem MemoryOk.performRead {g a va w nw acq} (h : MemoryOk s) : PResOk (performRead s g a va w nw acq) := by
  unfold performRead
  extract_lets k off hit s1
  have h1 : MemoryOk s1 := h.demand
  clear_value hit
  split
  · exact .ite h h.demand
  split
  · next heq => exact h1.locate.of_eq heq
  · next s2 n u heq =>
    have h2 : MemoryOk s2 := h1.locate.of_eq heq
    refine .ite h2.dupRead (.ite (.ite (.ite h2 h2) h2.hostLoad) (.ite h2 (h2.withLine fun s l h => ?_)))
    split
    · exact .ite h (.ite (.ite (.gatherRead (.ite h.recallAll h)) h) h.tokenRead)
    · refine .ite ?_ h
      extract_lets s3
      change MemoryOk s3
      dsimp only [s3]
      split
      · exact h.setL1
      · exact h.installL1
    · exact .ite (.ite h h) (MemoryOk.ite h.installL1 h)
    · exact h.installL1
protected theorem MemoryOk.writable {g a va w} (h : MemoryOk s) : LocOk (writable s g a va w) := by
  unfold writable
  split
  · next heq => exact h.locate.of_eq heq
  · next s1 n u heq =>
    have h1 : MemoryOk s1 := h.locate.of_eq heq
    refine .ite h1 (.ite h1 (.ite (.ite h1 (.ite h1 (.ite h1 h1))) (.ite h1 ?_)))
    split
    · next heq => exact h1.filled.of_eq heq
    · next s2 _ _ heq =>
      have h2 : MemoryOk s2 := h1.filled.of_eq heq
      exact .ite h2 (.ite h2 (.ite (MemoryOk.ite h2.gatherCore h2.gatherHome) h2))
protected theorem MemoryOk.performWrite {g a va w v home} (h : MemoryOk s) : PResOk (performWrite s g a va w v home) := by
  unfold performWrite
  extract_lets k off hit inL1
  clear_value hit
  split
  · exact .ite h h.demand.writeL1
  split
  · next heq => exact h.demand.writable.of_eq heq
  · next s1 n u heq =>
    have h1 : MemoryOk s1 := h.demand.writable.of_eq heq
    extract_lets fills s2
    have hfills (s) (h : MemoryOk s) : MemoryOk (fills s) := h.setWsFull.wakeWord
    have hinL1 (s) (h : MemoryOk s) : MemoryOk (inL1 s) := by
      dsimp only [inL1]
      split
      · exact h.installL1.writeL1
      · exact h
    refine .ite (MemoryOk.ite (hfills _ h1.hostStore) h1.hostStore) ?_
    split
    · exact .ite h1.writeL1 h1.putHome.fireMonitor
    · exact .ite (hinL1 _ h1) (MemoryOk.putHome (.ite h1.dropL1 h1))
    · exact hfills _ h1.putHome
    · exact hinL1 _ h1
protected theorem MemoryOk.keepSig {a} (h : MemoryOk s) : MemoryOk (keepSig s a) := .ite h h.modCore
protected theorem MemoryOk.sendSig {a va sc ct} (h : MemoryOk s) : MemoryOk (sendSig s a va sc ct) :=
  .ite (.ite h.keepSig h.sigRelease) h
protected theorem MemoryOk.takeSig {a va sc ct} (h : MemoryOk s) : MemoryOk (takeSig s a va sc ct) :=
  .ite h.sigRead.acquireSig h
protected theorem MemoryOk.performRel {g a va v sc} (h : MemoryOk s) : PResOk (performRel s g a va v sc) := by
  unfold performRel
  split
  · next s1 _ _ heq =>
    have h1 : MemoryOk s1 := h.performWrite.of_eq heq
    exact h1.sendSig
  · exact h.performWrite
protected theorem MemoryOk.performAcq {g a va sc} (h : MemoryOk s) : PResOk (performAcq s g a va sc) := by
  unfold performAcq
  split
  · next s1 _ _ heq =>
    have h1 : MemoryOk s1 := h.performRead.of_eq heq
    exact h1.takeSig
  · exact h.performRead
protected theorem MemoryOk.readTemplate {g a n va u} (h : MemoryOk s) : PResOk (readTemplate s g a n va u) :=
  .ite h.hostLoad (h.withLine fun _ _ h => .ite h.tokenRead h)
protected theorem MemoryOk.place {g a n va u old ct} (h : MemoryOk s) : PResOk (place s g a n va u old ct) := by
  unfold place
  have hr := h.readTemplate (g := g) (a := a) (n := n) (va := va + 64) (u := u)
  split
  · next s1 w _ heq =>
    have h1 : MemoryOk s1 := hr.of_eq heq
    exact .ite h1 h1.other
  · next s1 _ _ heq =>
    have h1 : MemoryOk s1 := hr.of_eq heq
    exact h1
  · next s1 _ _ _ heq =>
    have h1 : MemoryOk s1 := hr.of_eq heq
    exact h1
  · exact hr
protected theorem MemoryOk.performAmo {g a fs va op sc b c} (h : MemoryOk s) : PResOk (performAmo s g a fs va op sc b c) := by
  unfold performAmo
  extract_lets k off
  split
  · next heq => exact h.demand.locate.of_eq heq
  · next s1 n u heq =>
    have h1 : MemoryOk s1 := h.demand.locate.of_eq heq
    extract_lets whole sync
    have hsync (s old) (h : MemoryOk s) : PResOk (sync s old) := by
      have h2 : MemoryOk (sendSig (takeSig s a va sc u.ct) a va sc u.ct) := h.takeSig.sendSig
      refine .ite ?_ h2
      split
      · exact h1
      · exact h2.place
    refine .ite h1 (.ite h1 (.ite (hsync _ _ (.ite h1.hostLoad h1.hostLoad.hostStore)) (h1.withLine fun s l h => .ite ?_ ?_)))
    · extract_lets s2
      have h2 : MemoryOk s2 := h.installL1
      split
      · exact h2
      · exact .keepSig (.ite h2 h2.writeL1)
    · extract_lets ready s2 old new s3 s4
      have h2 : MemoryOk s2 := .ite h.gatherHome (.ite h.dropL1 h)
      exact .ite h (.ite h (hsync _ _ (.ite h2 (.ite h2.putHome.fireMonitor h2.putHome))))
protected theorem MemoryOk.clearLine {n k u va m} (h : MemoryOk s) : MemoryOk (clearLine s n k u va m) :=
  .ite (.ite h.recallAll.setWsFull h.recallAll.setWsFull.setFrame) (.setFrame h.recallAll.other)
protected theorem MemoryOk.clearLines {a n u va w} (h : MemoryOk s) : MemoryOk (clearLines s a n u va w) := by
  induction w with
  | zero => exact h
  | succ w ih => exact ih.clearLine
protected theorem MemoryOk.performClear {g a va w} (h : MemoryOk s) : PResOk (performClear s g a va w) := by
  unfold performClear
  split
  · next heq => exact h.locate.of_eq heq
  · next s1 n u heq =>
    have h1 : MemoryOk s1 := h.locate.of_eq heq
    exact .ite h1 (.ite h1 (.ite h1 h1.clearLines))
protected theorem MemoryOk.claimLine {g a id va} (h : MemoryOk s) : PResOk (claimLine s g a id va) := by
  unfold claimLine
  split
  · next heq => exact h.locate.of_eq heq
  · next s1 n u heq =>
    have h1 : MemoryOk s1 := h.locate.of_eq heq
    refine .ite h1 (.ite h1 (h1.withLine fun s l h => ?_))
    split
    · exact .ite h h
    · exact .ite h (.ite h (MemoryOk.modHome (.ite h.gatherHome (.ite h.dropL1 h))))
protected theorem MemoryOk.engineFill {c k va u} (h : MemoryOk s) : FillOk (engineFill s c k va u) := by
  unfold engineFill
  have hf := h.fillHome (k := k) (pa := leafPa u 0 va / 64 * 64) (w := u.w) (ct := u.ct)
  extract_lets new
  split
  · next heq => exact ite_keeps (P := FillOk) (hf.ok heq).bump.modHome (hf.ok heq)
  · exact hf
protected theorem MemoryOk.copyRead {g a c va w} (h : MemoryOk s) : PResOk (copyRead s g a c va w) := by
  unfold copyRead
  extract_lets k off
  split
  · exact h
  split
  · next heq => exact h.locate.of_eq heq
  · next s1 n u heq =>
    have h1 : MemoryOk s1 := h.locate.of_eq heq
    refine .ite h1.dupRead (.ite (.ite h1 h1.hostLoad) ?_)
    split
    · exact h1
    · exact h1
    · exact h1
    · next s2 heq =>
      have h2 := h1.engineFill.ok heq
      refine .ite h2 ?_
      split
      · exact h2.tokenRead
      · exact h2
      · exact h2

/-! ## Accesses, contexts and streams -/

protected theorem MemoryOk.mapCores {f : Nat × Core → Nat × Core} (h : MemoryOk s)
    (hf : ∀ e, CoreOk e.2 → CoreOk (f e).2) :
    MemoryOk { s with cores := s.cores.map f } :=
  h.cores (List.forall_mem_map.mpr fun e he => hf e (h.cores_ok e he))
protected theorem MemoryOk.mapClusters {f : Nat × Cluster → Nat × Cluster} (h : MemoryOk s)
    (hf : ∀ e, ClusterOk e.2 → ClusterOk (f e).2) : MemoryOk { s with clusters := s.clusters.map f } :=
  h.clusters (List.forall_mem_map.mpr fun e he => hf e (h.clusters_ok e he))
protected theorem MemoryOk.mapParts {f : Nat × Partition → Nat × Partition} (h : MemoryOk s)
    (hf : ∀ e, PartOk e.2 → PartOk (f e).2) : MemoryOk { s with parts := s.parts.map f } :=
  h.parts (List.forall_mem_map.mpr fun e he => hf e (h.parts_ok e he))

protected theorem MemoryOk.noteGot {id va w v} (h : MemoryOk s) : MemoryOk (noteGot s id va w v) :=
  h.mapClusters fun _ hc => hc
protected theorem MemoryOk.performEngine {g a id p} (h : MemoryOk s) : PResOk (performEngine s g a id p) := by
  refine .ite h.claimLine ?_
  split
  · exact h
  split
  · next s1 _ _ heq =>
    have h1 : MemoryOk s1 := h.copyRead.of_eq heq
    exact h1.noteGot
  · exact h.copyRead
protected theorem MemoryOk.drainAll (h : MemoryOk s) : MemoryOk (drainAll s) := h.foldl fun _ _ h => h.drainHost
protected theorem MemoryOk.performPubl {g a va v} (h : MemoryOk s) : PResOk (performPubl s g a va v) := by
  unfold performPubl
  split
  · next heq => exact h.locate.of_eq heq
  · next s1 _ _ heq =>
    have h1 : MemoryOk s1 := h.locate.of_eq heq
    refine .ite h1 (.ite h1 ?_)
    split
    · next s2 _ _ heq =>
      have h2 : MemoryOk s2 := h1.performWrite.of_eq heq
      exact h2.drainAll
    · exact h1.performWrite
protected theorem MemoryOk.spmWrite {n off w v} (h : MemoryOk s) : MemoryOk (spmWrite s n off w v) :=
  h.modCluWith fun _ hc => wf_writeBytes off w v hc
protected theorem MemoryOk.sendX {n k r v} (h : MemoryOk s) : MemoryOk (sendX s n k r v) := .ite h h.modCtx
protected theorem MemoryOk.sendLate {n k r v w} (h : MemoryOk s) : MemoryOk (sendLate s n k r v w) := .ite h h.modCtx
protected theorem MemoryOk.sendV {n k r v} (h : MemoryOk s) : MemoryOk (sendV s n k r v) := h.modCtx
protected theorem MemoryOk.performSpm {g a p} (h : MemoryOk s) : PResOk (performSpm s g a p) := .ite h (.ite h.spmWrite h)
protected theorem MemoryOk.performPiece {g a p} (h : MemoryOk s) : PResOk (performPiece s g a p) := by
  refine .ite h.performSpm ?_
  split
  · exact h.performRead
  · exact h.performAcq
  iterate 5 exact h.performWrite
  · exact h.performWrite
  · exact h.performRel
  · exact h.performRead
  iterate 5 exact h.performRead
  · exact h.performAmo
  · exact h.performClear
  · exact h.performPubl
  · exact h.performEngine

/-! ### The life of an access -/

/-- However the parts of an access end, the state that they leave keeps its memories in canonical form. -/
def AResOk : ARes → Prop
  | .fin s _ | .wait s _ | .ref s _ _ _ _ => MemoryOk s
theorem AResOk.of_eq {r r' : ARes} (h : AResOk r) (e : r = r') : AResOk r' := e ▸ h

protected theorem MemoryOk.runPieces {ps g a} (h : MemoryOk s) : AResOk (runPieces ps s g a) := by
  induction ps generalizing s g a with
  | nil => exact h
  | cons p ps ih =>
    unfold runPieces
    extract_lets a1
    refine ite_keeps h ?_
    split
    · next heq => exact ih (h.performPiece.of_eq heq)
    · next s1 _ heq =>
      have h1 : MemoryOk s1 := h.performPiece.of_eq heq
      exact h1
    · next s1 _ _ _ _ heq =>
      have h1 : MemoryOk s1 := h.performPiece.of_eq heq
      exact h1.parkAccess
    · next s1 _ _ heq =>
      have h1 : MemoryOk s1 := h.performPiece.of_eq heq
      exact h1
    · next s1 _ _ _ heq =>
      have h1 : MemoryOk s1 := h.performPiece.of_eq heq
      exact h1
protected theorem MemoryOk.scatterSome {ps a} (h : MemoryOk s) : MemoryOk (scatterSome ps s a) := by
  induction ps generalizing s with
  | nil => exact h
  | cons p ps ih =>
    unfold scatterSome
    refine ih (.ite ?_ h.freeBit)
    split
    · next heq => exact h.freeBit.performPiece.of_eq heq
    · exact h.freeBit
protected theorem MemoryOk.runAll {g a} (h : MemoryOk s) : AResOk (runAll s g a) := by
  unfold runAll
  split
  · next s1 _ _ _ _ heq =>
    have h1 : MemoryOk s1 := h.runPieces.of_eq heq
    split
    · exact h1.scatterSome
    · exact h1
  · exact h.runPieces
protected theorem MemoryOk.keepAccess {a} (h : MemoryOk s) : MemoryOk (keepAccess s a) := h.other
protected theorem MemoryOk.dropAccess {id} (h : MemoryOk s) : MemoryOk (dropAccess s id) := h.other
protected theorem MemoryOk.finishAccess {a} (h : MemoryOk s) : MemoryOk (finishAccess s a) := by
  unfold finishAccess
  split
  · exact h.sendX
  · exact h.sendX
  · exact h.sendX
  · exact h.sendV
  · exact h.sendV
  · exact h.modCore
  · exact h.modCtx
  · exact h.keepAccess
  · exact h.keepAccess
  · exact h.modPart
  all_goals exact h
protected theorem MemoryOk.sendRefusal {n k r} (h : MemoryOk s) : MemoryOk (sendRefusal s n k r) := h.modCtx
protected theorem MemoryOk.addRefusal {a c sub va} (h : MemoryOk s) : MemoryOk (addRefusal s a c sub va) := h.sendRefusal
protected theorem MemoryOk.refuseAccess {a c sub va} (h : MemoryOk s) : MemoryOk (refuseAccess s a c sub va) := by
  unfold refuseAccess
  extract_lets s1 s2
  have h1 : MemoryOk s1 := h.keepSig
  have h2 : MemoryOk s2 := h1.addRefusal
  split
  iterate 5 exact h2.modCtx
  · exact h1.modCtx
  · exact h2.modCtx
  · exact h1.keepAccess
  · exact h1.keepAccess
  · exact h1.modPart
  · exact h1.modPart
  · exact h1.modClu
  all_goals exact h2
protected theorem MemoryOk.runAccess {g a} (h : MemoryOk s) : MemoryOk (runAccess s g a) := by
  have hr := h.dropAccess.runAll (g := resumed g a) (a := a) (s := dropAccess s a.id)
  unfold runAccess
  split
  · next s1 _ heq =>
    have h1 : MemoryOk s1 := hr.of_eq heq
    exact h1.finishAccess
  · next s1 _ heq =>
    have h1 : MemoryOk s1 := hr.of_eq heq
    exact h1.keepAccess
  · next s1 _ _ _ _ heq =>
    have h1 : MemoryOk s1 := hr.of_eq heq
    exact h1.refuseAccess
protected theorem MemoryOk.noteDemand {a} (h : MemoryOk s) : MemoryOk (noteDemand s a) := by
  have hseen (p : Piece) : MemoryOk (modCore s a.core fun c =>
      if c.seen.head? == some (p.va / 64) then c else { c with seen := (p.va / 64 :: c.seen).take 3 }) :=
    h.modCoreWith fun _ hc => ite_keeps (P := CoreOk) hc hc
  unfold noteDemand
  split
  iterate 4 exact .ite (hseen _) h
  exact h
protected theorem MemoryOk.submit {a} (h : MemoryOk s) : MemoryOk (submit s a) := .runAccess h.noteDemand.other
protected theorem MemoryOk.runPart {g a i} (h : MemoryOk s) : MemoryOk (runPart s g a i) := by
  unfold runPart
  split
  · exact h
  · next p _ =>
    extract_lets rest
    refine .ite h ?_
    split
    · next s1 _ heq =>
      have h1 : MemoryOk s1 := h.dropAccess.runPieces.of_eq heq
      exact .ite h1.finishAccess h1.keepAccess
    · next s1 _ heq =>
      have h1 : MemoryOk s1 := h.dropAccess.runPieces.of_eq heq
      exact h1.keepAccess
    · next s1 _ _ _ _ heq =>
      have h1 : MemoryOk s1 := h.dropAccess.runPieces.of_eq heq
      refine .refuseAccess ?_
      split
      · exact h1.scatterSome
      · exact h1
protected theorem MemoryOk.acceptStore {a} (h : MemoryOk s) : MemoryOk (acceptStore s a) := by
  unfold acceptStore
  split
  · split
    · exact h
    · next s1 n u heq =>
      have h1 : MemoryOk s1 := h.locate.of_eq heq
      refine .ite h (.ite h1.dropAccess.keepAccess ?_)
      split
      · next heq => exact (h1.fillHome.ok heq).dropAccess.keepAccess
      · exact h
  · exact h

/-! ### Device accesses and traces -/

/-- Where a write of the device is performed or refused, the state keeps its memories in canonical form. -/
def DevWriteOk : DevWrite → Prop
  | .done s | .refused s => MemoryOk s
  | .late => True
theorem DevWriteOk.of_eq {r r' : DevWrite} (h : DevWriteOk r) (e : r = r') : DevWriteOk r' := e ▸ h

protected theorem MemoryOk.deviceWrite {p va n v} (h : MemoryOk s) : DevWriteOk (deviceWrite s p va n v) := by
  induction n with
  | zero => exact h
  | succ n ih =>
    unfold deviceWrite
    split
    · next s1 heq =>
      have h1 : MemoryOk s1 := ih.of_eq heq
      split
      · next s2 _ _ heq =>
        have h2 : MemoryOk s2 := h1.performWrite.of_eq heq
        exact h2
      · next s2 _ _ heq =>
        have h2 : MemoryOk s2 := h1.performWrite.of_eq heq
        exact h2
      · next s2 _ _ _ heq =>
        have h2 : MemoryOk s2 := h1.performWrite.of_eq heq
        exact h2
      · trivial
    · exact ih
protected theorem MemoryOk.trace {n k kind pc v} (h : MemoryOk s) : MemoryOk (trace s n k kind pc v) := by
  refine .ite h ?_
  split
  · next s1 heq =>
    have h1 : MemoryOk s1 := h.deviceWrite.of_eq heq
    exact h1.modCore
  · exact h.modCore
  · exact h.modCore

/-! ### Contexts -/

protected theorem MemoryOk.endLease {n k} (h : MemoryOk s) : MemoryOk (endLease s n k) := .ite h (.ite h.modClu.modDie h)
protected theorem MemoryOk.refreshInh {p} (h : MemoryOk s) : MemoryOk (refreshInh s p) :=
  h.mapCores fun _ hc => ite_keeps (P := fun x : Nat × Core => CoreOk x.2) hc hc
protected theorem MemoryOk.makeDormant {n k} (h : MemoryOk s) : MemoryOk (makeDormant s n k) :=
  .refreshInh (.unhold (.modCtx (.other h.endLease)))
protected theorem MemoryOk.beginCtx {n k pc cls} (h : MemoryOk s) : MemoryOk (beginCtx s n k pc cls) := h.modCtx
protected theorem MemoryOk.thaw {c} (h : MemoryOk s) : MemoryOk (thaw s c) := by
  unfold thaw
  split
  · split
    · exact h.foldl fun _ _ h => h.modCtx
    · exact h
  · exact h
protected theorem MemoryOk.endRope {n k} (h : MemoryOk s) : MemoryOk (endRope s n k) := by
  unfold endRope
  split
  · exact .modCtx (h.foldl fun _ _ h => h.releaseAll.makeDormant)
  · exact h
protected theorem MemoryOk.leaveRope {n k} (h : MemoryOk s) : MemoryOk (leaveRope s n k) := by
  unfold leaveRope
  split
  · exact h.thaw.modCtx.modCtx
  · exact h.endRope
protected theorem MemoryOk.stopCtx {n k r} (h : MemoryOk s) : MemoryOk (stopCtx s n k r) := h.trace.modPart.modCtx
protected theorem MemoryOk.enterTrap {n k r} (h : MemoryOk s) : MemoryOk (enterTrap s n k r) := by
  unfold enterTrap
  extract_lets c task nsend s0 s1 s2 vec pc s3 s4
  have h1 : MemoryOk s1 := by
    dsimp only [s1]
    split
    · exact h.modCtx.requeue
    · exact h
  have h3 : MemoryOk s3 := h1.endLease.leaveRope.trace.modCtx
  exact .ite h3 h3.modCtx.stopCtx
protected theorem MemoryOk.takeTrapAt {n k r} (h : MemoryOk s) : MemoryOk (takeTrapAt s n k r) :=
  .ite h.endLease.stopCtx (.ite h.modCtx h.enterTrap)
protected theorem MemoryOk.takeTrap {r} (h : MemoryOk s) : MemoryOk (takeTrap s r) := h.takeTrapAt
protected theorem MemoryOk.finishStart {n k b e} (h : MemoryOk s) : MemoryOk (finishStart s n k b e) :=
  .ite h.modCtx.trace.takeTrapAt (.ite h.modCtx.trace.takeTrapAt h.modCtx.trace)
protected theorem MemoryOk.startBody {n k b} (h : MemoryOk s) : MemoryOk (startBody s n k b) := by
  unfold startBody
  split
  · exact h.finishStart
  · exact h.modCtx.submit
protected theorem MemoryOk.deliver {n k r} (h : MemoryOk s) : MemoryOk (deliver s n k r) :=
  h.beginCtx.modCtx.acquireRange.startBody
protected theorem MemoryOk.flushSends {n k} (h : MemoryOk s) : MemoryOk (flushSends s n k) := .modCtx h.other
protected theorem MemoryOk.retirement {n k} (h : MemoryOk s) : MemoryOk (retirement s n k) := by
  unfold retirement
  extract_lets c
  split
  · exact h.other
  · exact h
protected theorem MemoryOk.endOrWait {n k i} (h : MemoryOk s) : MemoryOk (endOrWait s n k i) := .ite h.modCtx h.makeDormant

/-! ### Control registers -/

protected theorem MemoryOk.setBodytab {p v} (h : MemoryOk s) : MemoryOk (setBodytab s p v) :=
  .modPart (h.mapCores fun _ hc => ite_keeps (P := fun x : Nat × Core => CoreOk x.2) hc hc)
protected theorem MemoryOk.crWrite {n k crn v} (h : MemoryOk s) : MemoryOk (crWrite s n k crn v) := by
  unfold crWrite
  split
  · exact h.modCore
  · exact h.setBodytab
  · exact h.modCore
  · exact h.modCtx.refreshInh
  · exact h.modCore
  · exact h.modCore
  iterate 4 exact h.modCtx
  · exact h.modPart
  iterate 8 exact h.modCtx
  · exact h.modCore
  · exact h

/-! ### Streams -/

protected theorem MemoryOk.tcmWrite {n off w v} (h : MemoryOk s) : MemoryOk (tcmWrite s n off w v) :=
  h.modCoreWith fun _ hc => wf_writeBytes off w v hc
protected theorem MemoryOk.readBeat {n k e st b} (h : MemoryOk s) : MemoryOk (readBeat s n k e st b) := by
  refine .ite h.modCtx ?_
  split
  · exact h.modCtx
  · exact h.submit
protected theorem MemoryOk.aheadOn {n k e} (h : MemoryOk s) : MemoryOk (aheadOn s n k e) := by
  unfold aheadOn
  split
  · exact h
  split
  · exact h.readBeat
  · exact h
protected theorem MemoryOk.readAhead {e} (h : MemoryOk s) : MemoryOk (readAhead s e) := by
  unfold readAhead
  split
  · exact h
  · exact .ite h.aheadOn h
protected theorem MemoryOk.popBeat {e} (h : MemoryOk s) : MemoryOk (popBeat s e) := by
  unfold popBeat
  split
  · exact h
  · exact .ite h.modCur h.modCur.readAhead
protected theorem MemoryOk.pushLocal {st l} (h : MemoryOk s) : MemoryOk (pushLocal s st l) := by
  induction l generalizing s with
  | nil => exact h
  | cons e l ih =>
    unfold pushLocal
    split
    · exact h.modCur
    · exact ih h.tcmWrite
protected theorem MemoryOk.pushBeat {e st m v} (h : MemoryOk s) : MemoryOk (pushBeat s e st m v) := by
  unfold pushBeat
  extract_lets ps fl s1 n good data a s2
  have h1 : MemoryOk s1 := h.modCur
  have h2 : MemoryOk s2 := h1.submit
  refine .ite h1.pushLocal ?_
  split
  · exact h2
  · exact h2.modCur
protected theorem MemoryOk.putLanes {vd m f} (h : MemoryOk s) : MemoryOk (putLanes s vd m f) := by
  unfold putLanes
  split
  · exact .ite h.pushBeat h.modCur
  · exact h.modCur

/-! ## Issue, loads and prefetches -/

/-! ### Issue -/

protected theorem MemoryOk.forward {is} (h : MemoryOk s) : MemoryOk (forward s is) := by
  unfold forward
  dsimp only
  split
  · exact .ite h (h.foldl fun _ _ h => h.modCtx)
  · exact h
protected theorem MemoryOk.begin {is} (h : MemoryOk s) : MemoryOk (begin s is) := h.modCur.forward.other
protected theorem MemoryOk.popAll {is} (h : MemoryOk s) : MemoryOk (popAll s is) := h.foldl fun _ _ h => h.popBeat
protected theorem MemoryOk.endBundle (h : MemoryOk s) : MemoryOk (endBundle s) := h.modCur.other
protected theorem MemoryOk.debugStop {n} (h : MemoryOk s) : MemoryOk (debugStop s n) :=
  .ite h (.modCore (h.foldl fun _ _ h => h.trace))
protected theorem MemoryOk.watch {pc is r} (h : MemoryOk t) : MemoryOk (watch s pc is r t) := by
  unfold watch
  extract_lets core hit
  clear_value hit
  split
  · exact h
  · exact .ite h.debugStop (.ite h.modCur h.takeTrap)
protected theorem MemoryOk.waitAgain {i sub fate} (h : MemoryOk s) : MemoryOk (waitAgain s i sub fate) := h.modCur
protected theorem MemoryOk.waitRelease {i sub fate} (h : MemoryOk s) : MemoryOk (waitRelease s i sub fate) := h.modCur
protected theorem MemoryOk.takeEffect {i eff} (h : MemoryOk s) (heff : ∀ s, MemoryOk s → MemoryOk (eff s)) :
    MemoryOk (takeEffect s i eff) := by
  refine .ite ?_ (heff s h)
  dsimp only
  split
  · exact h.waitAgain.refreshInh
  · exact h.waitAgain
protected theorem MemoryOk.trapIssue {is r} (h : MemoryOk s) : MemoryOk (trapIssue s is r) :=
  .takeTrap (.ite h.releaseAll h)

/-- The next state, where there is one, keeps its memories in canonical form. -/
def NextOk : Host.Outcome State Fault Refusal → Prop
  | .next s => MemoryOk s
  | .fault _ | .refused _ => True
theorem NextOk.of_eq {r r' : Host.Outcome State Fault Refusal} (h : NextOk r) (e : r = r') : NextOk r' := e ▸ h
protected theorem NextOk.ite {c : Prop} {_ : Decidable c} {r r' : Host.Outcome State Fault Refusal} (h : NextOk r)
    (h' : NextOk r') : NextOk (if c then r else r') := ite_keeps h h'

protected theorem MemoryOk.issue {i eff} (h : MemoryOk s) (heff : ∀ s, MemoryOk s → MemoryOk (eff s)) :
    NextOk (issue s i eff) := by
  unfold issue
  split
  · exact h.takeEffect heff
  · split
    · exact h
    · exact h.trapIssue
    · exact (MemoryOk.takeEffect h.begin.popAll heff).endBundle.watch

/-! ### Effects of one instruction: registers, loads and stores -/

protected theorem MemoryOk.putX {gp rd v} (h : MemoryOk s) : MemoryOk (putX s gp rd v) := .ite h.modCur h
protected theorem MemoryOk.putXF {gp rd v} (h : MemoryOk s) : MemoryOk (putXF s gp rd v) := .ite h.modCur h
protected theorem MemoryOk.putP {gp pd v} (h : MemoryOk s) : MemoryOk (putP s gp pd v) := h.modCur
protected theorem MemoryOk.putPF {gp pd v fl} (h : MemoryOk s) : MemoryOk (putPF s gp pd v fl) := h.putP.modCur
protected theorem MemoryOk.putV {gp vd f} (h : MemoryOk s) : MemoryOk (putV s gp vd f) := h.putLanes
protected theorem MemoryOk.putVF {gp vd f fl} (h : MemoryOk s) : MemoryOk (putVF s gp vd f fl) := h.putLanes.modCur
protected theorem MemoryOk.loadEff {f unit size signed} (h : MemoryOk s) : MemoryOk (loadEff s f unit size signed) := by
  unfold loadEff
  extract_lets a rd s1
  have h1 : MemoryOk s1 := h.modCur
  split
  · exact h1.sendX
  · exact h1.submit
protected theorem MemoryOk.storeEff {f unit size} (h : MemoryOk s) : MemoryOk (storeEff s f unit size) := by
  unfold storeEff
  extract_lets a v
  split
  · exact h.tcmWrite
  · exact h.submit
protected theorem MemoryOk.releaseAt {sc} (h : MemoryOk s) : MemoryOk (releaseAt s sc) := .ite h.releaseAll h
protected theorem MemoryOk.withSig {sc a} (h : MemoryOk s) : MemoryOk (withSig s sc a).1 :=
  ite_keeps (P := fun x : State × Access => MemoryOk x.1) h.modCore h
protected theorem MemoryOk.submitRel {sc a} (h : MemoryOk s) : MemoryOk (submitRel s sc a) := .submit h.releaseAt.withSig
protected theorem MemoryOk.amoEff {f op} (h : MemoryOk s) : MemoryOk (amoEff s f op) := h.modCur.submitRel
protected theorem MemoryOk.fenceEff {f} (h : MemoryOk s) : MemoryOk (fenceEff s f) :=
  have h1 {c : Prop} {_ : Decidable c} : MemoryOk (if c then releaseAll s s.core else s) := .ite h.releaseAll h
  .ite h (.ite h1.acquireAll h1)

/-! ### Prefetches -/

protected theorem MemoryOk.fetchLine {b va} (h : MemoryOk s) : MemoryOk (fetchLine s b va) := .ite h.bump h.bump.modCore
protected theorem MemoryOk.oldMonitors (ht : MemoryOk t) : MemoryOk (oldMonitors s t) := ht.other
protected theorem PResOk.prefLeft {r} (h : PResOk r) : MemoryOk (prefLeft s r) := by
  cases r with
  | park => exact MemoryOk.oldMonitors h
  | done | stall | refuse | refuseVal => exact h
protected theorem MemoryOk.prefHome {g a k} (h : MemoryOk s) : MemoryOk (prefHome s g a k) := by
  unfold prefHome
  split
  · next heq => exact (h.locate.of_eq heq : LocOk (.no _)).prefLeft
  · next t _ _ heq =>
    have h1 : MemoryOk t := h.locate.of_eq heq
    refine .ite h1 ?_
    split
    · next heq => exact (h1.fillHome.ok heq).modHome
    · exact h1
protected theorem MemoryOk.prefCome {n k} (h : MemoryOk s) : MemoryOk (prefCome s n k) := by
  unfold prefCome
  split
  · exact h
  · extract_lets s1 a g r
    have h1 : MemoryOk s1 := h.modCore
    have hr : PResOk r := h1.performRead
    clear_value r
    refine .ite h1.prefHome ?_
    split
    · exact MemoryOk.setL1 hr
    · exact hr.prefLeft
protected theorem MemoryOk.prefLine {va} (h : MemoryOk s) : MemoryOk (prefLine s va) := h.fetchLine
protected theorem MemoryOk.stridePrefetch {n} (h : MemoryOk s) : MemoryOk (stridePrefetch s n) := by
  unfold stridePrefetch
  dsimp only [freeDword]
  split
  · exact h
  · exact (MemoryOk.fetchLine (h.other)).other

/-! ## Page types, invalidation and copies -/

/-! ### Regions and page types -/

protected theorem MemoryOk.dropRegion {clu p r} (h : MemoryOk s) : MemoryOk (dropRegion s clu p r) :=
  .ite h (h.foldl fun _ _ h => h.dropWhere)
protected theorem MemoryOk.setRegion {clu e r} (h : MemoryOk s) : MemoryOk (setRegion s clu e r) := h.modClu
/-- However the search for a leaf ends, the state that it leaves keeps its memories in canonical form. -/
def LeafResOk : LeafRes → Prop
  | .leaf s _ | .none s | .retry s => MemoryOk s
theorem LeafResOk.of_eq {r r' : LeafRes} (h : LeafResOk r) (e : r = r') : LeafResOk r' := e ▸ h
protected theorem LeafResOk.ite {c : Prop} {_ : Decidable c} {r r' : LeafRes} (h : LeafResOk r) (h' : LeafResOk r') :
    LeafResOk (if c then r else r') := ite_keeps h h'
protected theorem MemoryOk.readLeaf {p va fuel lvl table} (h : MemoryOk s) : LeafResOk (readLeaf p va fuel s lvl table) := by
  induction fuel generalizing s lvl table with
  | zero => exact h
  | succ fuel ih =>
    unfold readLeaf
    extract_lets w wva
    split
    · exact h
    · exact h
    · exact h
    · next t heq =>
      have ht : MemoryOk t := h.fillWindow.ok heq
      exact .ite ht (.ite ht (.ite ht (ih ht)))
protected theorem MemoryOk.findLeaf {p va} (h : MemoryOk s) : LeafResOk (findLeaf s p va) := .ite h h.readLeaf
protected theorem MemoryOk.retypeHome {new k} (h : MemoryOk s) : MemoryOk (retypeHome new s k) := .ite h h.recallAll.modHome
protected theorem MemoryOk.retypeMeta {p base l old} (h : MemoryOk s) : MemoryOk (retypeMeta s p base l old) :=
  .ite h (.ite (h.foldl fun _ _ h => h.modSlice) (.ite h h))
protected theorem MemoryOk.oldType {p l} (h : MemoryOk s) : MemoryOk (oldType s p l).2 := by
  unfold oldType
  split
  · exact h
  · exact h.freeDword
protected theorem MemoryOk.retypeTlb {p base l} (h : MemoryOk s) : MemoryOk (retypeTlb s p base l) := h.other
protected theorem MemoryOk.restartWords {p lo hi} (h : MemoryOk s) : MemoryOk (restartWords s p lo hi) := h.other
/-- The state of a search of several leaves, while none of them has to be tried again. -/
def SomeOk (o : Option State) : Prop := ∀ s, o = some s → MemoryOk s
theorem someOk_none : SomeOk none := fun _ e => nomatch e
theorem MemoryOk.someOk (h : MemoryOk s) : SomeOk (some s) := fun _ e => Option.some.inj e ▸ h
protected theorem SomeOk.leavesReady {p o va} (h : SomeOk o) : SomeOk (leavesReady p o va) := by
  unfold leavesReady
  cases o with
  | none => exact someOk_none
  | some s =>
    have hs : MemoryOk s := h s rfl
    dsimp only [Option.bind_some]
    split
    · next heq => exact (hs.fillWindow.ok heq).someOk
    · exact hs.someOk
    · exact someOk_none
    · exact someOk_none
protected theorem MemoryOk.clearTr {p l} (h : MemoryOk s) : MemoryOk (clearTr s p l) := by
  refine h.foldl fun s a h => ?_
  dsimp only
  split
  · next heq => exact (h.fillWindow.ok heq).putWindow
  · exact h
protected theorem MemoryOk.retypePage {p base l} (h : MemoryOk s) : MemoryOk (retypePage s p base l) :=
  have h1 := h.oldType.foldl (f := retypeHome (leafCt l)) (l := pageKeys _ p base (leafSize l)) fun _ _ h => h.retypeHome
  h1.retypeMeta.retypeTlb.restartWords.clearTr
protected theorem MemoryOk.endRetype {r} (h : MemoryOk s) : MemoryOk (endRetype s r) := h.modPart.retypePage.acquireRange
protected theorem MemoryOk.tryRetype {f r} (h : MemoryOk s) : MemoryOk (tryRetype s f r) := by
  unfold tryRetype
  extract_lets p wait
  refine .ite h.waitAgain ?_
  split
  · next heq => exact (foldl_keeps (P := SomeOk) (fun _ _ h => h.leavesReady) h.someOk _ heq).endRetype
  · exact h.waitAgain
protected theorem MemoryOk.retypeEff {f} (h : MemoryOk s) : MemoryOk (retypeEff s f) := by
  unfold retypeEff
  extract_lets va p s1 fail
  have h1 : MemoryOk s1 := h.releaseAll
  split
  · exact h.tryRetype
  split
  · next s2 heq =>
    have h2 : MemoryOk s2 := h1.findLeaf.of_eq heq
    exact h2.waitAgain
  · next s2 heq =>
    have h2 : MemoryOk s2 := h1.findLeaf.of_eq heq
    exact h2.sendRefusal
  · next s2 l heq =>
    have h2 : MemoryOk s2 := h1.findLeaf.of_eq heq
    exact .ite h2.sendRefusal h2.modPart.tryRetype

/-! ### XINV -/

protected theorem MemoryOk.dropTranslations {p lo hi} (h : MemoryOk s) : MemoryOk (dropTranslations s p lo hi) :=
  h.dropFaults.other
protected theorem MemoryOk.flushRange {p lo hi} (h : MemoryOk s) : MemoryOk (flushRange s p lo hi) :=
  .foldl (h.foldl fun _ _ h => h.dropWhere) fun _ _ h => h.evictHome
protected theorem MemoryOk.clearFrames {p lo hi} (h : MemoryOk s) : MemoryOk (clearFrames s p lo hi) := h.other
protected theorem MemoryOk.dropPermission {p lo hi} (h : MemoryOk s) : MemoryOk (dropPermission s p lo hi) :=
  h.mapCores fun _ hc => hc
protected theorem MemoryOk.dropReplicas {p lo hi} (h : MemoryOk s) : MemoryOk (dropReplicas s p lo hi) := h.other
protected theorem MemoryOk.xinvEff {f} (h : MemoryOk s) : MemoryOk (xinvEff s f) :=
  have h1 {p lo hi} := h.releaseAll.dropTranslations (p := p) (lo := lo) (hi := hi)
  .ite h.waitAgain (.acquireRange (.ite h1.dropReplicas.flushRange.clearFrames h1.dropPermission))

/-! ### Copies -/

protected theorem MemoryOk.askLeave {c} (h : MemoryOk s) : MemoryOk (askLeave s c) := h.modDie
protected theorem MemoryOk.startCopy {i c} (h : MemoryOk s) : MemoryOk (startCopy s i c) := by
  unfold startCopy
  extract_lets rows s1 hull s2 s3 s4 s5 s6
  have h1 : MemoryOk s1 := h.cleanWhere
  have h2 : MemoryOk s2 := h1.foldl fun _ _ h => h.modSlice
  have h3 : MemoryOk s3 := .ite h2 (h2.foldl fun _ _ h => h.dropWhere)
  have h4 : MemoryOk s4 := h3.modDie
  have h5 : MemoryOk s5 := .modClu h4.other
  have h6 : MemoryOk s6 := h5.modCur
  exact .ite h6.waitRelease h6
protected theorem MemoryOk.copyEff {i f kind} (h : MemoryOk s) : MemoryOk (copyEff s i f kind) :=
  .ite h.waitAgain (.ite h.askLeave.waitAgain h.startCopy)
protected theorem MemoryOk.settleCpyq {n k} (h : MemoryOk s) : MemoryOk (settleCpyq s n k) :=
  h.modCtx.foldl fun _ _ h => (h.foldl fun _ _ h => .ite h.acquireRange h).sendX
protected theorem MemoryOk.copyWrite {c va n v} (h : MemoryOk s) : PResOk (copyWrite s c va n v) := by
  unfold copyWrite
  extract_lets a k off need
  split
  · next heq => exact h.locate.of_eq heq
  · next s1 n1 u heq =>
    have h1 : MemoryOk s1 := h.locate.of_eq heq
    extract_lets full set
    have hset (s) (h : MemoryOk s) : MemoryOk (set s) := h.setWsFull.wakeWord
    refine .ite h1 (.ite (.ite (.ite h1 (.ite h1 (hset _ h1.hostStore))) h1.hostStore) ?_)
    split
    · exact h1.putHome.fireMonitor
    · exact h1.putHome
    · exact .ite h1 (hset _ h1.putHome)
    · exact h1.putHome
protected theorem MemoryOk.putWord {c x} (h : MemoryOk s) : MemoryOk (putWord s c x) := .ite h.tcmWrite h.spmWrite
protected theorem MemoryOk.copyClaim {c dst} (h : MemoryOk s) : PResOk (copyClaim s c dst) := .ite h.claimLine h
protected theorem MemoryOk.copyValue {c x} (h : MemoryOk s) : PResOk (copyValue s c x).1 := by
  unfold copyValue
  dsimp -zeta only
  extract_lets n1 p1 p2
  split
  · next s1 _ _ heq =>
    have h1 : MemoryOk s1 := h.copyRead.of_eq heq
    extract_lets r2
    have hr : PResOk r2 := .ite h1 h1.copyRead
    clear_value r2
    split
    · exact hr
    · exact hr
  · exact h.copyRead
protected theorem MemoryOk.unclaimLine {c va} (h : MemoryOk s) : MemoryOk (unclaimLine s c va) := h.modHome
theorem PResOk.ofFst {r : PRes} {p : PRes × Piece} {x : Piece} (h : PResOk p.1) (e : p = (r, x)) : PResOk r := by
  subst e
  exact h
protected theorem MemoryOk.copyPiece {c x rest} (h : MemoryOk s) : PResOk (copyPiece s c x rest).1 := by
  unfold copyPiece
  extract_lets w
  split
  · next s1 _ _ heq =>
    have h1 : MemoryOk s1 := h.copyClaim.of_eq heq
    split
    · next s2 v ct _ heq =>
      have h2 : MemoryOk s2 := h1.copyValue.ofFst heq
      split
      · exact h2.foldl fun _ _ h => h.putWord
      split
      · next s3 _ _ heq =>
        have h3 : MemoryOk s3 := h2.copyWrite.of_eq heq
        exact MemoryOk.ite h3 h3.unclaimLine
      · exact h2.copyWrite
    · exact h1.copyValue
  · exact h.copyClaim
theorem runCopy_ok {c l n} (h : MemoryOk s) :
    MemoryOk (runCopy c l s n).1 ∧ ∀ r p, (runCopy c l s n).2.2 = some (r, p) → PResOk r := by
  induction l generalizing s n with
  | nil => exact ⟨h, fun _ _ e => nomatch e⟩
  | cons x l ih =>
    unfold runCopy
    split
    · next heq => exact ih (h.copyPiece.ofFst heq : PResOk (.done _ _ _))
    · next heq => exact ⟨h, fun _ _ e => by cases e; exact h.copyPiece.ofFst heq⟩
protected theorem MemoryOk.setCopy {clu c} (h : MemoryOk s) : MemoryOk (setCopy s clu c) := h.modClu
protected theorem MemoryOk.releaseRange {id} (h : MemoryOk s) : MemoryOk (releaseRange s id) := h.other
protected theorem MemoryOk.sendStart {clu c n} (h : MemoryOk s) : MemoryOk (sendStart clu c s n) := .ite h h.modClu.receive
protected theorem MemoryOk.endCopy {clu c} (h : MemoryOk s) : MemoryOk (endCopy s clu c) := by
  unfold endCopy
  extract_lets s1 s2 s3 mark s4 s5 s6 hull s7
  have h1 : MemoryOk s1 := h.releaseRange.foldl fun _ _ h => h.sendStart
  have h2 : MemoryOk s2 := h1.modClu
  have h3 : MemoryOk s3 := h2.modDie
  have h4 : MemoryOk s4 := h3.modCtx
  have h5 : MemoryOk s5 := h4.settleCpyq
  have h6 : MemoryOk s6 := by
    dsimp only [s6]
    split
    · exact .ite h5.sendRefusal h5
    · exact h5
  have h7 : MemoryOk s7 := .ite h6.acquireRange h6
  exact .ite h1 (.ite h7.modCtx h6)
protected theorem MemoryOk.unclaim (h : MemoryOk s) : MemoryOk (unclaim s) := h.other
protected theorem PResOk.copyStopped {clu c r p} (h : PResOk r) : MemoryOk (copyStopped s clu c r p) := by
  have hstop (s) (h : MemoryOk s) : MemoryOk { unclaim (setCopy s clu c) with accessId := s.accessId + 1 } :=
    h.setCopy.unclaim.other
  cases r with
  | stall => exact (hstop _ h).keepAccess
  | park => exact (hstop _ h).parkAccess.keepAccess
  | refuse => exact (MemoryOk.setCopy h).unclaim.endCopy
  | refuseVal => exact (MemoryOk.setCopy h).unclaim.endCopy
  | done => exact (MemoryOk.setCopy h).unclaim
protected theorem MemoryOk.readPiece {clu c ws} (h : MemoryOk s) : MemoryOk (readPiece s clu c ws) := h.setCopy
protected theorem MemoryOk.copyGo {clu c} (h : MemoryOk s) : MemoryOk (copyGo s clu c) := by
  unfold copyGo
  refine .ite h.endCopy ?_
  split
  · exact h.endCopy
  refine .ite (.ite h ?_) ?_
  · split
    · next s1 _ _ _ heq =>
      have h1 : MemoryOk s1 := h.copyValue.ofFst heq
      exact h1.readPiece
    · next heq => exact (h.copyValue.ofFst heq).copyStopped
  · extract_lets s1 c1
    have h1 : MemoryOk s1 := h.foldl fun _ _ h => h.putWord
    obtain ⟨h2, hr⟩ := runCopy_ok (c := c1) (l := copyLeft c1) (n := 0) h1
    dsimp only
    split
    · exact h2.setCopy.unclaim.endCopy
    · next heq => exact (hr _ _ heq).copyStopped
protected theorem MemoryOk.copyNext {clu n} (h : MemoryOk s) : MemoryOk (copyNext s clu n) := by
  unfold copyNext
  split
  · exact h
  refine .ite h ?_
  split
  · exact h
  refine .ite ?_ (.ite ?_ ?_)
  · split
    · next s1 _ _ _ heq =>
      have h1 : MemoryOk s1 := h.copyValue.ofFst heq
      exact h1.readPiece
    · next heq => exact (h.copyValue.ofFst heq).copyStopped
  · split
    · next s1 _ _ heq =>
      have h1 : MemoryOk s1 := h.copyClaim.of_eq heq
      refine .ite h1 ?_
      split
      · next s1 _ _ _ heq =>
        have h1 : MemoryOk s1 := h.copyPiece.ofFst heq
        exact h1.setCopy.unclaim
      · next heq => exact (h.copyPiece.ofFst heq).copyStopped
    · exact h.copyClaim.copyStopped
  · split
    · next s1 _ _ _ heq =>
      have h1 : MemoryOk s1 := h.copyPiece.ofFst heq
      exact h1.setCopy.unclaim
    · next heq => exact (h.copyPiece.ofFst heq).copyStopped
protected theorem MemoryOk.ownWhole {clu c n} (h : MemoryOk s) : MemoryOk (ownWhole s clu c n) := .ite h.sendStart h
protected theorem MemoryOk.copyWord {clu n j} (h : MemoryOk s) : MemoryOk (copyWord s clu n j) := by
  unfold copyWord
  split
  · exact h
  split
  · exact h
  · exact .ite h.setCopy (.ite h.putWord.setCopy h.putWord.setCopy.ownWhole)
protected theorem MemoryOk.bankWord {clu n j} (h : MemoryOk s) : MemoryOk (bankWord s clu n j) := by
  unfold bankWord
  split
  · exact h
  split
  · exact h
  · exact h.putWord.setCopy

/-! ## Tasks, groups, array and predictor -/

/-! ### Tasks -/

protected theorem MemoryOk.fetchBody {b} (h : MemoryOk s) : MemoryOk (fetchBody s b) := .ite h h.submit
protected theorem MemoryOk.readEntry {is} (h : MemoryOk s) : MemoryOk (readEntry s is) := by
  unfold readEntry
  split
  · dsimp only
    split
    · next t a heq =>
      have ht : MemoryOk t := (MemoryOk.runAll h.other).of_eq heq
      exact ht.finishAccess
    · exact h
  · exact h
protected theorem MemoryOk.recordEff {i q} (h : MemoryOk s) : MemoryOk (recordEff s i q) := by
  unfold recordEff
  split
  · exact h.waitAgain.modCur.fetchBody
  split
  · exact h.sendRefusal
  · exact h.modCur
protected theorem MemoryOk.ask {rd res a} (h : MemoryOk s) : MemoryOk (ask s rd res a) := h.other
protected theorem MemoryOk.takeSteal {i rd a} (h : MemoryOk s) : MemoryOk (takeSteal s i rd a) := by
  unfold takeSteal
  dsimp only
  split
  · exact h.modCur.waitAgain
  · exact h.modCur.modCtx.ask
protected theorem MemoryOk.answerReq {q v} (h : MemoryOk s) : MemoryOk (answerReq s q v) := by
  unfold answerReq
  extract_lets s1
  refine .sendX ?_
  dsimp only [s1]
  split
  · exact h.modCtx
  · exact h
protected theorem MemoryOk.endUnit {i abort} (h : MemoryOk s) : MemoryOk (endUnit s i abort) := by
  unfold endUnit
  extract_lets n k c s1 s2 s3 s4
  have h2 : MemoryOk s2 := h.trace.endRope.releaseAll
  have h3 : MemoryOk s3 := .ite h2.modCtx h2.flushSends
  have h4 : MemoryOk s4 := .ite h3 h3.retirement
  exact h4.endOrWait
protected theorem MemoryOk.tendEff {i abort} (h : MemoryOk s) : MemoryOk (tendEff s i abort) := .ite h.waitAgain h.endUnit

/-! ### Groups, ropes and semaphores -/

protected theorem MemoryOk.setBarrier {p g b} (h : MemoryOk s) : MemoryOk (setBarrier s p g b) := h.modSP
protected theorem MemoryOk.setMembers {p g l} (h : MemoryOk s) : MemoryOk (setMembers s p g l) := h.modPart
protected theorem MemoryOk.settlePhase {p g} (h : MemoryOk s) : MemoryOk (settlePhase s p g) := .ite h.setBarrier h
protected theorem MemoryOk.arriveAt {n k g bar note} (h : MemoryOk s) : MemoryOk (arriveAt s n k g bar note) :=
  .settlePhase (.setBarrier (.ite h.modCtx h))
protected theorem MemoryOk.sendArrival {i g bar} (h : MemoryOk s) : MemoryOk (sendArrival s i g bar) :=
  .ite h.releaseAll.waitAgain h.releaseAll.other
protected theorem MemoryOk.waitPhase {i g fate} (h : MemoryOk s) : MemoryOk (waitPhase s i g fate) := by
  unfold waitPhase
  refine .ite h.waitAgain.refreshInh ?_
  split
  · exact h.acquireAll
  · exact .ite h.modCur.acquireAll.refreshInh h.waitAgain.refreshInh
protected theorem MemoryOk.startSecond {n k hop x3} (h : MemoryOk s) : MemoryOk (startSecond s n k hop x3) :=
  h.beginCtx.modCtx.modCur
protected theorem MemoryOk.startSeconds {l x3} (h : MemoryOk s) : MemoryOk (startSeconds l s x3).1 := by
  induction l generalizing s with
  | nil => exact h
  | cons e l ih =>
    unfold startSeconds
    split
    · exact ih h
    · exact ih h.startSecond
protected theorem MemoryOk.ropeEff {f started} (h : MemoryOk s) : MemoryOk (ropeEff s f started) :=
  .ite h.startSeconds h.startSeconds.waitAgain.modCur
protected theorem MemoryOk.selectAt {q take slice} (h : MemoryOk s) : MemoryOk (selectAt s q take slice).1 := by
  unfold selectAt
  dsimp only
  split
  · exact h
  · exact h.modSP.deliver.answerReq
protected theorem MemoryOk.pointPast {q slice} (h : MemoryOk s) : MemoryOk (pointPast s q slice) := h.modSP
protected theorem MemoryOk.setSemAt {clu k x} (h : MemoryOk s) : MemoryOk (setSemAt s clu k x) := h.modClu
protected theorem MemoryOk.unwait {n k} (h : MemoryOk s) : MemoryOk (unwait s n k) := h.modCtx
protected theorem MemoryOk.serveP {clu k n c} (h : MemoryOk s) : MemoryOk (serveP s clu k n c) :=
  .ite h.setSemAt.acquireAll.unwait h.setSemAt
protected theorem MemoryOk.endSemv {n k} (h : MemoryOk s) : MemoryOk (endSemv s n k) := h.modCtx
protected theorem MemoryOk.trapSemv {n c k} (h : MemoryOk s) : MemoryOk (trapSemv s n c k) := h.modCtx.takeTrapAt
protected theorem MemoryOk.serveV {clu k n c} (h : MemoryOk s) : MemoryOk (serveV s clu k n c) := by
  unfold serveV
  refine .ite h.trapSemv ?_
  split
  · exact h.setSemAt.endSemv
  · exact h.setSemAt.acquireAll.unwait.endSemv
protected theorem MemoryOk.dropSemp {clu k n c} (h : MemoryOk s) : MemoryOk (dropSemp s clu k n c) :=
  .unwait (.setSemAt h.other)
protected theorem MemoryOk.budgetTrap {n k pc} (h : MemoryOk s) : MemoryOk (budgetTrap s n k pc) := h.modCtx.takeTrapAt
protected theorem MemoryOk.serveUnsemp {clu k n c} (h : MemoryOk s) : MemoryOk (serveUnsemp s clu k n c) :=
  .ite h.dropSemp.budgetTrap h
protected theorem MemoryOk.serveAsk {q} (h : MemoryOk s) : MemoryOk (serveAsk s q).1 := by
  unfold serveAsk
  have hfst {c : Prop} {_ : Decidable c} {x y : State × Option Ask} (hx : MemoryOk x.1) (hy : MemoryOk y.1) :
    MemoryOk (if c then x else y).1 := ite_keeps (P := fun x : State × Option Ask => MemoryOk x.1) hx hy
  split
  · exact h.answerReq
  · split
    · next heq =>
      have h1 := h.selectAt.ofFst heq
      exact .ite h1 h1.modCore
    · next heq => exact h.selectAt.ofFst heq
  · split
    · next heq => exact h.pointPast.selectAt.ofFst heq
    · next heq => exact (h.pointPast.selectAt.ofFst heq).answerReq
  · exact h.answerReq
  · split
    · exact h
    · exact h.modDie
  · split
    · next heq => exact h.pointPast.selectAt.ofFst heq
    · next heq => exact h.pointPast.selectAt.ofFst heq
  · exact h.pointPast.answerReq
  · exact h.serveP
  · exact h.serveV
  · exact h.serveUnsemp
  · exact hfst h.setSemAt.acquireAll.answerReq h.answerReq
  · exact hfst h h.arriveAt

/-! ### Requests and messages -/

protected theorem MemoryOk.noteOp {c} (h : MemoryOk s) : MemoryOk (noteOp s c) := by
  unfold noteOp
  split
  · exact h.modSP
  · exact h.setSemAt
protected theorem MemoryOk.noteRet {x p} (h : MemoryOk s) : MemoryOk (noteRet s x p) := h.modSP
protected theorem MemoryOk.serveReq {i} (h : MemoryOk s) : MemoryOk (serveReq s i) := by
  unfold serveReq
  split
  · exact h
  split
  · next heq => exact (MemoryOk.serveAsk h.other).ofFst heq
  · next t _ heq =>
    have h1 : MemoryOk t := (MemoryOk.serveAsk h.other).ofFst heq
    exact h1.other
protected theorem MemoryOk.reqOn {i} (h : MemoryOk s) : MemoryOk (reqOn s i) := by
  unfold reqOn
  split
  · exact h
  split
  · exact .ite h h.serveReq
  · exact .ite h h.other
protected theorem MemoryOk.reachMsg {i m} (h : MemoryOk s) : MemoryOk (reachMsg s i m) := .ite h h.other
protected theorem MemoryOk.doOp {o} (h : MemoryOk s) : MemoryOk (doOp s o) := by
  unfold doOp
  split
  · split
    · exact h
    · next m _ =>
      have h1 {l} : MemoryOk (receive { s with msgs := l } m) := .receive h.other
      dsimp only
      split
      · exact h1.noteOp
      · exact h1.noteRet
      · exact h1
  · split
    · exact h
    split
    · exact h.serveReq.noteOp
    · exact h
protected theorem MemoryOk.homeMsg {i m} (h : MemoryOk s) : MemoryOk (homeMsg s i m) := by
  unfold homeMsg
  split
  · exact h.reachMsg
  · exact .ite h.doOp h
  · exact h

/-! ### Array commands -/

protected theorem MemoryOk.commandEff {i a b} (h : MemoryOk s) : MemoryOk (commandEff s i a b) :=
  .ite h (.ite h.waitAgain (.ite h.modClu.endLease h.modClu))
/-- However an array command ends, the state that it leaves keeps its memories in canonical form. -/
def MResOk : MRes → Prop
  | .ok s _ | .fault s _ => MemoryOk s
  | .rows _ _ => True
theorem MResOk.of_eq {r r' : MRes} (h : MResOk r) (e : r = r') : MResOk r' := e ▸ h
protected theorem MResOk.ite {c : Prop} {_ : Decidable c} {r r' : MRes} (h : MResOk r) (h' : MResOk r') :
    MResOk (if c then r else r') := ite_keeps h h'
protected theorem MemoryOk.setLatch {clu b q} (h : MemoryOk s) : MemoryOk (setLatch s clu b q) := h.modClu
protected theorem MemoryOk.setBtile {clu b q} (h : MemoryOk s) : MemoryOk (setBtile s clu b q) := h.modClu
protected theorem MemoryOk.perform {clu m} (h : MemoryOk s) : MResOk (perform s clu m) := by
  unfold perform
  extract_lets c r mul
  have hmul (t sparse) : MResOk (mul t sparse) := by
    dsimp only [mul]
    split
    · iterate 4
        split
        · exact h
      exact h.modClu
    · exact h
  clear_value mul
  split
  · split
    · exact h.setLatch
    · exact h.setLatch
    split
    · exact h.setLatch
    · exact h.setLatch
  · split
    · exact h.setBtile
    · exact h.setBtile
  · refine .ite h (.ite h ?_)
    exact h.modCluWith fun _ hc => ite_keeps (P := ClusterOk) hc hc
  · exact hmul _ _
  · exact hmul _ _
  · split
    · exact h
    · trivial
  · exact h.modClu
  · exact h
protected theorem MemoryOk.zeroArray {clu} (h : MemoryOk s) : MemoryOk (zeroArray s clu) := h.modClu
protected theorem MemoryOk.flagArray {m fl} (h : MemoryOk s) : MemoryOk (flagArray s m fl) := h.modCtx
protected theorem MemoryOk.setHead {clu m} (h : MemoryOk s) : MemoryOk (setHead s clu m) := h.modClu
protected theorem MemoryOk.endCommand {clu m} (h : MemoryOk s) : MemoryOk (endCommand s clu m) := by
  unfold endCommand
  have hr : MResOk (perform (modClu s clu fun c => { c with cmds := c.cmds.drop 1 }) clu m) := h.modClu.perform
  split
  · next t _ heq =>
    have h1 : MemoryOk t := hr.of_eq heq
    exact h1.flagArray
  · exact h.setHead
  · next t _ heq =>
    have h1 : MemoryOk t := hr.of_eq heq
    exact h1.modClu.sendRefusal.endLease
protected theorem MemoryOk.startCommand {clu} (h : MemoryOk s) : MemoryOk (startCommand s clu) := by
  unfold startCommand
  split
  · exact h
  extract_lets gone
  have hgone : MemoryOk gone := h.modClu
  refine .ite hgone.zeroArray ?_
  split
  · exact hgone.flagArray
  · exact h
  refine .ite h ?_
  split
  · exact h.setHead
  · exact h.endCommand
protected theorem MemoryOk.gatherWord {clu bank} (h : MemoryOk s) : MemoryOk (gatherWord s clu bank) := by
  unfold gatherWord
  split
  · exact h
  split
  · exact h
  · exact h.setHead
protected theorem MemoryOk.writeRow {clu i} (h : MemoryOk s) : MemoryOk (writeRow s clu i) := by
  unfold writeRow
  split
  · exact h
  split
  · exact h
  split
  · exact h
  · exact h.spmWrite.modClu
protected theorem MemoryOk.grantBelay {clu} (h : MemoryOk s) : MemoryOk (grantBelay s clu) := by
  refine .ite h ?_
  split
  · exact h
  · exact h.modClu.modDie
protected theorem MemoryOk.beginLease {b} (h : MemoryOk s) : MemoryOk (beginLease s b) :=
  .ite h.modClu.endLease h.modClu.modCtx
protected theorem MemoryOk.reachBank {id i} (h : MemoryOk s) : MemoryOk (reachBank s id i) := h.other
protected theorem MemoryOk.grantBank {clu bank} (h : MemoryOk s) : MemoryOk (grantBank s clu bank) := by
  unfold grantBank
  split
  · exact h
  dsimp only
  split
  · split
    · exact h.modClu.runPart
    · exact h.modClu
  · exact h.modClu.bankWord
  · exact h.modClu.gatherWord

/-! ### Instruction fetch -/

protected theorem MemoryOk.fetchDword {n pc} (h : MemoryOk s) : MemoryOk (fetchDword s n pc).2 := by
  unfold fetchDword
  extract_lets now keep
  have hkeep (s d) (h : MemoryOk s) : MemoryOk (keep s d) := h.modCore
  have hsnd {c : Prop} {_ : Decidable c} {x y : Dword × State} (hx : MemoryOk x.2) (hy : MemoryOk y.2) :
    MemoryOk (if c then x else y).2 := ite_keeps (P := fun x : Dword × State => MemoryOk x.2) hx hy
  split
  · exact hkeep _ _ h
  · exact hsnd h (hsnd (hkeep _ _ h.freeBit) h.freeBit)
protected theorem MemoryOk.fetchNext (h : MemoryOk s) : MemoryOk (fetchNext s).2 := by
  unfold fetchNext
  split
  · exact h
  · exact ite_keeps (P := fun x : Fetch × State => MemoryOk x.2) h h.fetchDword
protected theorem MemoryOk.within {n k f} (h : MemoryOk s) (hf : ∀ s, MemoryOk s → MemoryOk (f s)) :
    MemoryOk (within s n k f) := (hf _ h.other).other

/-! ### Predictor -/

protected theorem MemoryOk.refuseN {q rd e} (h : MemoryOk s) : MemoryOk (refuseN s q rd e) := by
  unfold refuseN
  dsimp only
  split
  · exact h.sendRefusal.modCtx
  · exact h.sendRefusal
protected theorem MemoryOk.npcfgEff {q} (h : MemoryOk s) : MemoryOk (npcfgEff s q) := by
  unfold npcfgEff
  dsimp only
  split
  · exact h.modCtx.refuseN
  · exact h.modCtx.modClu
protected theorem MemoryOk.sendPred {i a b} (h : MemoryOk s) : MemoryOk (sendPred s i a b) := .modClu h.other
protected theorem MemoryOk.writeVector {clu off l} (h : MemoryOk s) : MemoryOk (writeVector s clu off l) := h.spmWrite
protected theorem MemoryOk.npredEff {q rd} (h : MemoryOk s) : MemoryOk (npredEff s q rd) := by
  unfold npredEff
  extract_lets clu
  split
  · exact h.refuseN
  extract_lets
  split
  · exact h.refuseN
  split
  · exact h.refuseN
  · exact h.writeVector.modClu.sendX
protected theorem MemoryOk.ncheckEff {q rd} (h : MemoryOk s) : MemoryOk (ncheckEff s q rd) := by
  refine .ite h.refuseN ?_
  split
  · exact h.refuseN
  refine .ite h.refuseN ?_
  extract_lets e0 r l
  split
  · exact h.refuseN
  · exact h.writeVector.sendX
protected theorem MemoryOk.servePred {clu i} (h : MemoryOk s) : MemoryOk (servePred s clu i) := by
  unfold servePred
  extract_lets l
  split
  · exact h
  refine .ite h ?_
  split
  · exact h.modClu.npcfgEff
  · exact h.modClu.npredEff
  · exact h.modClu.ncheckEff
  · exact h.modClu

/-! ## Traps, budgets, waiting accesses and peers -/

/-! ### Saved contexts and upcalls -/

protected theorem MemoryOk.upcretEff {i} (h : MemoryOk s) : MemoryOk (upcretEff s i) :=
  .ite h.waitAgain h.endRope.releaseAll.flushSends.endOrWait
protected theorem MemoryOk.dropFaultsAt {p va} (h : MemoryOk s) : MemoryOk (dropFaultsAt s p va) := h.dropFaults
protected theorem MemoryOk.replayEff {i} (h : MemoryOk s) : MemoryOk (replayEff s i) := by
  unfold replayEff
  extract_lets n p die s1 s2 l s3 s4
  have h3 : MemoryOk s3 := h.releaseAll.modDie.foldl fun _ _ h => h.dropFaultsAt
  have h4 : MemoryOk s4 := h3.other
  exact .ite h4 h4.waitRelease
protected theorem MemoryOk.mapOwn {n k f} (h : MemoryOk s) : MemoryOk (mapOwn s n k f) := h.other
protected theorem MemoryOk.undoSave {n k} (h : MemoryOk s) : MemoryOk (undoSave s n k) := h.mapOwn
protected theorem MemoryOk.cancelAccess {a} (h : MemoryOk s) : MemoryOk (cancelAccess s a) := by
  unfold cancelAccess
  extract_lets s1
  have h1 : MemoryOk s1 := h.dropAccess.keepSig
  split
  · exact h1.modCtx
  · exact h1.modCtx
  · exact h1.modCtx
  · exact h1.modCtx
  · exact h1.modCtx
  · exact h1.modCtx.modCtx
  · exact h1.undoSave
  · exact h1
protected theorem MemoryOk.cancelWhere {n k f} (h : MemoryOk s) : MemoryOk (cancelWhere s n k f) :=
  h.foldl fun _ _ h => h.cancelAccess
protected theorem MemoryOk.beginSave {n k} (h : MemoryOk s) : MemoryOk (beginSave s n k) := by
  unfold beginSave
  split
  · exact h.mapOwn
  · exact h
protected theorem MemoryOk.ctxsaveEff {f addr k} (h : MemoryOk s) : MemoryOk (ctxsaveEff s f addr k) := by
  unfold ctxsaveEff
  extract_lets n i
  split
  · split
    · exact h.dropAccess.cancelWhere.makeDormant
    · exact h.dropAccess.undoSave.sendRefusal
    · exact h.waitAgain
  · refine .ite h.beginSave.waitAgain ?_
    split
    · exact h.beginSave
    · exact h.beginSave.submit.waitAgain
protected theorem MemoryOk.rebuild {w} (h : MemoryOk s) : MemoryOk (rebuild s w) := by
  unfold rebuild
  extract_lets va data r load store amo
  have hload (f n b) : MemoryOk (load f n b) := h.modCur.submit
  have hstore (n) : MemoryOk (store n) := h.submit
  have hamo (f op) : MemoryOk (amo f op) := h.modCur.submitRel
  clear_value load store amo
  split
  iterate 7 exact hload _ _ _
  iterate 4 exact hstore _
  · exact h.modCur.submit
  · exact h.submitRel
  · exact h.modCur.submit
  · exact h.submit
  · exact h.modCur.submit
  · exact h.submit
  iterate 12 exact hamo _ _
  · exact h.submit
  · exact h.submit
  iterate 4 exact h.recordEff
  · exact h
protected theorem MemoryOk.ctxloadEff {i rd addr} (h : MemoryOk s) : MemoryOk (ctxloadEff s i rd addr) := by
  unfold ctxloadEff
  dsimp only
  split
  · exact h.modCur.waitAgain
  · exact h.modCur.modCtx.submit
protected theorem MemoryOk.presentFresh {f} (h : MemoryOk s) (hf : ∀ s, MemoryOk s → MemoryOk (f s)) :
    MemoryOk (presentFresh f s) :=
  hf _ (h.foldl fun _ _ h => h.foldl fun _ _ h => h.dropFaults)
protected theorem MemoryOk.rebuilt {w} (h : MemoryOk s) : MemoryOk (rebuilt w s) := by
  refine .ite ?_ ?_
  · split
    · exact h.startBody
    · exact h
  · extract_lets va next s1 s2 s3
    have h2 : MemoryOk s2 := h.modCur.other
    refine .modCur (.other ?_)
    dsimp only [s3]
    split
    · exact .ctxloadEff h2.other
    · exact h2.rebuild
protected theorem MemoryOk.represent {w} (h : MemoryOk s) : MemoryOk (represent s w) := h.presentFresh fun _ h => h.rebuilt
protected theorem MemoryOk.ctxloadEnd {a} (h : MemoryOk s) : MemoryOk (ctxloadEnd s a) := by
  unfold ctxloadEnd
  split
  · extract_lets n s1 s2 s3 fail
    have h1 : MemoryOk s1 := h.dropAccess
    have hfail (c sub v) : MemoryOk (fail c sub v) := h1.modCtx.modCtx.sendRefusal
    clear_value fail
    split
    · exact hfail _ _ _
    · refine .ite (hfail _ _ _) (.ite h1.keepAccess ?_)
      exact .sendX (MemoryOk.other (.represent h1.beginCtx.modCtx.refreshInh.acquireAll.other))
  · exact h
protected theorem MemoryOk.valueArrives {n k i} (h : MemoryOk s) : MemoryOk (valueArrives s n k i) := by
  unfold valueArrives
  split
  · exact h
  · exact h.modCtx
protected theorem MemoryOk.refusalTaken {n k} (h : MemoryOk s) : MemoryOk (refusalTaken s n k) := by
  unfold refusalTaken
  extract_lets c
  split
  · next place _ _ =>
    refine .ite h ?_
    cases place with
    | none => exact h.freeDword.modCtx.takeTrapAt
    | some pc => exact h.modCtx.takeTrapAt
  · exact h

/-! ### Budgets -/

protected theorem MemoryOk.withdraw {n k i} (h : MemoryOk s) : MemoryOk (withdraw s n k i) := by
  unfold withdraw
  extract_lets unX same
  have hunX (rd) : MemoryOk (unX rd) := h.modCtx
  clear_value unX
  split
  iterate 5 exact hunX _
  · exact h.modClu
  · exact h.endRope
  · exact h.modCtx
  iterate 4 exact h.modDie
  · exact h
protected theorem MemoryOk.cancelParked {n k} (h : MemoryOk s) : MemoryOk (cancelParked s n k) := h.cancelWhere
protected theorem MemoryOk.sendUnsemp {n k sem} (h : MemoryOk s) : MemoryOk (sendUnsemp s n k sem) := .modCtx h.other
protected theorem MemoryOk.budgetTaken {n k} (h : MemoryOk s) : MemoryOk (budgetTaken s n k) := by
  unfold budgetTaken
  extract_lets c
  refine .ite h ?_
  split
  · split
    · exact h.sendUnsemp
    · exact .ite h.cancelParked.modCtx.budgetTrap h.cancelParked
    · exact h.withdraw.modCtx.refreshInh.cancelParked.budgetTrap
  · exact .ite (.ite h.cancelParked.freeDword.modCtx.budgetTrap h) h.cancelParked.budgetTrap

/-! ### Messages and starts -/

protected theorem MemoryOk.enqueueAt {n} (h : MemoryOk s) : MemoryOk (enqueueAt s n) := by
  unfold enqueueAt
  split
  · split
    · exact .ite h (.receive h.other)
    · exact h.homeMsg
    · exact h
  · exact h
protected theorem MemoryOk.retireAt {n} (h : MemoryOk s) : MemoryOk (retireAt s n) := by
  unfold retireAt
  split
  · split
    · exact h.homeMsg
    · exact h
  · exact h
protected theorem MemoryOk.launchAt {n} (h : MemoryOk s) : MemoryOk (launchAt s n) := by
  unfold launchAt
  split
  · split
    · exact .ite h (.receive h.other)
    · exact h
  · exact h
protected theorem MemoryOk.startLaunch {n k pc ap cls issuer} (h : MemoryOk s) :
    MemoryOk (startLaunch s n k pc ap cls issuer) :=
  h.acquireAll.beginCtx.modCtx.modCtx
protected theorem MemoryOk.startHandler {n k j base bytes cause addr total mid} (h : MemoryOk s) :
    MemoryOk (startHandler s n k j base bytes cause addr total mid) :=
  have h1 {pc cls} := h.acquireAll (n := n) |>.beginCtx (n := n) (k := k) (pc := pc) (cls := cls)
  .ite h1.modCtx h1.modCtx.takeTrapAt
protected theorem MemoryOk.deliverInbound {n} (h : MemoryOk s) : MemoryOk (deliverInbound s n) := by
  unfold deliverInbound
  extract_lets c
  split
  · refine .ite h ?_
    dsimp only
    split
    · exact h.modCore.deliver
    · exact h.modCore.startLaunch
    · exact h.modCore.startHandler
  · exact h
protected theorem MemoryOk.startUpcall {n} (h : MemoryOk s) : MemoryOk (startUpcall s n) := by
  unfold startUpcall
  extract_lets c k x
  split
  · exact h
  · exact .ite h h.modCore.acquireAll.beginCtx.modCtx.trace
protected theorem MemoryOk.debugResume {n} (h : MemoryOk s) : MemoryOk (debugResume s n) :=
  h.modCoreWith fun _ hc => ite_keeps (P := CoreOk) hc hc

/-! ### Accesses that wait -/

/-- A host access that stopped. -/
def HostStopOk : State × Option HostStop → Prop
  | (s, none) => MemoryOk s
  | (_, some x) => PResOk x.1
theorem HostStopOk.of_eq {r r' : State × Option HostStop} (h : HostStopOk r) (e : r = r') : HostStopOk r' := e ▸ h
protected theorem MemoryOk.readyAll {l g a} (h : MemoryOk s) : HostStopOk (readyAll l s g a) := by
  induction l generalizing s g a with
  | nil => exact h
  | cons p l ih =>
    unfold readyAll
    split
    · next heq => exact (h.writable.of_eq heq : LocOk (.no _))
    · next heq => exact ih (h.writable.of_eq heq : LocOk (.ok _ _ _))
protected theorem MemoryOk.writeAll {l a} (h : MemoryOk s) : HostStopOk (writeAll l s a) := by
  induction l generalizing s a with
  | nil => exact h
  | cons p l ih =>
    unfold writeAll
    split
    · next heq => exact ih (h.performPiece.of_eq heq : PResOk (.done _ _ _))
    · exact h.performPiece
protected theorem PResOk.stopHost {a x} (h : PResOk x.1) : MemoryOk (stopHost a x) := by
  obtain ⟨r, p⟩ := x
  cases r with
  | stall => exact MemoryOk.keepAccess h
  | park => exact (MemoryOk.parkAccess h).keepAccess
  | refuse => exact MemoryOk.refuseAccess h
  | refuseVal => exact MemoryOk.refuseAccess h
  | done => exact h
protected theorem MemoryOk.writeHost {g a} (h : MemoryOk s) : MemoryOk (writeHost s g a) := by
  unfold writeHost
  split
  · next heq => exact PResOk.stopHost (h.dropAccess.readyAll.of_eq heq)
  · next s1 heq =>
    have h1 : MemoryOk s1 := h.dropAccess.readyAll.of_eq heq
    split
    · next t heq =>
      have ht : MemoryOk t := h1.writeAll.of_eq heq
      exact ht.finishAccess
    · exact PResOk.stopHost h1
protected theorem MemoryOk.runHost {g a} (h : MemoryOk s) : MemoryOk (runHost s g a) := by
  refine .ite h.dropAccess.keepAccess ?_
  split
  · exact h.writeHost
  · exact h.runAccess
protected theorem MemoryOk.runAny {g a} (h : MemoryOk s) : MemoryOk (runAny s g a) := .ite h.runHost h.runAccess
protected theorem MemoryOk.walkAt {slice n} (h : MemoryOk s) : MemoryOk (walkAt s slice n) := by
  unfold walkAt
  split
  · exact .ite h.runAny h
  · exact h
protected theorem MemoryOk.rewalk {a} (h : MemoryOk s) : MemoryOk (rewalk s a) :=
  .ite h (.ite h.hideFaults.runAny h.hideFaults.freeRecs.runAny)
protected theorem MemoryOk.rewalkAll {l} (h : MemoryOk s) : MemoryOk (rewalkAll l s) := by
  induction l generalizing s with
  | nil => exact h
  | cons id l ih =>
    unfold rewalkAll
    split
    · exact ih h.rewalk
    · exact ih h
protected theorem MemoryOk.attemptFails {n} (h : MemoryOk s) : MemoryOk (attemptFails s n) := by
  unfold attemptFails
  split
  · exact h
  split
  · exact .ite h (.ite h.dropAccess.keepAccess (.ite h h.dropAccess.keepAccess))
  · exact h
protected theorem MemoryOk.activate {p line} (h : MemoryOk s) : MemoryOk (activate s p line) := by
  unfold activate
  dsimp only
  split
  · exact h
  · exact h.runAny.other
protected theorem MemoryOk.hostRequest {p va size write data} (h : MemoryOk s) :
    MemoryOk (hostRequest s p va size write data) :=
  .ite h (.ite (.refuseAccess h.other) (.ite (.keepAccess h.other) (.runHost h.other)))

/-! ### Peer cubes -/

protected theorem MemoryOk.fireWindows {pa} (h : MemoryOk s) : MemoryOk (fireWindows s pa) := h.foldl fun _ _ h => h.fireMonitor
protected theorem MemoryOk.setPaLine {pa d full} (h : MemoryOk s) : MemoryOk (setPaLine s pa d full) := by
  unfold setPaLine
  split
  · exact .ite h.modHome.wakeWord.fireMonitor h.modHome.wakeWord
  · have hw := wf_writeBytes (pa / 64 * 64) 64 d.toNat h.wf_hbm
    exact .fireWindows (.hbm (s := { s with wsMeta := fset s.wsMeta (pa / 64) full }) h hw)
protected theorem MemoryOk.answerPeer {pa d} (h : MemoryOk s) : MemoryOk (answerPeer s pa d) := h.other
protected theorem MemoryOk.dropSeal {pa} (h : MemoryOk s) : MemoryOk (dropSeal s pa) := h.setFrame
protected theorem MemoryOk.peerNow {r} (h : MemoryOk s) : MemoryOk (peerNow s r) := by
  unfold peerNow
  extract_lets bad
  split
  · exact h.answerPeer
  · exact .ite h.answerPeer h.setPaLine
  · exact .ite h.answerPeer (.answerPeer (.ite h h.setPaLine))
  · exact .ite h.answerPeer h.setPaLine.answerPeer
  · exact .ite h.answerPeer h.answerPeer
  · refine .ite h.answerPeer (.dropSeal (.setPaLine ?_))
    split
    · exact h.recallAll
    · exact h
protected theorem MemoryOk.peerServe {r} (h : MemoryOk s) : MemoryOk (peerServe s r) := .ite h.other h.peerNow
protected theorem MemoryOk.peerOn {i} (h : MemoryOk s) : MemoryOk (peerOn s i) := by
  unfold peerOn
  split
  · exact h
  · exact .ite (.peerNow h.other) h

/-! ### Power and HBM errors -/

protected theorem MemoryOk.countLeave {die kind wait} (h : MemoryOk s) : MemoryOk (countLeave s die kind wait) := h.other
protected theorem MemoryOk.grantLeave {die kind} (h : MemoryOk s) : MemoryOk (grantLeave s die kind) := by
  refine .ite h ?_
  split
  · exact h
  refine .ite ?_ h.modDie.countLeave
  split
  · exact .ite h.modDie.countLeave.beginLease h.modDie.countLeave
  · exact h.modDie.countLeave
protected theorem MemoryOk.readError {line} (h : MemoryOk s) : MemoryOk (readError s line) := .ite h h.other
protected theorem MemoryOk.runWaiting {l} (h : MemoryOk s) : MemoryOk (runWaiting l s) := by
  induction l generalizing s with
  | nil => exact h
  | cons id l ih =>
    unfold runWaiting
    split
    · exact ih h.runAny
    · exact ih h
protected theorem MemoryOk.poison {pa} (h : MemoryOk s) : MemoryOk (poison s pa) := h.setFrame
protected theorem MemoryOk.reportPoison {pa} (h : MemoryOk s) : MemoryOk (reportPoison s pa) :=
  have h1 := h.mapParts (f := fun e => (e.1, { e.2 with granted := removeFrame e.2.granted pa })) fun _ hq => hq
  h1.other
protected theorem MemoryOk.refuseHead {a cause} (h : MemoryOk s) : MemoryOk (refuseHead s a cause) := by
  refine .refuseAccess ?_
  split
  · exact h.dropAccess.scatterSome
  · exact h.dropAccess
protected theorem MemoryOk.refuseWaiting {line l} (h : MemoryOk s) : MemoryOk (refuseWaiting line l s) := by
  induction l generalizing s with
  | nil => exact h
  | cons id l ih =>
    unfold refuseWaiting
    split
    · exact ih (.ite h.refuseHead h.runAny)
    · exact ih h
protected theorem MemoryOk.retryDone {line ok} (h : MemoryOk s) : MemoryOk (retryDone s line ok) :=
  .ite h (.ite (.runWaiting h.other) (MemoryOk.poison h.other).refuseWaiting.reportPoison)

/-! ## Partitions, cuts and loads -/

theorem of_ffind {α : Type} {P : α → Prop} {k : Nat} {v : α} :
    ∀ {m : FMap α}, (∀ e ∈ m, P e.2) → ffind m k = some v → P v
  | [], _, e => nomatch e
  | (j, w) :: m, hm, e => by
    unfold ffind at e
    split at e
    · cases e
      exact hm (j, v) List.mem_cons_self
    · exact of_ffind (fun e he => hm e (List.mem_cons_of_mem _ he)) e

/-! ### Debug module and samples -/

protected theorem MemoryOk.debugWrite {n off v} (h : MemoryOk s) : MemoryOk (debugWrite s n off v) := by
  unfold debugWrite
  extract_lets bp s1 s2
  have hbp (i) : MemoryOk (bp i) := h.modCore
  have h1 : MemoryOk s1 := h.modCore
  have h2 : MemoryOk s2 := .ite h1.debugResume h1
  clear_value bp s2
  split
  · exact .ite h2.debugStop h2
  iterate 4 exact hbp _
  iterate 5 exact h.modCore
  · exact h
protected theorem MemoryOk.moduleWrite {n off v} (h : MemoryOk s) : MemoryOk (moduleWrite s n off v) := .ite h.debugWrite h
protected theorem MemoryOk.deviceRead {p va v} (h : MemoryOk s) (e : deviceRead s p va = some (t, v)) : MemoryOk t := by
  unfold deviceRead at e
  split at e
  · next heq =>
    cases e
    exact (h.performRead.of_eq heq : PResOk (.done _ _ _))
  · cases e
protected theorem MemoryOk.storeRecord {p base size l n} (h : MemoryOk s) : DevWriteOk (storeRecord p base size l s n) := by
  induction l generalizing s n with
  | nil => exact h
  | cons w l ih =>
    unfold storeRecord
    split
    · next heq => exact ih (h.deviceWrite.of_eq heq : DevWriteOk (.done _))
    · exact h.deviceWrite
protected theorem MemoryOk.writeSample {p slots} (h : MemoryOk s) : MemoryOk (writeSample s p slots) := by
  unfold writeSample
  extract_lets q cfg per size base key ref body rec lost
  have hlost (s) (h : MemoryOk s) : MemoryOk (lost s) := h.modPart
  clear_value rec lost
  split
  · exact hlost _ h
  next s1 wr heq =>
  have h1 : MemoryOk s1 := h.deviceRead heq
  split
  · exact hlost _ h1
  next s2 rd heq =>
  have h2 : MemoryOk s2 := h1.deviceRead heq
  refine .ite (hlost _ h2) ?_
  split
  · exact hlost _ h2
  · next s3 heq =>
    have h3 : MemoryOk s3 := h2.storeRecord.of_eq heq
    exact h3.modPart
  · next s3 heq =>
    have h3 : MemoryOk s3 := h2.storeRecord.of_eq heq
    split
    · exact hlost _ h3
    · next s4 heq =>
      have h4 : MemoryOk s4 := h3.deviceWrite.of_eq heq
      exact h4.modPart
    · next s4 heq =>
      have h4 : MemoryOk s4 := h3.deviceWrite.of_eq heq
      exact h4.modPart
protected theorem MemoryOk.dumpCore {n cycle} (h : MemoryOk s) : MemoryOk (dumpCore s n cycle) := h.modPart
protected theorem MemoryOk.dueDumps {p} (h : MemoryOk s) : MemoryOk (dueDumps s p) :=
  h.modPart.foldl fun _ _ h => .ite h.dumpCore h
protected theorem MemoryOk.sensed (h : MemoryOk s) : MemoryOk (sensed s) := h.other
protected theorem MemoryOk.interrupt {p v} (h : MemoryOk s) : MemoryOk (interrupt s p v) := h.modPart

/-! ### Partitions and starts -/

protected theorem MemoryOk.zeroFrames {l key} (h : MemoryOk s) : MemoryOk (zeroFrames s l key) := by
  have h1 := h.hbm (wf_filter (fun e => !inRanges l e.1) h.wf_hbm)
  exact h1.other
theorem bringUp_ok {p ceiling l} :
    ∀ {m : FMap Core}, (∀ e ∈ m, CoreOk e.2) → ∀ e ∈ bringUp p ceiling l m, CoreOk e.2 := by
  induction l with
  | nil => exact id
  | cons n l ih => exact fun hm => ih (fset_all (P := CoreOk) rfl hm)
protected theorem MemoryOk.createPart {c} (h : MemoryOk s) : MemoryOk (createPart s c) := by
  refine .ite h ?_
  extract_lets k s1 s2 s3
  have h3 : MemoryOk s3 := .modPart (.other h.zeroFrames)
  exact h3.cores (bringUp_ok h3.cores_ok)
protected theorem MemoryOk.teardown {p} (h : MemoryOk s) : MemoryOk (teardown s p) := by
  refine .ite h (.modPart (.zeroFrames ?_))
  obtain ⟨hhbm, hhost, hpeer, hcores, hclus, hparts⟩ := h
  exact ⟨hhbm, hhost, hpeer,
    List.forall_mem_map.mpr fun e he => ite_keeps (P := fun x : Nat × Core => CoreOk x.2) rfl (hcores e he),
    List.forall_mem_map.mpr fun e he => ite_keeps (P := fun x : Nat × Cluster => ClusterOk x.2) rfl (hclus e he), hparts⟩
protected theorem MemoryOk.warmState {measured} (h : MemoryOk s) : MemoryOk (warmState s measured) := by
  obtain ⟨hhbm, hhost, hpeer, -, -, hparts⟩ := h
  exact ⟨hhbm, hhost, hpeer, List.forall_mem_map.mpr fun _ _ => rfl, fun _ he => absurd he List.not_mem_nil,
    List.forall_mem_map.mpr fun e he => hparts e he⟩
protected theorem MemoryOk.coldState (h : MemoryOk s) : MemoryOk (coldState s) := by
  obtain ⟨-, hhost, hpeer, -, -, -⟩ := h
  obtain ⟨hhbm, -, -, hcores, hclus, hparts⟩ := reset_memoryOk
  exact ⟨hhbm, hhost, hpeer, hcores, hclus, hparts⟩
protected theorem MemoryOk.launchOn {p} (h : MemoryOk s) : MemoryOk (launchOn s p) := by
  unfold launchOn
  extract_lets q
  split
  · exact h
  refine .ite h (.ite h.modPart ?_)
  extract_lets s1 n
  have h1 : MemoryOk s1 := .ite h h.setBodytab.modPart
  split
  · exact h1
  · exact .ite h1 h1.acquireAll.beginCtx.modCtx.modPart.interrupt
protected theorem MemoryOk.launchRec {p r} (h : MemoryOk s) : MemoryOk (launchRec s p r) := .ite h h.modPart.launchOn
protected theorem MemoryOk.releaseStopped {p w} (h : MemoryOk s) : MemoryOk (releaseStopped s p w) :=
  .ite h.leaveRope.makeDormant h

/-! ### Firmware's mailboxes -/

protected theorem MemoryOk.answer {a} (h : MemoryOk s) : MemoryOk (answer s a) := .ite h.other h
protected theorem MemoryOk.spdmAnswer {mailbox a} (h : MemoryOk s) : NextOk (spdmAnswer mailbox a s) := .ite trivial h.answer
protected theorem MemoryOk.signed {mailbox msg} (h : MemoryOk s) : MemoryOk (signed s mailbox msg) :=
  .ite h (.ite h.answer (.answer h.other))
protected theorem MemoryOk.measure {mailbox i sign} (h : MemoryOk s) : MemoryOk (measure s mailbox i sign) :=
  .ite h.answer (.ite h.answer (.ite h.answer h.answer.signed))
protected theorem MemoryOk.dropKey {mailbox} (h : MemoryOk s) : MemoryOk (dropKey s mailbox) := by
  unfold dropKey
  split
  · exact .ite h.modPart h
  · exact h
theorem closeCore_ok {pol} {c : Core} (h : CoreOk c) : CoreOk (closeCore pol c) :=
  have h1 : CoreOk (if pol.getLsbD 0 then c
    else { c with bp := c.bp.map fun w => w &&& ~~~(dn (2 ^ 63)), wpc := c.wpc.map fun w => w &&& ~~~(dn (2 ^ 63)) }) :=
    ite_keeps (P := CoreOk) h h
  ite_keeps (P := CoreOk) h1 h1
protected theorem MemoryOk.applyPolicy {p pol} (h : MemoryOk s) : MemoryOk (applyPolicy s p pol) := by
  unfold applyPolicy
  extract_lets s1 s2
  have h1 : MemoryOk s1 :=
    h.mapCores fun _ hc => ite_keeps (P := fun x : Nat × Core => CoreOk x.2) (closeCore_ok hc) hc
  have h2 : MemoryOk s2 := .ite h1 h1.modPart
  exact .ite h2 (h2.foldl fun _ _ h => h.debugResume)
protected theorem MemoryOk.vendor {mailbox r} (h : MemoryOk s) : MemoryOk (vendor s mailbox r) := by
  unfold vendor
  split
  · exact h.answer
  · refine .ite h.answer ?_
    dsimp only
    split
    · exact .ite h.modPart.answer h.answer
    · exact .ite h.modPart.applyPolicy.answer h.answer

/-! ### Cuts -/

protected theorem MemoryOk.setPreempt {p b} (h : MemoryOk s) : MemoryOk (setPreempt s p b) :=
  h.mapCores fun _ hc => ite_keeps (P := fun x : Nat × Core => CoreOk x.2) hc hc
protected theorem MemoryOk.startCut {p stop} (h : MemoryOk s) : MemoryOk (startCut s p stop) := .ite h h.setPreempt.modPart
protected theorem MemoryOk.writeBackAll {p} (h : MemoryOk s) : MemoryOk (writeBackAll s p) := h.dropReplicas.flushRange
theorem cutImage_frames {p log links asks} :
    (cutImage s p log links asks).frames = keep s.hbm (inRanges (partAt s p).granted) := rfl
theorem cutImage_cores {p log links asks} :
    (cutImage s p log links asks).cores = (coresOf s p).map fun n => (n, cutCore (coreAt s n)) := by
  simp only [cutImage]
theorem cutImage_clus {p log links asks} :
    (cutImage s p log links asks).clus =
      (keep s.clusters (partAt s p).clusters.contains).map fun (e : Nat × Cluster) => (e.1, cutCluster e.2) := rfl
theorem MemoryOk.imageOk_cutImage {p log links asks} (h : MemoryOk s) : ImageOk (cutImage s p log links asks) := by
  unfold ImageOk
  rw [cutImage_frames, cutImage_cores, cutImage_clus]
  refine ⟨wf_filter _ h.wf_hbm, fun x hx => ?_, fun x hx => ?_⟩
  · obtain ⟨n, -, rfl⟩ := List.mem_map.mp hx
    exact h.coreAt (n := n)
  · obtain ⟨e, he, rfl⟩ := List.mem_map.mp hx
    exact h.clusters_ok e (List.mem_of_mem_filter he)
protected theorem MemoryOk.recordUnit {p dst c} (h : MemoryOk s) : MemoryOk (recordUnit s p dst c).1 :=
  ite_keeps (P := fun x : State × Cut => MemoryOk x.1) (h.foldl fun _ _ h => h.applyNoted) h
protected theorem MemoryOk.finishCut {p c} (h : MemoryOk s) : MemoryOk (finishCut s p c) := by
  refine .ite ?_ h.modPart
  extract_lets s1 im s2 s3
  have h1 : MemoryOk s1 := h.writeBackAll
  have him : ImageOk im := h1.imageOk_cutImage
  have h2 : MemoryOk s2 := h1.foldl fun _ _ h => h.applyNoted
  have h3 : MemoryOk s3 := h2.modPartWith fun _ _ _ e => Option.some.inj e ▸ him
  exact .ite h3.other h3.setPreempt
protected theorem MemoryOk.markerAt {p src dst} (h : MemoryOk s) : MemoryOk (markerAt s p src dst) := by
  unfold markerAt
  split
  · exact h
  · exact .ite h h.recordUnit.finishCut
protected theorem MemoryOk.restoreCopies {clu l} (h : MemoryOk s) : MemoryOk (restoreCopies s clu l) := by
  induction l generalizing s with
  | nil => exact h
  | cons c l ih =>
    unfold restoreCopies
    extract_lets c' hull s1
    have h1 : MemoryOk s1 := h.foldl fun _ _ h => h.modSlice
    exact ih (.modClu h1.other)
theorem restoreReport_ok {q r} (h : PartOk q) : PartOk (restoreReport q r) := ite_keeps (P := PartOk) h h
protected theorem MemoryOk.restoreHosts {l} (h : MemoryOk s) : MemoryOk (restoreHosts s l) := h.foldl fun _ _ h => h.keepAccess
protected theorem MemoryOk.restoreCut {p im} (h : MemoryOk s) (him : ImageOk im) : MemoryOk (restoreCut s p im) := by
  unfold restoreCut
  extract_lets q s1 s2 s3 s4 s5 s6
  have h1 : MemoryOk s1 := by
    obtain ⟨hhbm, hhost, hpeer, hcores, hclus, hparts⟩ := h
    obtain ⟨hframes, hicores, hiclus⟩ := him
    refine ⟨wf_overlay _ hhbm hframes, hhost, hpeer, List.forall_mem_map.mpr fun e he => ?_, ?_, hparts⟩
    · split
      · next heq =>
        have hc := of_ffind (P := CoreOk) hicores heq
        exact hc
      · exact hcores e he
    · exact List.foldlRecOn (motive := fun m : FMap Cluster => ∀ e ∈ m, ClusterOk e.2) im.clus _ hclus
        fun _ hm e he => fset_all (P := ClusterOk) (v := { e.2 with copies := [] }) (hiclus e he) hm
  have h2 : MemoryOk s2 := h1.foldl fun _ _ h => h.modSP
  have h3 : MemoryOk s3 := h2.foldl fun _ _ h => h.modSlice
  have h4 : MemoryOk s4 := h3.foldl fun _ _ h => h.modSlice
  have h5 : MemoryOk s5 := h4.modPartWith fun q hq => foldl_keeps (P := PartOk) (fun _ _ h => restoreReport_ok h) hq
  have h6 : MemoryOk s6 := h5.foldl fun _ _ h => h.restoreCopies
  exact .setPreempt (h6.restoreHosts.foldl fun _ _ h => h.applyNoted)

/-! ### Loads -/

/-- Where the loader's access is performed or refused, the state keeps its memories in canonical form. -/
def LoadMemOk : LoadMem → Prop
  | .ok s _ | .refused s => MemoryOk s
  | .late => True
theorem LoadMemOk.of_eq {r r' : LoadMem} (h : LoadMemOk r) (e : r = r') : LoadMemOk r' := e ▸ h
protected theorem LoadMemOk.ite {c : Prop} {_ : Decidable c} {r r' : LoadMem} (h : LoadMemOk r) (h' : LoadMemOk r') :
    LoadMemOk (if c then r else r') := ite_keeps h h'
protected theorem MemoryOk.loadBytes {p va n} (h : MemoryOk s) : LoadMemOk (loadBytes p va n s) := by
  induction n with
  | zero => exact h
  | succ n ih =>
    unfold loadBytes
    split
    · next s1 _ heq =>
      have h1 : MemoryOk s1 := ih.of_eq heq
      split
      · next heq => exact (h1.performRead.of_eq heq : PResOk (.done _ _ _))
      · next heq => exact (h1.performRead.of_eq heq : PResOk (.refuse _ _ _))
      · next heq => exact (h1.performRead.of_eq heq : PResOk (.refuseVal _ _ _ _))
      · trivial
    · exact ih
protected theorem MemoryOk.loadByte {p va v} (h : MemoryOk s) : LoadMemOk (loadByte s p va v) := by
  unfold loadByte
  extract_lets home k tr
  have htr : TransOk tr := by
    dsimp only [tr]
    split
    · next s1 heq =>
      have h1 : MemoryOk s1 := h.translate.of_eq heq
      exact ite_keeps h1.walk h1
    · exact h.translate
  clear_value tr
  split
  · next s1 u =>
    have h1 : MemoryOk s1 := htr
    refine .ite h1.hostStore ?_
    split
    · exact h1
    · trivial
    · trivial
    · next s2 heq =>
      extract_lets s3 s4 s5
      have h2 : MemoryOk s2 := h1.fillHome.ok heq
      have h3 : MemoryOk s3 := .ite h2.recallAll h2
      have h4 : MemoryOk s4 := h3.putHome
      have h5 : MemoryOk s5 := .ite h4.setWsFull h4
      exact MemoryOk.ite h5.fireMonitor h5
  · exact htr
  · trivial
  · trivial
  · trivial
  · trivial
protected theorem MemoryOk.storeBytes {p l va} (h : MemoryOk s) : LoadMemOk (storeBytes p l s va) := by
  induction l generalizing s va with
  | nil => exact h
  | cons b l ih =>
    unfold storeBytes
    split
    · next heq => exact ih (h.loadByte.of_eq heq : LoadMemOk (.ok _ _))
    · exact h.loadByte
protected theorem MemoryOk.storeParts {p l} (h : MemoryOk s) : LoadMemOk (storeParts p l s) := by
  induction l generalizing s with
  | nil => exact h
  | cons x l ih =>
    unfold storeParts
    refine .ite ?_ (ih h)
    split
    · next heq => exact ih (h.storeBytes.of_eq heq : LoadMemOk (.ok _ _))
    · exact h.storeBytes
theorem fillTcm_ok {r n} {c : Core} (h : CoreOk c) : CoreOk (fillTcm r n c) := by
  unfold fillTcm
  extract_lets c1 put
  have hput (m : FMap Byte) (x : Nat × Nat × List Byte) (hm : Memory.wf m = true) : Memory.wf (put m x) = true :=
    ite_keeps (P := fun m : FMap Byte => Memory.wf m = true) (wf_writeBytes _ _ _ hm) hm
  clear_value put
  exact ite_keeps (P := CoreOk) h (foldl_keeps (P := fun m : FMap Byte => Memory.wf m = true) hput h)
protected theorem MemoryOk.placeAll {p r} (h : MemoryOk s) : MemoryOk (placeAll s p r) := by
  unfold placeAll
  extract_lets s1
  have h1 : MemoryOk s1 := h.mapCores fun _ hc => ite_keeps (P := fun x : Nat × Core => CoreOk x.2) (fillTcm_ok hc) hc
  split
  · exact h1.setBodytab
  · exact h1
protected theorem MemoryOk.endLoad {p code kind off idx} (h : MemoryOk s) : MemoryOk (endLoad s p code kind off idx) :=
  h.modPart.interrupt
protected theorem MemoryOk.loadOn {p} (h : MemoryOk s) : MemoryOk (loadOn s p) := by
  unfold loadOn
  -- Which image is chosen does not matter here: the proof is one about any choice, and the kernel unfolds none.
  generalize chooseImage = choose
  as_aux_lemma =>
  split
  · exact h
  extract_lets obj
  refine .ite h.endLoad ?_
  split
  · exact h
  · next s1 heq =>
    have h1 : MemoryOk s1 := h.loadBytes.of_eq heq
    exact h1.endLoad
  next s1 b1 heq =>
  have h1 : MemoryOk s1 := h.loadBytes.of_eq heq
  refine .ite h1.endLoad ?_
  split
  · exact h1
  · next s2 heq =>
    have h2 : MemoryOk s2 := h1.loadBytes.of_eq heq
    exact h2.endLoad
  next s2 b2 heq =>
  have h2 : MemoryOk s2 := h1.loadBytes.of_eq heq
  refine .ite h2.endLoad ?_
  split
  · exact h2
  · next s3 heq =>
    have h3 : MemoryOk s3 := h2.loadBytes.of_eq heq
    exact h3.endLoad
  next s3 b3 heq =>
  have h3 : MemoryOk s3 := h2.loadBytes.of_eq heq
  split
  · exact h3.endLoad
  split
  · exact h3
  · next s4 heq =>
    have h4 : MemoryOk s4 := h3.storeParts.of_eq heq
    exact h4.endLoad
  · next s4 _ heq =>
    have h4 : MemoryOk s4 := h3.storeParts.of_eq heq
    exact h4.placeAll.endLoad
protected theorem MemoryOk.loadRec {p r} (h : MemoryOk s) : MemoryOk (loadRec s p r) :=
  .ite h (.ite h.modPart h.modPart.loadOn)

/-! ### The window of a partition -/

protected theorem MemoryOk.windowDo {p id r} (h : MemoryOk s) : MemoryOk (windowDo s p id r) := by
  unfold windowDo
  extract_lets note
  have hnote (i l) : MemoryOk (note i l) := h.modPart
  clear_value note
  split
  · exact h.modPart
  refine .ite h ?_
  split
  · exact (hnote _ _).launchRec
  · exact (hnote _ _).loadRec
  · exact (hnote _ _).releaseStopped
  · exact .ite h.moduleWrite h
  · exact h
protected theorem MemoryOk.windowReq {p r} (h : MemoryOk s) : MemoryOk (windowReq s p r) :=
  .ite (.modPart h.other) (.windowDo h.other)
protected theorem MemoryOk.windowOn {p} (h : MemoryOk s) : MemoryOk (windowOn s p) := by
  unfold windowOn
  split
  · exact h
  · exact .ite h h.modPart.windowDo

/-! ## Instructions and the step -/

/-! ### Effects of one instruction: control, lanes and accumulators -/

protected theorem MemoryOk.goTo {v} (h : MemoryOk s) : MemoryOk (goTo s v) := .ite h h.trace.modCur
protected theorem MemoryOk.branchIf {i f c} (h : MemoryOk s) : NextOk (branchIf s i f c) := h.issue fun _ h => .ite h.goTo h
protected theorem MemoryOk.lanesOut {gp rd g} (h : MemoryOk s) : MemoryOk (lanesOut s gp rd g) := h.putVF
protected theorem MemoryOk.laneOp {i gp f fl int} (h : MemoryOk s) : NextOk (laneOp s i gp f fl int) :=
  h.issue fun _ h => .ite h.putV h.lanesOut
protected theorem MemoryOk.bitsOp {i gp f g} (h : MemoryOk s) : NextOk (bitsOp s i gp f g) := h.issue fun _ h => h.putV
protected theorem MemoryOk.shiftImm {i gp f g} (h : MemoryOk s) : NextOk (shiftImm s i gp f g) := h.issue fun _ h => h.putV
protected theorem MemoryOk.predOp {i gp f g} (h : MemoryOk s) : NextOk (predOp s i gp f g) := h.issue fun _ h => h.putP
protected theorem MemoryOk.specialOp {i gp f g} (h : MemoryOk s) : NextOk (specialOp s i gp f g) :=
  h.issue fun _ h => h.lanesOut
protected theorem MemoryOk.putAcc {gp rd kind g} (h : MemoryOk s) : MemoryOk (putAcc s gp rd kind g) := h.modCur
protected theorem MemoryOk.intRR {i gp f g} (h : MemoryOk s) : NextOk (intRR s i gp f g) := h.issue fun _ h => h.putX
protected theorem MemoryOk.intRI {i gp f g} (h : MemoryOk s) : NextOk (intRI s i gp f g) := h.issue fun _ h => h.putX
protected theorem MemoryOk.intShift {i gp f g} (h : MemoryOk s) : NextOk (intShift s i gp f g) := h.issue fun _ h => h.putX
protected theorem MemoryOk.floatOp {i gp f g} (h : MemoryOk s) : NextOk (floatOp s i gp f g) := h.issue fun _ h => h.putXF

/-! ### Instructions and events whose own text branches -/

protected theorem MemoryOk.execLdv {f} (h : MemoryOk s) : NextOk (execLdv f s) := h.issue fun s h => by
  extract_lets a rd s1
  have h1 : MemoryOk s1 := h.modCur
  split
  · exact h1.sendV
  · exact h1.submit
  · exact h1.submit
protected theorem MemoryOk.execStv {f} (h : MemoryOk s) : NextOk (execStv f s) := h.issue fun s h => by
  extract_lets a v
  split
  · exact h.tcmWrite
  · exact h.submit
protected theorem MemoryOk.execSunbind {f} (h : MemoryOk s) : NextOk (execSunbind f s) := h.issue fun s h => by
  dsimp only
  split
  · exact h
  · exact .modCur h.other
protected theorem MemoryOk.execCopyComplete {clu n} (h : MemoryOk s) : NextOk (execCopyComplete clu n s) := by
  refine .ite trivial ?_
  split
  · exact h
  · exact MemoryOk.ite h h.copyGo
protected theorem MemoryOk.execCutResume {p} (h : MemoryOk s) : NextOk (execCutResume p s) := by
  refine .ite trivial ?_
  change MemoryOk _
  split
  · next im heq => exact .ite (h.restoreCut (h.partAt im heq)) h
  · exact h
protected theorem MemoryOk.execFinish {mailbox verified} (h : MemoryOk s) : NextOk (execFinish mailbox verified s) :=
  .ite trivial (MemoryOk.ite (.answer h.dropKey.other) (.answer h.other))
protected theorem MemoryOk.execOverlayFetch {n k} (h : MemoryOk s) : NextOk (execOverlayFetch n k s) :=
  .ite trivial (h.within fun _ h => .ite h.takeTrap h)
protected theorem MemoryOk.execUnassignedBundle {n k} (h : MemoryOk s) : NextOk (execUnassignedBundle n k s) := by
  refine .ite trivial (h.within fun s h => .ite ?_ h)
  split
  · next heq => exact (h.fetchNext.ofSnd heq).takeTrap
  · exact h

/-- Whatever one instruction or event does, it keeps the memories in canonical form. -/
protected theorem MemoryOk.exec {i} (h : MemoryOk s) : NextOk (exec i s) := by
  unfold exec
  cases i with
  | add | sub | and | or | xor | sll | srl | sra | slt | sltu | min | max | minu | maxu | mul | mulh | mulhu | div | divu
  | rem | remu | addsh | clz | ctz | popc | bext | bdep => exact h.intRR
  | addi | andi | ori | xori | slti | sltiu => exact h.intRI
  | slli | srli | srai => exact h.intShift
  | fadd | fsub | fmul | fdiv | fsqrt | fma | fmin | fmax | fcmp => exact h.floatOp
  | sel | li | lih | fclass | vext | pcnt | pfirst | vnzc => exact h.issue fun _ h => h.putX
  | fcvt | vred => exact h.issue fun _ h => h.putXF
  | pset | vbmap => exact h.issue fun _ h => h.putP
  | vcmp => exact h.issue fun _ h => h.putPF
  | pand | por | pxor | pnot => exact h.predOp
  | vadd | vsub | vmul | vfma | vmin | vmax => exact h.laneOp
  | vabs | vneg | vand | vor | vxor | vsll | vsrl | vsra => exact h.bitsOp
  | vsllImm | vsrlImm | vsraImm => exact h.shiftImm
  | vexp2 | vrcp | vrsq | vlog2 => exact h.specialOp
  | vsel | vbcast | vperm | vpackb | vunpkb | vunpkbZx8 | vidx | vidxI32 | amovFromAcc => exact h.issue fun _ h => h.putV
  | vcvt | vnar => exact h.issue fun _ h => h.lanesOut
  | vmac => exact h.issue fun _ h => .ite h.putAcc h.putAcc.modCur
  | amovToAcc => exact h.issue fun _ h => h.putAcc
  | aclr | tret => exact h.issue fun _ h => h.modCur
  | br | jr => exact h.issue fun _ h => h.goTo
  | brl | jrl => exact h.issue fun _ h => h.goTo.modCur
  | bcEq | bcNe | bcLt | bcGe | bcLtu | bcGeu => exact h.branchIf
  | bcz => exact h.issue fun _ h => .ite h.goTo h
  | loop => exact h.issue fun _ h => .ite h.modCur.goTo h.modCur
  | crrd => exact h.issue fun _ h => .ite h.modCur.sendLate h.modCur
  | crwr | crsetb | crclrb => exact h.issue fun _ h => h.crWrite
  | waitf | ropeck => exact h.issue fun _ h => h
  | synci => exact h.issue fun _ h => h.modCore
  | ldb | ldbu | ldh | ldhu | ldw | ldwu | ldd => exact h.issue fun _ h => h.loadEff
  | stb | sth | stw | std => exact h.issue fun _ h => h.storeEff
  | ldaq | ldvx => exact h.issue fun _ h => h.modCur.submit
  | stvx | wsclr | publ => exact h.issue fun _ h => h.submit
  | strl => exact h.issue fun _ h => h.submitRel
  | ldv => exact h.execLdv
  | stv => exact h.execStv
  | pref => exact h.issue fun _ h => h.foldl fun _ _ h => h.prefLine
  | invr => exact h.issue fun _ h => h.dropWhere
  | wbr => exact h.issue fun _ h => h.cleanWhere
  | amoadd | amoand | amoor | amoxor | amomin | amomax | amominu | amomaxu | amoswp | amocas | amofadd | amoaddt =>
    exact h.issue fun _ h => h.amoEff
  | fence => exact h.issue fun _ h => h.fenceEff
  | sbind => exact h.issue fun _ h => h.modCur.readAhead
  | sunbind => exact h.execSunbind
  | sigclr => exact h.issue fun _ h => h.sigClear
  | regset => exact h.issue fun _ h => .ite h.waitAgain h.dropRegion.dropRegion.setRegion
  | regclr => exact h.issue fun _ h => .ite h.waitAgain h.dropRegion.setRegion
  | retype => exact h.issue fun _ h => h.retypeEff
  | xinv => exact h.issue fun _ h => h.xinvEff
  | cpy | cpy2 | cpym | cpyw => exact h.issue fun _ h => h.copyEff
  | cpyq => exact h.issue fun _ h => h.modCur.settleCpyq
  | spawn | spawnh | send | sendg => exact h.readEntry.issue fun _ h => h.recordEff
  | take | steal | stealAny => exact h.issue fun _ h => h.takeSteal
  | qdepth | semtry => exact h.issue fun _ h => h.modCur.ask
  | qdepthIn => exact h.issue fun _ h => h.modCur.sendX
  | tend | tabort => exact h.issue fun _ h => h.tendEff
  | gjoin => exact h.issue fun _ h => .ite h h.modCore.setMembers.refreshInh
  | gleave => exact h.issue fun _ h => .ite h.waitAgain h.modCore.setMembers.settlePhase.refreshInh
  | gtag | prio => exact h.issue fun _ h => h.modCur.refreshInh
  | garrive => exact h.issue fun _ h => h.sendArrival
  | gwait => exact h.issue fun _ h => h.waitPhase
  | gbar => exact h.issue fun _ h => .ite h.waitPhase (.refreshInh (.waitAgain (.ite h h.sendArrival)))
  | treel => exact h.issue fun _ h => .modCur h.releaseAll.other
  | wfa => exact h.issue fun _ h => .ite h.modCur.modCur.sendX h.modCur.waitAgain
  | semp => exact h.issue fun _ h => h.waitRelease.ask
  | semv => exact h.issue fun _ h => h.releaseAll.waitRelease.ask
  | rope => exact h.issue fun _ h => h.ropeEff
  | unrope => exact h.issue fun _ h => h.endRope.acquireAll
  | belay => exact h.issue fun _ h => h.modClu.waitRelease
  | unbelay => exact h.issue fun _ h => h.endLease
  | mwait => exact h.issue fun _ h => h.acquireAll
  | mstat => exact h.issue fun _ h => h.modCur.sendLate
  | mgath | mldb | mmul | mmuls | mscale | mstore | mclr => exact h.issue fun _ h => h.commandEff
  | npcfg => exact h.issue fun _ h => h.sendPred.waitRelease
  | npred | ncheck => exact h.issue fun _ h => h.modCur.sendPred
  | trap => exact h.issue fun _ h => h.takeTrap
  | dbrk => exact h.issue fun _ h => .ite h.debugStop h.takeTrap
  | upcret => exact h.issue fun _ h => h.upcretEff
  | ctxsave => exact h.issue fun _ h => h.ctxsaveEff
  | ctxload => exact h.issue fun _ h => h.ctxloadEff
  | replayall => exact h.issue fun _ h => h.replayEff
  | launchTreeMessage => exact h.launchAt
  | arrayCommandStart => exact .ite trivial h.startCommand
  | valueArrival => exact .ite trivial h.valueArrives
  | refusal => exact .ite trivial h.refusalTaken
  | budget => exact .ite trivial h.budgetTaken
  | enqueue => exact h.enqueueAt
  | retirement => exact h.retireAt
  | inboundDelivery => exact .ite trivial h.deliverInbound
  | upcallStart => exact .ite trivial h.startUpcall
  | pageWalk => exact .ite trivial h.walkAt
  | monitorRewalk => exact .ite trivial h.rewalkAll
  | transientTimeout => exact h.attemptFails
  | persistentActivate => exact .ite trivial h.activate
  | copyComplete => exact h.execCopyComplete
  | belayGrant => exact .ite trivial h.grantBelay
  | powerLeaveGrant => exact .ite trivial h.grantLeave
  | limitChange => exact .ite trivial h.modDie
  | preemptionRequest | preemptionLift => exact .ite trivial h.modCore
  | consistentCut => exact .ite trivial h.startCut
  | marker => exact .ite trivial h.markerAt
  | cutResume => exact h.execCutResume
  | launchRecord | loadRecord | releaseRecord => exact .ite trivial h.windowReq
  | debugRegisterWrite => exact .ite trivial (MemoryOk.ite h.windowReq h)
  | hostRead => exact .ite trivial (.ite (.ite trivial h.hostRequest) (.ite trivial h.windowReq))
  | hostWrite => exact .ite trivial h.hostRequest
  | partitionCreate => exact .ite trivial h.createPart
  | partitionTeardown => exact .ite trivial h.teardown
  | coldStart => exact h.coldState
  | warmStart => exact h.warmState
  | getVersion | getCapabilities | negotiateAlgorithms | getDigests | getCertificate => exact h.spdmAnswer
  | challenge => exact .ite trivial h.signed
  | getMeasurements => exact .ite trivial h.measure
  | keyExchange => exact .ite trivial (MemoryOk.ite h.signed h.signed.other)
  | finish => exact h.execFinish
  | endSession => exact .ite trivial (MemoryOk.answer h.dropKey.other)
  | vendorDefinedRequest => exact .ite trivial h.vendor
  | halt => exact .ite trivial (MemoryOk.ite h.debugStop h)
  | resume => exact .ite trivial (MemoryOk.ite h.debugResume h)
  | sampleTick => exact .ite trivial (.ite h h.writeSample.modPart)
  | hbmReadError => exact h.readError
  | hbmRetry => exact h.retryDone
  | lifetimeFlush => exact MemoryOk.ite h.sensed.other h.sensed
  | counterRead => exact h.sensed.other
  | overlayFetch => exact h.execOverlayFetch
  | unassignedBundle => exact h.execUnassignedBundle
  | tdispRequest => exact .ite trivial (MemoryOk.ite h.modPart h)
  | peerRequest => exact h.peerServe
  | pcieLinkDown => exact h.other
  | dumpRequest => exact .ite trivial (MemoryOk.ite h.dumpCore h)

/-! ### A step -/

protected theorem NextOk.andThen {o f} (ho : NextOk o) (hf : ∀ s, MemoryOk s → NextOk (f s)) : NextOk (andThen o f) := by
  cases o with
  | next s => exact hf s ho
  | fault | refused => trivial
protected theorem MemoryOk.effectAgain {w} (h : MemoryOk s) : NextOk (effectAgain s w) := by
  unfold effectAgain
  split
  · exact h.recordEff
  · exact h.ropeEff
  · exact h.exec
protected theorem MemoryOk.wakeAgain {n k w} (h : MemoryOk s) : NextOk (wakeAgain s n k w) :=
  NextOk.andThen (MemoryOk.effectAgain (.modCtx h.other)) fun _ h => MemoryOk.modCtx h.other
protected theorem MemoryOk.wakeHalf {n k w a} (h : MemoryOk s) : NextOk (wakeHalf s n k w a) :=
  have h1 {l c x} : MemoryOk (modCtx { s with core := n, ctx := k, latch := l } n k c) → MemoryOk
    { modCtx { s with core := n, ctx := k, latch := l } n k c with tail := x } := fun h => h.other
  NextOk.andThen (MemoryOk.exec (MemoryOk.popAll (h1 (.modCtx h.other)))) fun _ h => h.endBundle.other
protected theorem MemoryOk.wakeCtx {n k} (h : MemoryOk s) : NextOk (wakeCtx s n k) := by
  unfold wakeCtx
  split
  · exact h
  split
  · exact h.wakeAgain
  · split
    · exact h.wakeHalf
    · exact h
  · exact MemoryOk.ite h h.makeDormant
  · split
    · exact MemoryOk.ite h.modCtx h
    · exact h
protected theorem MemoryOk.doWork {w} (h : MemoryOk s) : NextOk (doWork s w) := by
  cases w with
  | event => exact h.exec
  | trapNow =>
    dsimp only [doWork]
    split
    · exact MemoryOk.ite h h.takeTrapAt
    · exact h
  | wake => exact h.wakeCtx
  | begin =>
    dsimp only [doWork]
    split
    · exact h.startBody
    · exact h
  | go =>
    dsimp only [doWork]
    split
    · exact h.runAny
    · exact h
  | part =>
    dsimp only [doWork]
    split
    · exact h.runPart
    · exact h
  | accept =>
    dsimp only [doWork]
    split
    · exact MemoryOk.ite h.acceptStore h
    · exact h
  | loaded =>
    dsimp only [doWork]
    split
    · exact h.ctxloadEnd
    · exact h
  | ctl => exact h.doOp
  | advert => exact h.modSP
  | activate => exact h.activate
  | reach => exact h.reachBank
  | bank => exact h.grantBank
  | serve => exact h.reqOn
  | predict => exact h.servePred
  | ahead => exact h.aheadOn
  | copyNext => exact h.copyNext
  | copyWord => exact h.copyWord
  | writeRow => exact h.writeRow
  | launch => exact h.launchOn
  | load => exact h.loadOn
  | dumps => exact h.dueDumps
  | window => exact h.windowOn
  | peer => exact h.peerOn
  | evictL1 => exact h.dropL1
  | evictHome => exact h.evictHome
  | prefetch => exact h.stridePrefetch
  | fillPref => exact h.prefCome
  | hbmRetry => exact h.retryDone
protected theorem MemoryOk.runHalves {c a} (h : MemoryOk s) : NextOk (runHalves s c a) := by
  unfold runHalves
  split
  · exact h.exec.andThen fun _ h => h.popAll.exec
  · exact (MemoryOk.exec h.other).andThen fun _ h => .ite h.modCur (MemoryOk.exec h.popAll.other)
  · exact .ite (h.popAll.exec.andThen fun _ h => h.exec) (h.popAll.exec.andThen fun _ h => h.exec)
protected theorem MemoryOk.runBundle {is} (h : MemoryOk s) : NextOk (runBundle s is) := by
  unfold runBundle
  split
  · extract_lets s1 l
    have h1 : MemoryOk s1 := h.readEntry
    split
    · exact h1
    · exact h1.trapIssue
    · exact h1.begin.runHalves.andThen fun _ h => h.endBundle.watch
  · exact h.exec
  · exact h
protected theorem MemoryOk.runForwarded {b} (h : MemoryOk s) : NextOk (runForwarded s b) :=
  h.modCur.runBundle.andThen fun _ h => MemoryOk.ite h.thaw.modCur h
protected theorem MemoryOk.runNext (h : MemoryOk s) : NextOk (runNext s) := by
  unfold runNext
  split
  · exact .ite h.debugStop h.takeTrap
  · extract_lets s1
    have h1 : MemoryOk s1 := .ite h.modCur h
    clear_value s1
    split
    · exact h1.runForwarded
    split
    · exact h1.execOverlayFetch
    · exact h1.execUnassignedBundle
    · next heq => exact (h1.fetchNext.ofSnd heq).runBundle
protected theorem MemoryOk.served {n k} (h : MemoryOk s) : MemoryOk (served s n k) := h.modCore
protected theorem MemoryOk.passed {l} (h : MemoryOk s) : MemoryOk (passed s l) := h.foldl fun _ _ h => h.modCore
protected theorem MemoryOk.issueStep (h : MemoryOk s) : NextOk (issueStep s) := by
  unfold issueStep
  split
  · exact h.passed.other
  · exact MemoryOk.runNext h.passed.served.other
protected theorem MemoryOk.step (h : MemoryOk s) : NextOk (step s) := by
  unfold step
  split
  · exact MemoryOk.exec h.other
  split
  · exact .ite trivial (.ite h h.writeSample.modPart)
  split
  · exact .ite trivial h.budgetTaken
  split
  · exact h.doWork
  split
  · exact h.issueStep
  · dsimp only
    split
    · exact h.freeDword.doWork
    · exact h.freeDword.issueStep
end
end Sys2Proof.Machine

namespace Sys2Proof

/-- Settles O59, by the rule for a step (`Machine.MemoryOk.step`). -/
theorem stepKeepsMemoryOk : Obligations.StepKeepsMemoryOk := by
  intro s t h e
  exact h.step.of_eq e

/-- Settles O6: with an event from outside at hand, a step is that event's own execution. -/
theorem stepRunsTheScheduledEvent : Obligations.StepRunsTheScheduledEvent := by
  intro s i l h
  unfold Machine.step
  rw [h]

end Sys2Proof

/-! # Tasks, their queues, and what reaches a core without an instruction

The statements O40 to O43, O53 and O54. Two relations carry most frames: `SameButCaches` says what the writeback and the
dropping of cache lines leave, and `OperandsRead` what reading the operands of a bundle leaves. An instruction that
issues performs its effect on a state of the second kind (`gives_of_issue`). -/

namespace Sys2Proof.Machine
section
variable {s t u r : State}

/-! ## What the writeback and the dropping of cache lines leave -/

/-- `t` is `s` but for lines of L1s, the prefetch counters of their cores, and the lines' homes. -/
structure SameButCaches (s t : State) : Prop where
  units : { t with cores := s.cores, slices := s.slices, peerMem := s.peerMem } = s
  cores : ∀ n, { coreAt t n with l1 := [], counters := [] } = { coreAt s n with l1 := [], counters := [] }

namespace SameButCaches

protected theorem refl (s : State) : SameButCaches s s := ⟨rfl, fun _ => rfl⟩
protected theorem trans (h : SameButCaches s t) (g : SameButCaches t u) : SameButCaches s u where
  units := (congrArg (fun x : State => { x with cores := s.cores, slices := s.slices, peerMem := s.peerMem }) g.units).trans
    h.units
  cores n := (g.cores n).trans (h.cores n)
protected theorem ite {c : Prop} [Decidable c] (h : SameButCaches s t) (g : SameButCaches s u) :
    SameButCaches s (if c then t else u) := by
  split
  · exact h
  · exact g
protected theorem foldl {α : Type} {f : State → α → State} (hf : ∀ s e, SameButCaches s (f s e)) (l : List α) (s : State) :
    SameButCaches s (l.foldl f s) := foldl_keeps (fun t e (h : SameButCaches s t) => h.trans (hf t e)) (.refl s)
/-- A write of one core's L1 and counters. -/
theorem of_modCore (s : State) (n : Nat) {f : Core → Core}
    (hf : ∀ c, { f c with l1 := [], counters := [] } = { c with l1 := [], counters := [] }) :
    SameButCaches s (modCore s n f) where
  units := rfl
  cores j := by
    rw [coreAt_modCore]
    split
    · next h => rw [hf, h]
    · rfl

theorem setHome (s : State) (k : Nat) (l : HomeLine) : SameButCaches s (setHome s k l) := ⟨rfl, fun _ => rfl⟩
theorem modHome (s : State) (k : Nat) (f : HomeLine → HomeLine) : SameButCaches s (modHome s k f) := by
  unfold Machine.modHome
  split
  · exact setHome s k _
  · exact .refl s
theorem putHome (s : State) (k off n v : Nat) : SameButCaches s (putHome s k off n v) := by
  unfold Machine.putHome
  split
  · exact .refl s
  · exact .ite ⟨rfl, fun _ => rfl⟩ (setHome s k _)
theorem mergeHome (s : State) (k : Nat) (d : LineData) (m : BitVec 64) : SameButCaches s (mergeHome s k d m) :=
  .foldl (fun s i => .ite (putHome s k i 1 _) (.refl s)) _ s
theorem setL1 (s : State) (n k : Nat) (l : L1Line) : SameButCaches s (setL1 s n k l) := of_modCore s n fun _ => rfl
theorem delL1 (s : State) (n k : Nat) : SameButCaches s (delL1 s n k) := of_modCore s n fun _ => rfl
theorem bump (s : State) (n i : Nat) : SameButCaches s (bump s n i) := of_modCore s n fun _ => rfl
theorem cleanL1 (s : State) (n k : Nat) : SameButCaches s (cleanL1 s n k) := by
  unfold Machine.cleanL1
  split
  · exact .refl s
  · exact .ite (.refl s) ((mergeHome s k _ _).trans (setL1 _ n k _))
theorem dropL1 (s : State) (n k : Nat) : SameButCaches s (dropL1 s n k) := by
  unfold Machine.dropL1
  split
  · exact .refl s
  · refine .trans ?_ (delL1 _ n k)
    have hhome := fun f => (cleanL1 s n k).trans (modHome _ k f)
    split
    · exact (hhome _).trans (bump _ n _)
    · exact hhome _
theorem releaseAll (s : State) (n : Nat) : SameButCaches s (releaseAll s n) :=
  SameButCaches.foldl (fun s (e : Nat × L1Line) => .ite (cleanL1 s n e.1) (.refl s)) _ s
theorem dropWhere (s : State) (n : Nat) (p : Nat → L1Line → Bool) : SameButCaches s (dropWhere s n p) :=
  SameButCaches.foldl (fun s (e : Nat × L1Line) => .ite (dropL1 s n e.1) (.refl s)) _ s
theorem acquireAll (s : State) (n : Nat) : SameButCaches s (acquireAll s n) := dropWhere s n _
theorem acquireRange (s : State) (n lo hi : Nat) : SameButCaches s (acquireRange s n lo hi) := dropWhere s n _

theorem ctxAt (h : SameButCaches s t) (n k : Nat) : ctxAt t n k = ctxAt s n k :=
  (congrArg (fun c : Core => fget {} c.ctxs k) (h.cores n) :)
theorem partOf (h : SameButCaches s t) (n : Nat) : partOf t n = partOf s n :=
  (congrArg (fun c : Core => c.part.getD 0) (h.cores n) :)

end SameButCaches

/-! ## A bundle's operands have been read -/

/-- `r` is `s` with the operands of a bundle read that pops no beat: the bundle being issued, the pc of the next one and
bundles forwarded to seconds may differ (R62, R83). -/
structure OperandsRead (s r : State) : Prop where
  units : KeptUnits s r
  cores : KeptCores s r
  ctxs : ∀ n k, { ctxAt r n k with npc := 0, fwd := [] } = { ctxAt s n k with npc := 0, fwd := [] }

theorem operandsRead_reading {i : Instr} (h : popped s [i] = []) : OperandsRead s (reading s i) := by
  rw [reading_of_unpopped h]
  obtain ⟨hunits, hcores, hothers, w, hown⟩ := begin_kept s i
  refine ⟨hunits, hcores, fun n k => ?_⟩
  by_cases hnk : (n, k) = (s.core, s.ctx)
  · obtain ⟨rfl, rfl⟩ := Prod.mk.inj hnk
    rw [hown]; rfl
  · exact (congrArg (fun c : Ctx => { c with npc := 0 }) (hothers n k hnk) :)

namespace OperandsRead

theorem core (h : OperandsRead s r) : r.core = s.core := (congrArg State.core h.units :)
theorem ctx (h : OperandsRead s r) : r.ctx = s.ctx := (congrArg State.ctx h.units :)
theorem parts (h : OperandsRead s r) : r.parts = s.parts := (congrArg State.parts h.units :)
theorem clusters (h : OperandsRead s r) : r.clusters = s.clusters := (congrArg State.clusters h.units :)
theorem accesses (h : OperandsRead s r) : r.accesses = s.accesses := (congrArg State.accesses h.units :)
theorem partAt (h : OperandsRead s r) (p : Nat) : partAt r p = partAt s p := by
  rw [Machine.partAt, h.parts]; rfl
theorem cluAt (h : OperandsRead s r) (n : Nat) : cluAt r n = cluAt s n := by
  rw [Machine.cluAt, h.clusters]; rfl
theorem partOf (h : OperandsRead s r) (n : Nat) : partOf r n = partOf s n :=
  (congrArg (fun c : Core => c.part.getD 0) (h.cores n) :)
theorem inbound (h : OperandsRead s r) (n : Nat) : (coreAt r n).inbound = (coreAt s n).inbound :=
  (congrArg Core.inbound (h.cores n) :)
theorem homeIn (h : OperandsRead s r) (p va : Nat) : homeIn r p va = homeIn s p va :=
  congrArg (fun q : Partition => homeOf q.hkey va) (h.partAt p)
/-- A field of a context besides the next pc and the forwarded bundles. -/
theorem ctxAt (h : OperandsRead s r) (n k : Nat) : ∃ pc w, ctxAt r n k = { ctxAt s n k with npc := pc, fwd := w } :=
  ⟨(Machine.ctxAt r n k).npc, (Machine.ctxAt r n k).fwd,
    (congrArg (fun c : Ctx => { c with npc := (Machine.ctxAt r n k).npc, fwd := (Machine.ctxAt r n k).fwd }) (h.ctxs n k) :)⟩
theorem cur (h : OperandsRead s r) : ∃ pc w, cur r = { cur s with npc := pc, fwd := w } := by
  unfold Machine.cur
  rw [h.core, h.ctx]
  exact h.ctxAt _ _
theorem untraced (h : OperandsRead s r) {n : Nat} (hs : Untraced s n) : Untraced r n :=
  (congrArg (fun c : Core => c.trctl.getLsbD 63) (h.cores n) :).trans hs

end OperandsRead

theorem ops_reading {i : Instr} (h : popped s [i] = []) : ops (reading s i) = snapshot s := by
  rw [reading_of_unpopped h, ops_begin]
theorem rx_ops_reading {i : Instr} (h : popped s [i] = []) (n : Nat) : rx (ops (reading s i)) n = rx (cur s).regs n := by
  rw [ops_reading h, rx_snapshot]

/-! ## What an issue has checked -/

theorem firstTrap_eq_none {l : List (Option TrapReq)} : firstTrap l = none ↔ ∀ x ∈ l, x = none := by
  induction l with
  | nil => simp [firstTrap]
  | cons x l ih => cases x <;> simp [firstTrap, ih]

/-- A bundle may go on when its entries lay no trap down and nothing holds the end of its unit of work (R90). -/
theorem of_check_go {l : List (Instr × Nat)} (h : check s l = .go) :
    entryTrapOf s (cur s).pc (l.map (·.1)) = none ∧ (l.map (·.1)).any (endHolds s) = false := by
  revert h
  fun_cases check s l with
  | case7 _ _ _ _ _ htrap hend => exact fun _ => ⟨htrap, Bool.eq_false_iff.mpr hend⟩
  | _ => nofun
theorem Issues.entryTrap {i : Instr} (h : Issues s i) :
    entryTrap s (cur s).pc (snapshot s) (tailOf s [i]).isSome i = none := by
  obtain ⟨_, _, hgo, _⟩ := h
  simpa [entryTrapOf] using (of_check_go hgo).1
theorem Issues.ownTrap {i : Instr} (h : Issues s i) : ownTrap s (cur s).pc (snapshot s) i = none :=
  firstTrap_eq_none.mp h.entryTrap _ (by simp)
theorem Issues.endHolds {i : Instr} (h : Issues s i) : endHolds s i = false := by
  obtain ⟨_, _, hgo, _⟩ := h
  simpa using (of_check_go hgo).2

/-- The form in which the statements give an instruction's effect: it is performed on the state in which the operands
have been read. -/
theorem gives_of_issue {i : Instr} {eff v : State → State} (h : Issues s i) (hexec : exec i s = issue s i eff)
    (heff : eff (reading s i) = v (reading s i)) : Gives s i v := by
  rw [Gives, hexec, issue_of_issues h, heff]

end
end Sys2Proof.Machine

/-! ## Spawns and sends fill the send buffer (R17, R129 to R131) -/

namespace Sys2Proof.Machine
section
variable {s r : State}

theorem makeRecord_eq_taskOf (x : Regs) (q : Record) (e : Nat) : makeRecord x q e = taskOf x q.body q.base q.len e := by
  have h2 : BitVec.ofNat 2 (bits e 44 2) = BitVec.ofNat 2 (e / 2 ^ 44) := by apply BitVec.eq_of_toNat_eq; simp [bits]
  have h10 : BitVec.ofNat 10 (bits e 34 10) = BitVec.ofNat 10 (e / 2 ^ 34) := by apply BitVec.eq_of_toNat_eq; simp [bits]
  rw [makeRecord, h2, h10]; rfl
theorem taskOf_snapshot (s : State) (body : Nat) (base len : Dword) (e : Nat) :
    taskOf (snapshot s) body base len e = taskOf (cur s).regs body base len e := by
  simp only [taskOf, rx_snapshot]

theorem OperandsRead.inPart (h : OperandsRead s r) (p n : Nat) : inPart r p n = inPart s p n := by
  simp only [Machine.inPart, h.partAt]
theorem OperandsRead.bodyAt (h : OperandsRead s r) (n b : Nat) : bodyAt (coreAt r n) b = bodyAt (coreAt s n) b :=
  (congrArg (fun c : Core => Machine.bodyAt c b) (h.cores n) :)
theorem OperandsRead.spawnReq (h : OperandsRead s r) (x : Regs) (f : FmtT) : spawnReq r x f = spawnReq s x f := by
  simp only [Machine.spawnReq, h.homeIn, h.partOf, h.core]
theorem OperandsRead.spawnhReq (h : OperandsRead s r) (x : Regs) (f : FmtH) : spawnhReq r x f = spawnhReq s x f := by
  simp only [Machine.spawnhReq, h.inPart, h.partOf, h.core]
theorem OperandsRead.sendReq (h : OperandsRead s r) (x : Regs) (f : FmtR) : sendReq r x f = sendReq s x f := by
  simp only [Machine.sendReq, h.inPart, h.partOf, h.core]
theorem OperandsRead.sendgReq (h : OperandsRead s r) (x : Regs) (f : FmtR) : sendgReq r x f = sendgReq s x f := by
  simp only [Machine.sendgReq, h.partAt, h.partOf, h.core]

/-- The checks of a record pass those that need the body's entry, once it is in the cache. -/
theorem entryTraps_of_recordTrap {pc : Nat} {q : Record} {e : Dword} (h : recordTrap s pc q = none)
    (he : bodyAt (coreAt s s.core) q.body = some e) : entryTraps s pc q e = none := by
  simpa only [he] using firstTrap_eq_none.mp h _ (List.mem_append_right [_, _, _] (List.mem_singleton.mpr rfl))
theorem OperandsRead.entryTraps (h : OperandsRead s r) (pc : Nat) (q : Record) (e : Dword) :
    entryTraps r pc q e = entryTraps s pc q e := by
  obtain ⟨_, _, hc⟩ := h.cur
  simp only [Machine.entryTraps, hc]

/-- MakeRecord with its entry in the cache and its checks passed adds one record. -/
theorem recordEff_of_cached {i : Instr} {q : Record} {e : Dword} (he : bodyAt (coreAt r r.core) q.body = some e)
    (ht : entryTraps r (cur r).pc q e = none) :
    recordEff r i q = modCur r fun c => { c with sends := c.sends ++ [{ record := makeRecord (ops r) q e.toNat, dest := q.dest }] } := by
  simp only [recordEff, he, ht]

/-- A spawning instruction that makes the record q, with the entry of q's body in the cache, adds it. -/
theorem gives_record {i : Instr} {q : Record} {e : Dword} {eff : State → State} (h : Issues s i) (hp : popped s [i] = [])
    (hexec : exec i s = issue (readEntry s [(i, 0)]) i eff) (hbody : spawnBody s i = some q.body)
    (heff : eff (reading s i) = recordEff (reading s i) i q)
    (htrap : ownTrap s (cur s).pc (snapshot s) i = recordTrap s (cur s).pc q)
    (he : bodyAt (coreAt s s.core) q.body = some e) :
    Gives s i fun r => modCur r fun c =>
      { c with sends := c.sends ++ [{ record := taskOf (cur s).regs q.body q.base q.len e.toNat, dest := q.dest }] } := by
  have hr := operandsRead_reading hp
  refine gives_of_issue h (hexec.trans (congrArg (issue · i eff) (readEntry_of_cached s hbody he))) (heff.trans ?_)
  have ht : entryTraps (reading s i) (cur (reading s i)).pc q e = none := by
    obtain ⟨_, _, hc⟩ := hr.cur
    rw [hr.entryTraps, hc]
    exact entryTraps_of_recordTrap (htrap.symm.trans h.ownTrap) he
  rw [recordEff_of_cached (by rw [hr.core, hr.bodyAt, he]) ht, makeRecord_eq_taskOf, ops_reading hp, taskOf_snapshot]

/-- The record's sources as the statement's table names them. -/
theorem recordRow_spawn (s : State) (f : FmtT) : recordRow s (.spawn f) = some
    ((spawnReq s (snapshot s) f).body, (spawnReq s (snapshot s) f).base, (spawnReq s (snapshot s) f).len,
      (spawnReq s (snapshot s) f).dest) := by
  simp only [recordRow, spawnReq, rx_snapshot]
theorem recordRow_spawnh (s : State) (f : FmtH) : recordRow s (.spawnh f) = some
    ((spawnhReq s (snapshot s) f).body, (spawnhReq s (snapshot s) f).base, (spawnhReq s (snapshot s) f).len,
      (spawnhReq s (snapshot s) f).dest) := by
  simp [recordRow, spawnhReq, rx_snapshot, bits]
theorem recordRow_send (s : State) (f : FmtR) : recordRow s (.send f) = some
    ((sendReq s (snapshot s) f).body, (sendReq s (snapshot s) f).base, (sendReq s (snapshot s) f).len,
      (sendReq s (snapshot s) f).dest) := by
  simp [recordRow, sendReq, rx_snapshot, bits]
theorem recordRow_sendg (s : State) (f : FmtR) : recordRow s (.sendg f) = some
    ((sendgReq s (snapshot s) f).body, (sendgReq s (snapshot s) f).base, (sendgReq s (snapshot s) f).len,
      (sendgReq s (snapshot s) f).dest) := by
  simp [recordRow, sendgReq, rx_snapshot, bits, members]

end
end Sys2Proof.Machine

namespace Sys2Proof
open Machine

/-- Settles O40, by the one rule for a spawning instruction whose body's entry is cached (`gives_record`). -/
theorem spawnsFillTheSendBuffer : Obligations.SpawnsFillTheSendBuffer := by
  intro s i body base len d e hrow h he
  have hlatch : ops s = (cur s).regs := by rw [ops, h.1]
  cases i with
  | spawn f =>
    have hp := popped_of_no_vector (s := s) (i := .spawn f) rfl
    cases (recordRow_spawn s f).symm.trans hrow
    exact gives_record h hp rfl rfl (by rw [(operandsRead_reading hp).spawnReq, ops_reading hp]) rfl he
  | spawnh f =>
    have hp := popped_of_no_vector (s := s) (i := .spawnh f) rfl
    cases (recordRow_spawnh s f).symm.trans hrow
    exact gives_record h hp rfl rfl (by rw [(operandsRead_reading hp).spawnhReq, ops_reading hp]) rfl he
  | send f =>
    have hp := popped_of_no_vector (s := s) (i := .send f) rfl
    cases (recordRow_send s f).symm.trans hrow
    exact gives_record h hp rfl (by simp only [spawnBody, sendReq, hlatch, rx_snapshot])
      (by rw [(operandsRead_reading hp).sendReq, ops_reading hp]) rfl he
  | sendg f =>
    have hp := popped_of_no_vector (s := s) (i := .sendg f) rfl
    cases (recordRow_sendg s f).symm.trans hrow
    exact gives_record h hp rfl (by simp only [spawnBody, sendgReq, hlatch, rx_snapshot])
      (by rw [(operandsRead_reading hp).sendgReq, ops_reading hp]) rfl he
  | _ => nomatch hrow

end Sys2Proof

/-! ## Controllers serve requests (R28, R34) -/

namespace Sys2Proof.Machine
section
variable {s u : State} {i : Nat} {q : QReq} {c : Ctl}

/-- A request that is answered where it is served leaves the package's requests. -/
theorem serveReq_answered (h : s.reqs[i]? = some q) (hs : serveAsk { s with reqs := s.reqs.eraseIdx i } q = (u, none)) :
    serveReq s i = u := by simp only [serveReq, h, hs]
/-- One that is not goes on at its place, to arrive anew. -/
theorem serveReq_goesOn {a : Ask} (h : s.reqs[i]? = some q)
    (hs : serveAsk { s with reqs := s.reqs.eraseIdx i } q = (u, some a)) :
    serveReq s i = { u with reqs := u.reqs.insertIdx i { q with ask := a, arr := none } } := by simp only [serveReq, h, hs]
theorem doWork_ctl_req (h : s.reqs[i]? = some q) (hc : askCtl s q = some c) :
    doWork s (.ctl (.req i)) = .next (noteOp (serveReq s i) c) := by simp only [doWork, doOp, h, hc]

end
end Sys2Proof.Machine

/-! ## Counts: QDEPTH, QDEPTH.in, WFA, MSTAT (R29, R34, R133, R137, R309) -/

namespace Sys2Proof.Machine
section
variable {s r : State}

theorem fset_fset {α : Type} (m : FMap α) (k : Nat) (v w : α) : fset (fset m k v) k w = fset m k w := by
  induction m with
  | nil => simp [fset]
  | cons e m ih =>
    obtain ⟨j, x⟩ := e
    rcases Nat.lt_trichotomy k j with hlt | rfl | hgt
    · simp [fset, hlt]
    · simp [fset]
    · simp [fset, Nat.not_lt_of_gt hgt, Nat.ne_of_gt hgt, ih]
/-- Two changes of one context are one change. -/
theorem modCtx_modCtx (s : State) (n k : Nat) (f g : Ctx → Ctx) :
    modCtx (modCtx s n k f) n k g = modCtx s n k fun c => g (f c) := by
  simp only [modCtx, modCore, setCore, coreAt, fget_fset_same, fset_fset]
theorem modCur_modCur (s : State) (f g : Ctx → Ctx) : modCur (modCur s f) g = modCur s fun c => g (f c) :=
  modCtx_modCtx s s.core s.ctx f g

theorem rx_emptyX (c : Ctx) (n m : Nat) : rx (emptyX c n).regs m = rx c.regs m := by unfold emptyX; split <;> rfl
theorem xFull_emptyX (c : Ctx) {n m : Nat} (hm : m < 64) :
    xFull (emptyX c n).regs m = if m = n ∧ m ≠ 0 then false else xFull c.regs m := by
  by_cases hn : n = 0
  · subst hn
    rw [if_neg (by omega)]; rfl
  · simp only [emptyX, if_neg hn, xFull, set64_bit _ hm]
    by_cases hmn : m = n <;> simp [hmn, hn]
/-- Marking a register empty touches the empty bits and what is pending alone. -/
theorem emptyX_kept (c : Ctx) (n : Nat) : ∃ xe xp, emptyX c n = { c with regs := { c.regs with xe := xe }, xp := xp } := by
  unfold emptyX
  split
  · exact ⟨_, _, rfl⟩
  · exact ⟨_, _, rfl⟩

/-- rd awaits a value of its own. -/
def awaiting (rd : Nat) (v : Dword) (c : Ctx) : Ctx :=
  { emptyX c rd with pend := c.pend ++ (if rd = 0 then [] else [.x rd v]) }
theorem sendX_emptyX (s : State) (rd : Nat) (v : Dword) :
    sendX (modCur s fun c => emptyX c rd) s.core s.ctx rd v = modCur s (awaiting rd v) := by
  by_cases h : rd = 0
  · rw [sendX, if_pos h]
    exact congrArg (modCur s) (funext fun c => by simp [awaiting, emptyX, h])
  · rw [sendX, if_neg h]
    exact (modCur_modCur s _ _).trans (congrArg (modCur s) (funext fun c => by simp [awaiting, emptyX, h]))

/-- A bundle that pops nothing, is not watched, and whose instruction sends a value to x[rd] (R88). -/
theorem issue_awaitsX {i : Instr} (h : Issues s i) (hu : (watchSpan (snapshot s) i).1 = []) (hp : popped s [i] = [])
    (rd : BitVec 6) (v : Dword) (eff : State → State) (he : eff (begin s [i]) = modCur (begin s [i]) (awaiting rd.toNat v)) :
    ∃ t, issue s i eff = .next t ∧ AwaitsX s t rd v ∧ Flagged s t false 0 ∧ OnlyX s t := by
  obtain ⟨t, ht, ⟨w, hw⟩, hlatch, htail, hunits, hcores, hothers⟩ := issue_modCur h (unwatched_of_span hu) hp _ eff he
  have hrx (n : Nat) : rx (now s t).regs n = rx (cur s).regs n := by rw [hw]; exact rx_emptyX _ _ _
  have hfull (n : Nat) (hn : n < 64) :
      xFull (now s t).regs n = if n = rd.toNat ∧ n ≠ 0 then false else xFull (cur s).regs n := by
    rw [hw]; exact xFull_emptyX _ hn
  have hpend : (now s t).pend = (cur s).pend ++ (if rd = 0 then [] else [.x rd.toNat v]) := by
    rw [hw]; simp [awaiting, BitVec.toNat_eq]
  obtain ⟨xe, xp, hc⟩ := emptyX_kept { cur s with npc := (cur s).pc + 8, fwd := w } rd.toNat
  simp only [awaiting, hc] at hw
  refine ⟨t, ht, ⟨fun n hn => ⟨hrx n, hfull n hn⟩, hpend⟩, ?_, ⟨?_, ?_, hlatch, htail⟩, ?_, ?_, ?_, ?_,
    ⟨hunits, hcores, hothers, ?_⟩, keptMemory_of_kept hunits hcores⟩
  · rw [Flagged, hw]; rfl
  · rw [hw]
  · rw [hw]
  · constructor <;> rw [hw]
  · intro n _; right; rw [hw]; rfl
  · rw [KeptAcc, hw]
  · rw [KeptCr, hw]; simp
  · rw [KeptCtx, hw]

/-! The context's own counts, with rd empty. -/
@[simp] theorem emptyX_treel (c : Ctx) (n : Nat) : (emptyX c n).treel = c.treel := by unfold emptyX; split <;> rfl
@[simp] theorem emptyX_wfa (c : Ctx) (n : Nat) : (emptyX c n).wfa = c.wfa := by unfold emptyX; split <;> rfl

/-- HOLD and REMAIN of MSTAT's word (R309) stand together, and are 0 together. -/
theorem statWord_hold (hold : Bool) (low queued remain : Nat) :
    low + bit01 hold * 2 ^ 31 + queued * 2 ^ 32 + (if hold then remain else 0) * 2 ^ 40 =
      low + (if hold then 2 ^ 31 + remain * 2 ^ 40 else 0) + queued * 2 ^ 32 := by
  cases hold <;> simp [bit01]
  omega

end
end Sys2Proof.Machine

namespace Sys2Proof
open Machine

/-- Settles O43: each instruction by its effect on the state in which its operands have been read, and a served QDEPTH by
the controller's rule for a request that is answered. -/
theorem countsAreGiven : Obligations.CountsAreGiven := by
  refine ⟨fun s f h => ?_, fun s i slice q hq hask hres => ?_, fun s f h => ?_, fun s f h htreel => ?_, fun s f h => ?_⟩
  · have hp := popped_of_no_vector (s := s) (i := .qdepth f) rfl
    have hr := operandsRead_reading hp
    exact gives_of_issue h rfl (by simp only [ask, hr.homeIn, hr.partOf, hr.core, hr.ctx, modCur_core, modCur_ctx, rx_ops_reading hp])
  · have hserve : serveReq s i = answerReq (pointPast { s with reqs := s.reqs.eraseIdx i } q slice) q
        (dn (depth (spAt s slice (partOf s q.core)))) := serveReq_answered hq (by rw [serveAsk, hask]; rfl)
    have hctl : askCtl s q = some (.queue slice (partOf s q.core)) := by rw [askCtl, hask]
    rw [doWork_ctl_req hq hctl, hserve, answerReq, hres]
    rfl
  · have hp := popped_of_no_vector (s := s) (i := .qdepthIn f) rfl
    have hr := operandsRead_reading hp
    rw [reading_of_unpopped hp] at hr
    refine issue_awaitsX h rfl hp f.rd _ _ ((sendX_emptyX _ _ _).trans ?_)
    rw [hr.core, hr.inbound]
    rfl
  · have hp := popped_of_no_vector (s := s) (i := .wfa f) rfl
    have hr := operandsRead_reading hp
    obtain ⟨_, _, hc⟩ := hr.cur
    refine gives_of_issue h rfl ?_
    simp only [cur_modCur, emptyX_treel, emptyX_wfa, hc, htreel, if_true, modCur_core, modCur_ctx, hr.core, hr.ctx]
    rfl
  · have hp := popped_of_no_vector (s := s) (i := .mstat f) rfl
    have hr := operandsRead_reading hp
    obtain ⟨_, _, hc⟩ := hr.ctxAt s.core s.ctx
    refine gives_of_issue h rfl ?_
    simp only [statWord, statWord_hold, hr.core, hr.ctx, hr.cluAt, hc]
    rfl

end Sys2Proof

/-! ## Lists of what waits at a controller -/

namespace Sys2Proof.Machine
section
variable {s : State}

theorem leastOf_mem {l : List Nat} {n : Nat} (h : leastOf l = some n) : n ∈ l := by
  induction l generalizing n with
  | nil => nomatch h
  | cons a l ih =>
    unfold leastOf at h
    cases hl : leastOf l with
    | none => simp_all
    | some b =>
      rw [hl] at h
      obtain rfl : min a b = n := by simpa using h
      rcases Nat.le_total a b with hab | hab
      · simp [Nat.min_eq_left hab]
      · simp [Nat.min_eq_right hab, ih hl]
theorem leastOf_eq_none {l : List Nat} (h : leastOf l = none) : l = [] := by
  cases l with
  | nil => rfl
  | cons a l => nomatch h

theorem earliest_mem {l : List (Nat × Option Nat)} {i t : Nat} (h : earliest l = some (i, t)) :
    ∃ arr, (i, arr) ∈ l ∧ t = arr.getD 0 := by
  induction l with
  | nil => nomatch h
  | cons e l ih =>
    obtain ⟨j, arr⟩ := e
    unfold earliest at h
    have hhead : some (j, arr.getD 0) = some (i, t) → ∃ a, (i, a) ∈ (j, arr) :: l ∧ t = a.getD 0 := by
      intro he; cases he; exact ⟨arr, List.mem_cons_self, rfl⟩
    cases hl : earliest l with
    | none => exact hhead (by simpa [hl] using h)
    | some e =>
      simp only [hl] at h
      split at h
      · obtain ⟨a, hmem, ht⟩ := ih (hl.trans h)
        exact ⟨a, List.mem_cons_of_mem _ hmem, ht⟩
      · exact hhead h
theorem earliest_eq_none {l : List (Nat × Option Nat)} (h : earliest l = none) : l = [] := by
  cases l with
  | nil => rfl
  | cons e l =>
    unfold earliest at h
    dsimp only at h
    split at h
    · split at h <;> nomatch h
    · nomatch h

/-- A message that waits at a controller has arrived there in an earlier cycle. -/
theorem of_mem_msgsAt {c : Ctl} {f : Nat → Msg → Bool} {i : Nat} {arr : Option Nat} (h : (i, arr) ∈ msgsAt s c f) :
    ∃ m, s.msgs[i]? = some m ∧ m.arr = arr ∧ before s.cycle arr = true ∧ f i m = true := by
  obtain ⟨⟨m, j⟩, hmem, he⟩ := List.mem_map.mp h
  obtain ⟨hmem, hp⟩ := List.mem_filter.mp hmem
  obtain ⟨rfl, rfl⟩ := Prod.mk.inj he
  simp only [Bool.and_eq_true] at hp
  obtain ⟨⟨⟨_, hbefore⟩, _⟩, hf⟩ := hp
  exact ⟨m, List.mem_zipIdx_iff_getElem?.mp hmem, rfl, hbefore, hf⟩
theorem of_mem_reqsAt {c : Ctl} {f : QReq → Bool} {i : Nat} {q : QReq} (h : (i, q) ∈ reqsAt s c f) :
    s.reqs[i]? = some q ∧ f q = true := by
  obtain ⟨⟨q', j⟩, hmem, he⟩ := List.mem_map.mp h
  obtain ⟨hmem, hp⟩ := List.mem_filter.mp hmem
  obtain ⟨rfl, rfl⟩ := Prod.mk.inj he
  simp only [Bool.and_eq_true] at hp
  obtain ⟨_, hf⟩ := hp
  exact ⟨List.mem_zipIdx_iff_getElem?.mp hmem, hf⟩
/-- Where no TAKE and no other request waits, none does. -/
theorem reqsAt_eq_nil {c : Ctl} (f : QReq → Bool) (h : reqsAt s c f = []) (h' : reqsAt s c (fun q => !f q) = []) :
    reqsAt s c (fun _ => true) = [] := by
  simp only [reqsAt, List.map_eq_nil_iff, List.filter_eq_nil_iff, Bool.and_eq_true, not_and] at h h' ⊢
  intro e he hw _
  cases hf : f e.1
  · exact h' e he hw (by rw [hf]; rfl)
  · exact h e he hw hf

theorem picked_eq_none {ptr : Nat} {l : List (Nat × QReq)} (h : picked ptr l = none) : l = [] := by
  unfold picked at h
  dsimp only at h
  split at h
  · nomatch h
  split at h
  · next n hn =>
    obtain ⟨e, he, rfl⟩ := List.mem_map.mp (leastOf_mem hn)
    have hnil := List.map_eq_nil_iff.mp (earliest_eq_none (Option.map_eq_none_iff.mp h))
    exact absurd (by simp : (e.2.core == e.2.core) = true) (List.filter_eq_nil_iff.mp hnil e he)
  · next hn => exact List.map_eq_nil_iff.mp (leastOf_eq_none hn)

/-- The first that waits has arrived, and is of the kind that is asked for. -/
theorem earliest_msgsAt {c : Ctl} {f : Nat → Msg → Bool} {i t : Nat} (h : earliest (msgsAt s c f) = some (i, t)) :
    ∃ m, s.msgs[i]? = some m ∧ m.arr = some t ∧ f i m = true := by
  obtain ⟨arr, hmem, rfl⟩ := earliest_mem h
  obtain ⟨m, hm, rfl, hbefore, hf⟩ := of_mem_msgsAt hmem
  cases harr : m.arr with
  | none => rw [harr] at hbefore; nomatch hbefore
  | some t => exact ⟨m, hm, harr, hf⟩

/-- A controller that serves a request serves a TAKE, or none waits (R34). -/
theorem queueOp_req {x p i : Nat} (h : queueOp s x p = some (.req i)) :
    (∃ q, s.reqs[i]? = some q ∧ isTake q = true) ∨ reqsAt s (.queue x p) isTake = [] := by
  unfold queueOp at h
  dsimp only at h
  split at h
  · nomatch h
  · next htake =>
    cases h
    obtain ⟨⟨j, t⟩, hearliest, rfl⟩ := Option.map_eq_some_iff.mp htake
    obtain ⟨_, hmem, _⟩ := earliest_mem hearliest
    obtain ⟨⟨j, q⟩, hq, he⟩ := List.mem_map.mp hmem
    obtain ⟨rfl, _⟩ := Prod.mk.inj he
    exact .inl ⟨q, of_mem_reqsAt hq⟩
  · next htake _ => exact .inr (List.map_eq_nil_iff.mp (earliest_eq_none (Option.map_eq_none_iff.mp htake)))
  · nomatch h
  · nomatch h
/-- One that serves a message serves an enqueue for which its queue has room, that has waited four cycles or beside which
no request waits. -/
theorem queueOp_msg {x p i : Nat} (h : queueOp s x p = some (.msg i)) :
    ∃ m t, s.msgs[i]? = some m ∧ m.arr = some t ∧ (∃ slice q r, m.body = .enqueue slice q r) ∧ msgBlocked s m = false ∧
      (t + 4 < s.cycle ∨ reqsAt s (.queue x p) (fun _ => true) = []) := by
  unfold queueOp at h
  dsimp only at h
  split at h
  · next hold =>
    cases h
    split at hold
    · next hearliest =>
      obtain ⟨hlong, hold⟩ := Option.ite_none_right_eq_some.mp hold
      cases hold
      obtain ⟨m, hm, harr, hf⟩ := earliest_msgsAt hearliest
      obtain ⟨hbody, hroom⟩ := Bool.and_eq_true_iff.mp hf
      split at hbody
      · next hb => exact ⟨m, _, hm, harr, ⟨_, _, _, hb⟩, by simpa using hroom, .inl hlong⟩
      · nomatch hbody
    · nomatch hold
  · nomatch h
  · nomatch h
  · next htake hsteal hearliest =>
    cases h
    obtain ⟨m, hm, harr, hf⟩ := earliest_msgsAt hearliest
    obtain ⟨hbody, hroom⟩ := Bool.and_eq_true_iff.mp hf
    have hnone := reqsAt_eq_nil isTake (List.map_eq_nil_iff.mp (earliest_eq_none (Option.map_eq_none_iff.mp htake)))
      (picked_eq_none hsteal)
    split at hbody
    · next hb => exact ⟨m, _, hm, harr, ⟨_, _, _, hb⟩, by simpa using hroom, .inr hnone⟩
    · nomatch hbody
  · nomatch h

end
end Sys2Proof.Machine

/-! ## Home queues: what a selection gives, and what keeps a queue's spill area in order (R26, R30 to R32, R35) -/

namespace Sys2Proof.Machine
section
variable {q : SlicePart} {t : QTask}

/-! ### Selection -/

theorem eligible_iff {back : Bool} : eligible q back t = true ↔
    (∀ u ∈ q.front ++ q.back, u.order < t.order → anchorsMeet (qLo u) (qHi u) (qLo t) (qHi t) = false) ∧
    (∀ u ∈ q.running, u.order < t.order → anchorsMeet u.lo u.hi (qLo t) (qHi t) = false) ∧
    (back = true → ∀ b ∈ q.blocks, anchorsMeet b.lo b.hi (qLo t) (qHi t) = false) := by
  simp only [eligible, Bool.and_eq_true, Bool.not_eq_true', Bool.and_eq_false_imp, List.any_eq_false, decide_eq_true_eq,
    Bool.not_eq_true, not_and, and_assoc]

/-- A scan gives an eligible task of its list, of the kind that the request may take (R35). -/
theorem scan_task {take : Bool} {l : List (QTask × Bool)} {runnable seen : Bool}
    (h : scan q take l runnable seen = .task t) :
    ∃ back, (t, back) ∈ l ∧ (if take then t.record.near else t.record.far) = true ∧ eligible q back t = true ∧
      (take = false → t.record.thresh.toNat < depth q) := by
  induction l generalizing runnable seen with
  | nil => nomatch h
  | cons e l ih =>
    obtain ⟨u, back⟩ := e
    have hlater {r' s' : Bool} (h' : scan q take l r' s' = .task t) :
        ∃ b, (t, b) ∈ (u, back) :: l ∧ (if take then t.record.near else t.record.far) = true ∧ eligible q b t = true ∧
          (take = false → t.record.thresh.toNat < depth q) := by
      obtain ⟨b, hmem, hrest⟩ := ih h'
      exact ⟨b, List.mem_cons_of_mem _ hmem, hrest⟩
    unfold scan at h
    by_cases hkind : (if take then !u.record.near else !u.record.far) = true
    · rw [if_pos hkind] at h; exact hlater h
    rw [if_neg hkind] at h
    by_cases helig : (!eligible q back u) = true
    · rw [if_pos helig] at h; exact hlater h
    rw [if_neg helig] at h
    by_cases hthresh : (!take && decide (depth q ≤ u.record.thresh.toNat)) = true
    · rw [if_pos hthresh] at h; exact hlater h
    rw [if_neg hthresh] at h
    cases h
    refine ⟨back, List.mem_cons_self, ?_, by simpa using helig, fun htake => ?_⟩
    · cases take <;> simpa using hkind
    · simpa [htake] using hthresh

/-- A selection's scan is over tasks of the front section, and of the back section, which are judged by blocks. -/
theorem select_task {take : Bool} (h : select q take = .task t) :
    ∃ back, (back = false ∧ t ∈ q.front ∨ back = true ∧ t ∈ q.back) ∧
      (if take then t.record.near else t.record.far) = true ∧ eligible q back t = true ∧
      (take = false → t.record.thresh.toNat < depth q) := by
  obtain ⟨back, hmem, hrest⟩ := scan_task h
  have hall : (t, back) ∈ q.front.map (·, false) ++ q.back.map (·, true) := by
    cases take
    · exact List.mem_reverse.mp (List.mem_of_mem_take hmem)
    · exact hmem
  refine ⟨back, ?_, hrest⟩
  simpa [and_comm, eq_comm] using hall

/-- Ranges that meet still do when one of them is wider (R30). -/
theorem anchorsMeet_mono {lo hi lo' hi' c d : Nat} (hlo : lo' ≤ lo) (hhi : hi ≤ hi') (h : anchorsMeet lo' hi' c d = false) :
    anchorsMeet lo hi c d = false := by
  simp only [anchorsMeet, decide_eq_false_iff_not] at h ⊢
  omega
theorem anchorsMeet_length (a m b n : Nat) : anchorsMeet a (a + m) b (b + n) = true ↔ a < b + n ∧ b < a + m := by
  simp [anchorsMeet]

/-- The controller's pointer plays no part in a selection. -/
theorem scan_stealPtr (q : SlicePart) (ptr : Nat) (take : Bool) (l : List (QTask × Bool)) (runnable seen : Bool) :
    scan { q with stealPtr := ptr } take l runnable seen = scan q take l runnable seen := by
  induction l generalizing runnable seen with
  | nil => rfl
  | cons e l ih =>
    obtain ⟨u, back⟩ := e
    have helig : eligible { q with stealPtr := ptr } back u = eligible q back u := rfl
    have hdepth : depth { q with stealPtr := ptr } = depth q := rfl
    simp only [scan, helig, hdepth, ih]
theorem select_stealPtr (q : SlicePart) (ptr : Nat) (take : Bool) : select { q with stealPtr := ptr } take = select q take :=
  scan_stealPtr q ptr take _ _ _

/-! ### The parts of `SpillOk` -/

/-- Order numbers rise, below the next one. -/
def InOrder (orders : List Nat) (next : Nat) : Prop := orders.Pairwise (· < ·) ∧ ∀ o ∈ orders, o < next
/-- The blocks of a spill area count and cover its tasks, under numbers below the next one (R32). -/
def BlocksOk (blocks : List SpillBlock) (next : Nat) (spill : List QTask) : Prop :=
  (blocks.map (·.id)).Nodup ∧
  (∀ b ∈ blocks, b.id < next ∧ b.count = (spill.filter fun t => t.blk == some b.id).length) ∧
  ∀ t ∈ spill, ∃ b ∈ blocks, t.blk = some b.id ∧ b.lo ≤ qLo t ∧ qHi t ≤ b.hi
theorem spillOk_iff : SpillOk q ↔
    InOrder ((q.front ++ q.spill ++ q.back).map (·.order)) q.order ∧ BlocksOk q.blocks q.nextBlk q.spill := by
  simp only [SpillOk, InOrder, BlocksOk, List.forall_mem_map, and_assoc]

theorem InOrder.append {l : List Nat} {n : Nat} (h : InOrder l n) : InOrder (l ++ [n]) (n + 1) := by
  obtain ⟨hsorted, hbelow⟩ := h
  refine ⟨List.pairwise_append.mpr ⟨hsorted, List.pairwise_singleton _ _, fun a ha b hb => ?_⟩, fun o ho => ?_⟩
  · rw [List.mem_singleton.mp hb]; exact hbelow a ha
  · rcases List.mem_append.mp ho with ho | ho
    · exact Nat.lt_succ_of_lt (hbelow o ho)
    · rw [List.mem_singleton.mp ho]; exact Nat.lt_succ_self n
theorem InOrder.sublist {l l' : List Nat} {n : Nat} (h : InOrder l n) (hl : l'.Sublist l) : InOrder l' n :=
  ⟨h.1.sublist hl, fun o ho => h.2 o (hl.subset ho)⟩

/-- A task spills into a block of its own (R32). -/
theorem BlocksOk.openBlock {blocks : List SpillBlock} {next : Nat} {spill : List QTask} (h : BlocksOk blocks next spill)
    (t : QTask) :
    BlocksOk (blocks ++ [{ id := next, lo := qLo t, hi := qHi t, placed := 1, count := 1 }]) (next + 1)
      (spill ++ [{ t with blk := some next }]) := by
  obtain ⟨hnodup, hcount, hcover⟩ := h
  have hfresh : ∀ u ∈ spill, u.blk ≠ some next := fun u hu he => by
    obtain ⟨b, hb, hub, _⟩ := hcover u hu
    exact absurd (Option.some.inj (hub.symm.trans he)) (Nat.ne_of_lt (hcount b hb).1)
  refine ⟨?_, fun b hb => ?_, fun u hu => ?_⟩
  · rw [List.map_append]
    refine List.nodup_append.mpr ⟨hnodup, List.nodup_singleton _, fun a ha c hc => ?_⟩
    obtain ⟨b, hb, rfl⟩ := List.mem_map.mp ha
    rw [List.mem_singleton.mp hc]
    exact Nat.ne_of_lt (hcount b hb).1
  · rcases List.mem_append.mp hb with hb | hb
    · obtain ⟨hlt, hc⟩ := hcount b hb
      have hne : next ≠ b.id := (Nat.ne_of_lt hlt).symm
      exact ⟨Nat.lt_succ_of_lt hlt, by simp [List.filter_append, hc, hne]⟩
    · rw [List.mem_singleton.mp hb]
      have hnone : spill.filter (fun u => u.blk == some next) = [] :=
        List.filter_eq_nil_iff.mpr fun u hu => by simpa using hfresh u hu
      exact ⟨Nat.lt_succ_self next, by simp [List.filter_append, hnone]⟩
  · rcases List.mem_append.mp hu with hu | hu
    · obtain ⟨b, hb, hrest⟩ := hcover u hu
      exact ⟨b, List.mem_append_left _ hb, hrest⟩
    · rw [List.mem_singleton.mp hu]
      exact ⟨_, List.mem_append_right _ (List.mem_singleton.mpr rfl), rfl, Nat.le_refl _, Nat.le_refl _⟩
/-- A task spills into the latest block, whose summary widens to cover it (R32). -/
theorem BlocksOk.joinBlock {blocks : List SpillBlock} {b : SpillBlock} {next : Nat} {spill : List QTask}
    (h : BlocksOk (blocks ++ [b]) next spill) (t : QTask) :
    BlocksOk (blocks ++ [{ b with lo := min b.lo (qLo t), hi := max b.hi (qHi t), placed := b.placed + 1, count := b.count + 1 }])
      next (spill ++ [{ t with blk := some b.id }]) := by
  obtain ⟨hnodup, hcount, hcover⟩ := h
  have hother : ∀ c ∈ blocks, b.id ≠ c.id := fun c hc => by
    rw [List.map_append] at hnodup
    exact ((List.nodup_append.mp hnodup).2.2 c.id (List.mem_map_of_mem hc) b.id (List.mem_singleton.mpr rfl)).symm
  have hlast := hcount b (List.mem_append_right _ (List.mem_singleton.mpr rfl))
  refine ⟨by simpa using hnodup, fun c hc => ?_, fun u hu => ?_⟩
  · rcases List.mem_append.mp hc with hc | hc
    · obtain ⟨hlt, hcc⟩ := hcount c (List.mem_append_left _ hc)
      exact ⟨hlt, by simp [List.filter_append, hcc, hother c hc]⟩
    · rw [List.mem_singleton.mp hc]
      exact ⟨hlast.1, by simp [List.filter_append, hlast.2]⟩
  · rcases List.mem_append.mp hu with hu | hu
    · obtain ⟨c, hc, hid, hlo, hhi⟩ := hcover u hu
      rcases List.mem_append.mp hc with hc | hc
      · exact ⟨c, List.mem_append_left _ hc, hid, hlo, hhi⟩
      · cases List.mem_singleton.mp hc
        exact ⟨_, List.mem_append_right _ (List.mem_singleton.mpr rfl), hid, (Nat.min_le_left _ _).trans hlo,
          hhi.trans (Nat.le_max_left _ _)⟩
    · rw [List.mem_singleton.mp hu]
      exact ⟨_, List.mem_append_right _ (List.mem_singleton.mpr rfl), rfl, Nat.min_le_right _ _, Nat.le_max_right _ _⟩
/-- A block after a task has left the spill area. -/
def SpillBlock.without (t : QTask) (b : SpillBlock) : SpillBlock :=
  if t.blk == some b.id then { b with count := b.count - 1 } else b
theorem SpillBlock.without_summary (t : QTask) (b : SpillBlock) :
    (b.without t).id = b.id ∧ (b.without t).lo = b.lo ∧ (b.without t).hi = b.hi := by
  unfold SpillBlock.without
  split <;> exact ⟨rfl, rfl, rfl⟩
theorem leaveBlock_blocks (q : SlicePart) (t : QTask) :
    (leaveBlock q t).blocks = (q.blocks.map (SpillBlock.without t)).filter fun b => 0 < b.count := rfl
/-- The first spilled task returns on chip: its block's count falls, and empty blocks go (R32). -/
theorem BlocksOk.leaveBlock {q : SlicePart} {t : QTask} {rest : List QTask}
    (h : BlocksOk q.blocks q.nextBlk (t :: rest)) : BlocksOk (leaveBlock q t).blocks q.nextBlk rest := by
  obtain ⟨hnodup, hcount, hcover⟩ := h
  have hleft : ∀ b ∈ q.blocks, (b.without t).count = (rest.filter fun u => u.blk == some b.id).length := fun b hb => by
    obtain ⟨_, hc⟩ := hcount b hb
    rw [List.filter_cons] at hc
    unfold SpillBlock.without
    split
    · next he => simp [hc, he]
    · next he => simpa [he] using hc
  rw [leaveBlock_blocks]
  refine ⟨?_, fun b' hb' => ?_, fun u hu => ?_⟩
  · have hids : (q.blocks.map (SpillBlock.without t)).map (·.id) = q.blocks.map (·.id) := by
      rw [List.map_map]
      exact List.map_congr_left fun b _ => (b.without_summary t).1
    exact (hids ▸ hnodup).sublist (List.filter_sublist.map _)
  · obtain ⟨b, hb, rfl⟩ := List.mem_map.mp (List.mem_filter.mp hb').1
    obtain ⟨hid, _⟩ := b.without_summary t
    rw [hid, hleft b hb]
    exact ⟨(hcount b hb).1, rfl⟩
  · obtain ⟨b, hb, hub, hlo, hhi⟩ := hcover u (List.mem_cons_of_mem _ hu)
    obtain ⟨hid, hblo, hbhi⟩ := b.without_summary t
    have hpos : 0 < (b.without t).count := by
      rw [hleft b hb]
      exact List.length_pos_of_mem (List.mem_filter.mpr ⟨hu, by simp [hub]⟩)
    exact ⟨b.without t, List.mem_filter.mpr ⟨List.mem_map_of_mem hb, by simpa using hpos⟩, by rw [hid, hub],
      by rwa [hblo], by rwa [hbhi]⟩

/-! ### Enqueues, refills, choices and retirements -/

/-- Spilling moves the oldest task of the back section behind the spilled ones, into the open block or a new one. -/
theorem spillOne_cases (q : SlicePart) :
    (q.back = [] ∧ spillOne q = q) ∨ ∃ t rest, q.back = t :: rest ∧
      ((∃ blocks b, q.blocks = blocks ++ [b] ∧ spillOne q = { q with
          back := rest, spill := q.spill ++ [{ t with blk := some b.id }],
          blocks := blocks ++ [{ b with lo := min b.lo (qLo t), hi := max b.hi (qHi t), placed := b.placed + 1,
                                        count := b.count + 1 }] }) ∨
        spillOne q = { q with
          back := rest, spill := q.spill ++ [{ t with blk := some q.nextBlk }], nextBlk := q.nextBlk + 1,
          blocks := q.blocks ++ [{ id := q.nextBlk, lo := qLo t, hi := qHi t, placed := 1, count := 1 }] }) := by
  unfold spillOne
  split
  · next hb => exact .inl ⟨hb, rfl⟩
  · next t rest hb =>
    refine .inr ⟨t, rest, hb, ?_⟩
    dsimp only
    split
    · next b hopen =>
      have hlast : q.blocks.getLast? = some b := by
        split at hopen
        · nomatch hopen
        split at hopen
        · next c hc =>
          split at hopen
          · rwa [← hopen]
          · nomatch hopen
        · nomatch hopen
      obtain ⟨blocks, hblocks⟩ := List.getLast?_eq_some_iff.mp hlast
      exact .inl ⟨blocks, b, hblocks, by rw [hblocks, List.dropLast_concat]⟩
    · exact .inr rfl

theorem SpillOk.spillOne (h : SpillOk q) : SpillOk (spillOne q) := by
  rcases spillOne_cases q with ⟨_, he⟩ | ⟨t, rest, hback, ⟨blocks, b, hblocks, he⟩ | he⟩
  · rwa [he]
  · obtain ⟨hin, hok⟩ := spillOk_iff.mp h
    rw [hblocks] at hok
    rw [he, spillOk_iff]
    exact ⟨by simpa [hback] using hin, hok.joinBlock t⟩
  · obtain ⟨hin, hok⟩ := spillOk_iff.mp h
    rw [he, spillOk_iff]
    exact ⟨by simpa [hback] using hin, hok.openBlock t⟩

/-- The task that an enqueue makes of a record, under the queue's next identifier and order number (R19, R20). -/
def enqueued (q : SlicePart) (slice : Nat) (r : TaskRecord) : QTask :=
  { record := { r with mid := midHome slice q.seq }, order := q.order }
/-- The front section is all there is of the queue, and has room. -/
def FrontOnly (q : SlicePart) : Prop := q.spill = [] ∧ q.back = [] ∧ q.front.length < 512
theorem enqueueHome_of_front {slice : Nat} {r : TaskRecord} (h : FrontOnly q) : enqueueHome q slice r =
    { q with seq := q.seq + 1, order := q.order + 1, front := q.front ++ [enqueued q slice r] } := by
  obtain ⟨hspill, hback, hfront⟩ := h
  simp [enqueueHome, hspill, hback, hfront, enqueued]
/-- Else the task goes to the back section, whose oldest spills when it is full (R26). -/
theorem enqueueHome_of_not_front {slice : Nat} {r : TaskRecord} (h : ¬ FrontOnly q) : enqueueHome q slice r =
    let u := { q with seq := q.seq + 1, order := q.order + 1, back := q.back ++ [enqueued q slice r] }
    if 512 < u.back.length then spillOne u else u := by
  have hcond : ¬ (q.spill.isEmpty && q.back.isEmpty && decide (q.front.length < 512)) = true := by
    simpa [FrontOnly, and_assoc] using h
  exact if_neg hcond
theorem SpillOk.enqueueHome (h : SpillOk q) (slice : Nat) (r : TaskRecord) : SpillOk (enqueueHome q slice r) := by
  obtain ⟨hin, hok⟩ := spillOk_iff.mp h
  by_cases hf : FrontOnly q
  · rw [enqueueHome_of_front hf, spillOk_iff]
    obtain ⟨hspill, hback, _⟩ := hf
    exact ⟨by simpa [hspill, hback, enqueued] using hin.append, hok⟩
  · rw [enqueueHome_of_not_front hf]
    have hq : SpillOk { q with seq := q.seq + 1, order := q.order + 1, back := q.back ++ [enqueued q slice r] } :=
      spillOk_iff.mpr ⟨by simpa [enqueued] using hin.append, hok⟩
    exact ite_keeps hq.spillOne hq

theorem SpillOk.refill (n : Nat) (h : SpillOk q) : SpillOk (refill n q) := by
  induction n generalizing q with
  | zero => exact h
  | succ n ih =>
    obtain ⟨hin, hok⟩ := spillOk_iff.mp h
    unfold Machine.refill
    refine ite_keeps h ?_
    split
    · next t rest hspill =>
      rw [hspill] at hok
      exact ih (spillOk_iff.mpr ⟨by simpa [hspill, Machine.leaveBlock] using hin, hok.leaveBlock⟩)
    · next hspill =>
      split
      · next t rest hback => exact ih (spillOk_iff.mpr ⟨by simpa [hspill, hback] using hin, hspill ▸ hok⟩)
      · exact h
theorem SpillOk.removeTask (h : SpillOk q) (t : QTask) : SpillOk (removeTask q t) := by
  obtain ⟨hin, hok⟩ := spillOk_iff.mp h
  refine SpillOk.refill 1024 (spillOk_iff.mpr ⟨hin.sublist (List.Sublist.map _ ?_), hok⟩)
  exact (List.filter_sublist.append (.refl _)).append List.filter_sublist
theorem SpillOk.retireTask (h : SpillOk q) (mid : Dword) : SpillOk (retireTask q mid) := h
theorem spillOk_empty : SpillOk {} := spillOk_iff.mpr (by simp [InOrder, BlocksOk])

end
end Sys2Proof.Machine

/-! ## TAKE, STEAL and STEAL.any (R28, R34, R35, R37, R46, R132) -/

namespace Sys2Proof.Machine
section
variable {s r t : State} {n k : Nat}

/-- What is given to a request meets no earlier spilled task: none is earlier than one of the front section, and those of
the back section are judged by the blocks (R32). -/
theorem select_meets_no_spilled {q : SlicePart} {take : Bool} {x : QTask} (hok : SpillOk q) (h : select q take = .task x) :
    ∀ u ∈ q.spill, u.order < x.order → anchorsMeet (qLo u) (qHi u) (qLo x) (qHi x) = false := by
  intro u hu hlt
  obtain ⟨⟨hsorted, _⟩, _, _, hcover⟩ := spillOk_iff.mp hok
  obtain ⟨back, hwhere, _, helig, _⟩ := select_task h
  obtain ⟨_, _, hblocks⟩ := eligible_iff.mp helig
  rcases hwhere with ⟨_, hfront⟩ | ⟨hback, _⟩
  · rw [List.append_assoc, List.map_append] at hsorted
    have := (List.pairwise_append.mp hsorted).2.2 x.order (List.mem_map_of_mem hfront) u.order
      (List.mem_map_of_mem (List.mem_append_left _ hu))
    omega
  · obtain ⟨b, hb, _, hlo, hhi⟩ := hcover u hu
    exact anchorsMeet_mono hlo hhi (hblocks hback b hb)

/-! ### A context is reserved -/

/-- Which context is free depends on the core's own registers, its partition and which contexts run or are reserved. -/
theorem freeCtx_congr (hcore : { coreAt t n with ctxs := [] } = { coreAt s n with ctxs := [] }) (hparts : t.parts = s.parts)
    (hctx : ∀ k, (ctxAt t n k).running = (ctxAt s n k).running ∧ (ctxAt t n k).reserved = (ctxAt s n k).reserved) :
    freeCtx t n = freeCtx s n := by
  have hpreempt : (coreAt t n).preempt = (coreAt s n).preempt := (congrArg Core.preempt hcore :)
  have hupcvec : (coreAt t n).upcvec = (coreAt s n).upcvec := (congrArg Core.upcvec hcore :)
  have hpart : partOf t n = partOf s n := (congrArg (fun c : Core => c.part.getD 0) hcore :)
  simp only [freeCtx, hpreempt, hupcvec, hpart, partAt, hparts, (hctx _).1, (hctx _).2]
theorem reservable_congr (hcore : { coreAt t n with ctxs := [] } = { coreAt s n with ctxs := [] }) (hparts : t.parts = s.parts)
    (hctx : ∀ k, (ctxAt t n k).running = (ctxAt s n k).running ∧ (ctxAt t n k).reserved = (ctxAt s n k).reserved) :
    reservable t n = reservable s n := by
  have hinbound : (coreAt t n).inbound = (coreAt s n).inbound := (congrArg Core.inbound hcore :)
  have hnext (k : Nat) : freeCtx (modCtx t n k fun c => { c with reserved := true }) n =
      freeCtx (modCtx s n k fun c => { c with reserved := true }) n := by
    refine freeCtx_congr ?_ hparts fun j => ?_
    · rw [coreAt_modCtx, coreAt_modCtx, if_pos rfl, if_pos rfl]; exact hcore
    · rw [ctxAt_modCtx, ctxAt_modCtx]
      split
      · exact ⟨(hctx k).1, rfl⟩
      · exact hctx j
  simp only [reservable, freeCtx_congr hcore hparts hctx, hinbound, hnext]

theorem emptyX_status (c : Ctx) (n : Nat) : (emptyX c n).running = c.running ∧ (emptyX c n).reserved = c.reserved := by
  obtain ⟨_, _, h⟩ := emptyX_kept c n
  rw [h]
  exact ⟨rfl, rfl⟩
/-- TAKE and STEAL reserve the context that was free before rd was marked empty, and send their request. -/
theorem takeSteal_of_reservable (hr : OperandsRead s r) (hk : reservable s s.core = some k) (i : Instr) (rd : Nat) (a : Ask) :
    takeSteal r i rd a =
      let u := modCtx (modCur r fun c => emptyX c rd) s.core k fun c => { c with reserved := true }
      { u with reqs := u.reqs ++ [{ core := s.core, ctx := s.ctx, rd := rd, res := some k, ask := a }] } := by
  have hk' : reservable (modCur r fun c => emptyX c rd) s.core = some k := by
    rw [← hk]
    refine reservable_congr ((modCur_kept r _).2.1 s.core |>.trans (hr.cores s.core)) hr.parts fun j => ?_
    obtain ⟨_, _, hc⟩ := hr.ctxAt s.core j
    unfold modCur
    rw [ctxAt_modCtx]
    split
    · next h =>
      obtain ⟨_, rfl⟩ := h
      rw [(emptyX_status _ _).1, (emptyX_status _ _).2, hr.core, hc]
      exact ⟨rfl, rfl⟩
    · rw [hc]; exact ⟨rfl, rfl⟩
  simp only [takeSteal, modCur_core, hr.core, hk', ask, modCtx_core, modCtx_ctx, modCur_ctx, hr.ctx]

theorem dieOf_eq (n : Nat) : Config.dieOf n = if n < 512 then n / 128 else (n - 512) / 64 := by
  by_cases h : n < 512 <;> simp [Config.dieOf, Config.isHome, h]
theorem OperandsRead.delegated (h : OperandsRead s r) (n : Nat) : delegated r n = delegated s n := by
  have htake : (coreAt r n).takePtr = (coreAt s n).takePtr := (congrArg Core.takePtr (h.cores n) :)
  simp only [Machine.delegated, delegate, h.partOf, h.partAt, htake]

/-! ### A request at a queue, and on its way -/

section
variable {q : QReq} {x : Nat} {take : Bool} {c : QTask}

/-- A selection that gives a task starts it in the reserved context (R31, R132). -/
theorem selectAt_task (hres : q.res = some k) (h : select (spAt s x (partOf s q.core)) take = .task c) :
    selectAt s q take x = (started s x k q c, none) := by
  simp only [selectAt, h, answerReq, hres]
  rfl
theorem selectAt_reason {n : Nat} (h : select (spAt s x (partOf s q.core)) take = .reason n) :
    selectAt s q take x = (s, some n) := by simp only [selectAt, h]
theorem select_pointPast (s : State) (q : QReq) (x : Nat) (take : Bool) :
    select (spAt (pointPast s q x) x (partOf s q.core)) take = select (spAt s x (partOf s q.core)) take := by
  rw [pointPast, spAt_modSP_same, select_stealPtr]
theorem answerReq_reserved (hres : q.res = some k) (s : State) (v : Dword) :
    answerReq s q v = sendX (modCtx s q.core k fun c => { c with reserved := false }) q.core q.ctx q.rd v := by
  rw [answerReq, hres]

variable {i : Nat}
theorem doWork_serve_held (h : s.reqs[i]? = some q) (hheld : reqHeld s q = true) : doWork s (.serve i) = .next s := by
  cases hc : askCtl s q <;> simp only [doWork, reqOn, h, hc, hheld, Bool.or_true, if_true]
theorem doWork_serve_arrives (h : s.reqs[i]? = some q) (hheld : reqHeld s q = false) (hctl : (askCtl s q).isSome = true)
    (harr : q.arr = none) : doWork s (.serve i) = .next { s with reqs := s.reqs.set i { q with arr := some s.cycle } } := by
  obtain ⟨c, hc⟩ := Option.isSome_iff_exists.mp hctl
  simp [doWork, reqOn, h, hc, hheld, harr]
theorem doWork_serve_elsewhere (h : s.reqs[i]? = some q) (hheld : reqHeld s q = false) (hctl : askCtl s q = none) :
    doWork s (.serve i) = .next (serveReq s i) := by
  simp [doWork, reqOn, h, hctl, hheld]

/-- What keeps a request that has reserved a context waiting at its core (R64, R372). -/
theorem reqHeld_of_reserved (hres : q.res = some k)
    (h : (coreAt s q.core).preempt = true ∨ (coreAt s q.core).halted = true ∧ isTake q = true) : reqHeld s q = true := by
  rw [reqHeld, hres, Option.isSome_some, Bool.and_true, Bool.or_eq_true, Bool.and_eq_true]
  exact h.symm

/-! ### What a served request leaves -/

/-- A request for which no queue or slice is left is answered with its latest reason. -/
theorem serveAsk_none_left {n : Nat} (hask : q.ask = .take (some n) [] ∨ ∃ x, q.ask = .stealAny x [] n) :
    askCtl s q = none ∧ serveAsk s q = (answerReq s q (reasonWord n), none) := by
  rcases hask with hask | ⟨_ | x, hask⟩
  all_goals
    rw [askCtl, serveAsk, hask]
    exact ⟨rfl, rfl⟩

theorem serveAsk_take_task {own : Option Nat} {l : List Nat} (hask : q.ask = .take own (x :: l)) (hres : q.res = some k)
    (h : select (spAt s x (partOf s q.core)) true = .task c) : serveAsk s q =
      (if x = q.core - 512 then started s x k q c
        else modCore (started s x k q c) q.core fun c => { c with takePtr := (x + 1) % 256 }, none) := by
  rw [serveAsk, hask]
  simp only [selectAt_task hres h]
theorem serveAsk_take_reason {own : Option Nat} {l : List Nat} {n : Nat} (hask : q.ask = .take own (x :: l))
    (h : select (spAt s x (partOf s q.core)) true = .reason n) :
    serveAsk s q = (s, some (.take (some (own.getD n)) l)) := by
  rw [serveAsk, hask]
  simp only [selectAt_reason h]
theorem serveAsk_steal_task (hask : q.ask = .steal x) (hres : q.res = some k)
    (h : select (spAt s x (partOf s q.core)) false = .task c) :
    serveAsk s q = (started (pointPast s q x) x k q c, none) := by
  rw [serveAsk, hask]
  simp only [selectAt_task hres ((select_pointPast s q x false).trans h)]
theorem serveAsk_steal_reason {n : Nat} (hask : q.ask = .steal x)
    (h : select (spAt s x (partOf s q.core)) false = .reason n) :
    serveAsk s q = (answerReq (pointPast s q x) q (reasonWord n), none) := by
  rw [serveAsk, hask]
  simp only [selectAt_reason ((select_pointPast s q x false).trans h)]
theorem serveAsk_stealAny_task {d m : Nat} {l : List Nat} (hask : q.ask = .stealAny (some x) (d :: l) m) (hres : q.res = some k)
    (h : select (spAt s x (partOf s q.core)) false = .task c) :
    serveAsk s q = (started (pointPast s q x) x k q c, none) := by
  rw [serveAsk, hask]
  simp only [selectAt_task hres ((select_pointPast s q x false).trans h)]
theorem serveAsk_stealAny_reason {d m n : Nat} {l : List Nat} (hask : q.ask = .stealAny (some x) (d :: l) m)
    (h : select (spAt s x (partOf s q.core)) false = .reason n) :
    serveAsk s q = (pointPast s q x, some (.stealAny none l n)) := by
  rw [serveAsk, hask]
  simp only [selectAt_reason ((select_pointPast s q x false).trans h)]
/-- At a die's bitmap a STEAL.any goes on to the next die, or to the slice that it chooses there (R37). -/
theorem serveAsk_stealAny_bitmap {d n : Nat} {l : List Nat} (hask : q.ask = .stealAny none (d :: l) n) :
    (bestSlice s (partOf s q.core) d = none → serveAsk s q = (s, some (.stealAny none l n))) ∧
    ∀ x, bestSlice s (partOf s q.core) d = some x → serveAsk s q =
      (modDie s d fun y => { y with stealPtr := (x + 1) % 64 }, some (.stealAny (some x) (d :: l) n)) := by
  rw [serveAsk, hask]
  exact ⟨fun h => by simp only [h], fun x h => by simp only [h]⟩

end

end
end Sys2Proof.Machine

namespace Sys2Proof
open Machine

/-- Settles O41: the instructions by their effect on the state in which their operands have been read, the requests by
what `serveAsk` leaves, the order of service by the inversions of `queueOp`, and what a queue gives by that of `select`
with the parts of `SpillOk`. -/
theorem takesStartWhatTheQueueGives : Obligations.TakesStartWhatTheQueueGives := by
  refine ⟨?issue, fun s i k q hq hres => ?request, fun s x p => ⟨?takeFirst, ?waited⟩,
    fun q take t h => ?select, spillOk_empty, fun q hq => ⟨hq.enqueueHome, hq.removeTask, hq.retireTask⟩, anchorsMeet_length⟩
  case issue =>
    intro s i rd a k h hk p d hforms
    rcases hforms with ⟨f, rfl, rfl, rfl⟩ | ⟨f, rfl, rfl, rfl⟩ | ⟨f, rfl, rfl, rfl⟩
    · have hr := operandsRead_reading (popped_of_no_vector (s := s) (i := .take f) rfl)
      exact gives_of_issue h rfl (by rw [hr.core, hr.delegated]; exact takeSteal_of_reservable hr hk _ _ _)
    · have hp := popped_of_no_vector (s := s) (i := .steal f) rfl
      have hr := operandsRead_reading hp
      exact gives_of_issue h rfl
        (by rw [hr.core, hr.partOf, hr.homeIn, rx_ops_reading hp]; exact takeSteal_of_reservable hr hk _ _ _)
    · have hr := operandsRead_reading (popped_of_no_vector (s := s) (i := .stealAny f) rfl)
      exact gives_of_issue h rfl (by rw [hr.core, dieOf_eq]; exact takeSteal_of_reservable hr hk _ _ _)
  case request =>
    have hctl {x : Nat} {u : State} (hc : askCtl s q = some (.queue x (partOf s q.core))) (hu : serveReq s i = u) :
        doWork s (.ctl (.req i)) = .next (noteOp u (.queue x (partOf s q.core))) := by rw [doWork_ctl_req hq hc, hu]
    have hanswered {n : Nat} (hheld : reqHeld s q = false) (hask : q.ask = .take (some n) [] ∨ ∃ x, q.ask = .stealAny x [] n) :
        doWork s (.serve i) = .next (sendX (modCtx { s with reqs := s.reqs.eraseIdx i } q.core k fun c =>
          { c with reserved := false }) q.core q.ctx q.rd (reasonWord n)) := by
      rw [doWork_serve_elsewhere hq hheld (serveAsk_none_left hask).1, serveReq_answered hq (serveAsk_none_left hask).2,
        answerReq_reserved hres]
    intro p r held serves moved free goesOn
    refine ⟨?_, doWork_serve_held hq, doWork_serve_arrives hq, fun own x l hask => ⟨fun t ht => ?_, fun n hn => ?_⟩,
      fun n hask hheld => ?_, fun x hask => ⟨fun t ht => ?_, fun n hn => ?_⟩, fun c n hask hheld => ?_,
      fun d l n hask hheld => ⟨fun hb => ?_, fun x hb => ?_⟩, fun x d l m hask => ⟨fun t ht => ?_, fun n hn => ?_⟩⟩
    · exact reqHeld_of_reserved hres
    · exact hctl (by rw [askCtl, hask]) (serveReq_answered hq (serveAsk_take_task hask hres ht))
    · exact hctl (by rw [askCtl, hask]) (serveReq_goesOn hq (serveAsk_take_reason hask hn))
    · exact hanswered hheld (.inl hask)
    · exact hctl (by rw [askCtl, hask]) (serveReq_answered hq (serveAsk_steal_task hask hres ht))
    · exact hctl (by rw [askCtl, hask]) ((serveReq_answered hq (serveAsk_steal_reason hask hn)).trans (answerReq_reserved hres _ _))
    · exact hanswered hheld (.inr ⟨c, hask⟩)
    · exact (doWork_serve_elsewhere hq hheld (by rw [askCtl, hask])).trans
        (congrArg Host.Outcome.next (serveReq_goesOn hq ((serveAsk_stealAny_bitmap hask).1 hb)))
    · exact (doWork_serve_elsewhere hq hheld (by rw [askCtl, hask])).trans
        (congrArg Host.Outcome.next (serveReq_goesOn hq ((serveAsk_stealAny_bitmap hask).2 x hb)))
    · exact hctl (by rw [askCtl, hask]) (serveReq_answered hq (serveAsk_stealAny_task hask hres ht))
    · exact hctl (by rw [askCtl, hask]) (serveReq_goesOn hq (serveAsk_stealAny_reason hask hn))
  case takeFirst =>
    intro i q h hq htake
    rcases queueOp_req h with ⟨q', hq', htake'⟩ | hnone
    · cases hq.symm.trans hq'
      exact absurd htake' (by rw [htake]; nofun)
    · exact hnone
  case waited =>
    intro i m h hm hreqs
    obtain ⟨m', t, hm', harr, _, _, hlong | hnone⟩ := queueOp_msg h
    · cases hm.symm.trans hm'
      exact ⟨t, harr, hlong⟩
    · exact absurd hnone hreqs
  case select =>
    obtain ⟨back, hwhere, hkind, helig, hdepth⟩ := select_task h
    obtain ⟨hqueued, hrunning, _⟩ := eligible_iff.mp helig
    refine ⟨?_, hkind, hqueued, hrunning, fun hok => select_meets_no_spilled hok h, hdepth⟩
    rcases hwhere with ⟨_, hf⟩ | ⟨_, hb⟩
    · exact List.mem_append_left _ hf
    · exact List.mem_append_right _ hb

end Sys2Proof

/-! ## The end of a unit of work (R39, R43, R134, R341, R357) -/

namespace Sys2Proof.Machine
section
variable {s r : State} {n k : Nat}

/-! ### A dormant context -/

/-- A map that keeps keys relates what it holds at each. -/
theorem fget_map_rel {α : Type} {R : α → α → Prop} {d : α} (hd : R d d) {f : Nat × α → Nat × α}
    (hkey : ∀ e, (f e).1 = e.1) (hf : ∀ e, R e.2 (f e).2) (m : FMap α) (k : Nat) : R (fget d m k) (fget d (m.map f) k) := by
  induction m with
  | nil => exact hd
  | cons e m ih =>
    by_cases h : e.1 = k
    · simpa [fget, hkey, h] using hf e
    · simpa [fget, hkey, h] using ih

/-- Priority inheritance changes INH alone (R56). -/
theorem ctxAt_refreshInh (s : State) (p n k : Nat) : ∃ i, ctxAt (refreshInh s p) n k = { ctxAt s n k with inh := i } := by
  refine fget_map_rel (R := fun c c' : Core => ∃ i, fget {} c'.ctxs k = { fget {} c.ctxs k with inh := i })
    ⟨0, rfl⟩ (fun e => ?_) (fun e => ?_) s.cores n
  · split <;> rfl
  · split
    · refine fget_map_rel (R := fun c c' : Ctx => ∃ i, c' = { c with inh := i }) ?_ (fun c => ?_) (fun c => ?_) e.2.ctxs k
      · exact ⟨0, rfl⟩
      · rfl
      · exact ⟨_, rfl⟩
    · exact ⟨_, rfl⟩
theorem ctxAt_endLease (s : State) (n k n' k' : Nat) : ctxAt (endLease s n k) n' k' = ctxAt s n' k' := by
  unfold endLease
  split
  · rfl
  · split <;> rfl
theorem ctxAt_unhold (s : State) (n k n' k' : Nat) : ctxAt (unhold s n k) n' k' = ctxAt s n' k' := by
  simp only [ctxAt, unhold, coreAt_modCore]
  split
  · next h => rw [h]
  · rfl
/-- The end of every binding writes v registers alone (R219). -/
theorem unbindAll_kept (c : Ctx) : ∃ v ve vp, unbindAll c =
    { c with regs := { c.regs with v := v, ve := ve }, vp := vp, streams := [] } := by
  have hfold : ∃ v ve vp, c.streams.foldl (fun c e => writeV c e.2.vd 0) c =
      { c with regs := { c.regs with v := v, ve := ve }, vp := vp } :=
    foldl_keeps (P := fun c' : Ctx => ∃ v ve vp, c' = { c with regs := { c.regs with v := v, ve := ve }, vp := vp })
      (fun c' e ⟨v, ve, vp, h⟩ => by rw [h]; exact ⟨_, _, _, rfl⟩) ⟨_, _, _, rfl⟩
  obtain ⟨v, ve, vp, h⟩ := hfold
  exact ⟨v, ve, vp, by rw [unbindAll, h]⟩

theorem ctxAt_makeDormant (s : State) (n k : Nat) : ∃ i, ctxAt (makeDormant s n k) n k =
    { unbindAll (ctxAt s n k) with
      running := false, stopped := false, reserved := false, wait := none, tag := none, inh := i, sends := [],
      record := none, start := .other, rope := .none, fwd := [], upcall := false, trapWait := none, refusals := [],
      starting := none, arrivals := [], bpSkip := false, owed := false } := by
  rw [makeDormant]
  obtain ⟨i, hi⟩ := ctxAt_refreshInh _ _ n k
  refine ⟨i, hi.trans ?_⟩
  have hlease := ctxAt_endLease s n k n k
  rw [ctxAt_unhold, ctxAt_modCtx_same]
  simp only [ctxAt, coreAt] at hlease ⊢
  rw [hlease]

/-- A context that waits with its records becomes dormant once the queues have them (R26, R27, R134). -/
theorem doWork_wake_dormant {w : Wait} (hw : (ctxAt s n k).wait = some w) (hfin : w.fin = .dormant) :
    doWork s (.wake n k) = .next (if sendsOut s n k then s else makeDormant s n k) := by
  simp only [doWork, wakeCtx, hw, hfin]

/-! ### The effect of TEND, TABORT and UPCRET -/

/-- The records of a send buffer as the messages that leave the core, and the retirement of a task that came from a home
queue, which the handler of an aborted one does not send (R39, R134, R357). -/
def recordsSent (p n k : Nat) (c : Ctx) : List Msg := ((c.sends.map (sendMsgs n p)).flatten).map fun m => { m with ctx := some k }
def retirementSent (p n k : Nat) (c : Ctx) : List Msg :=
  if tsActive c.tstat && tsAbt c.tstat then [] else
    match c.start, c.record with
    | .task (some slice), some x => [{ src := n, body := .retire slice p x.mid, ends := some k }]
    | _, _ => []
theorem flushSends_eq (s : State) (n k : Nat) : flushSends s n k =
    modCtx { s with msgs := s.msgs ++ recordsSent (partOf s n) n k (ctxAt s n k) } n k fun c => { c with sends := [] } := rfl
theorem retirement_eq (s : State) (n k : Nat) :
    (if tsActive (ctxAt s n k).tstat && tsAbt (ctxAt s n k).tstat then s else retirement s n k) =
      { s with msgs := s.msgs ++ retirementSent (partOf s n) n k (ctxAt s n k) } := by
  by_cases h : (tsActive (ctxAt s n k).tstat && tsAbt (ctxAt s n k).tstat) = true
  · rw [if_pos h, retirementSent, if_pos h, List.append_nil]
  rw [if_neg h, retirementSent, if_neg h, retirement]
  rcases (ctxAt s n k).start with (_ | slice) | _
  · simp
  · cases (ctxAt s n k).record <;> simp
  · simp

theorem endRope_of_none (h : (ctxAt s n k).rope = .none) : endRope s n k = s := by rw [endRope, h]
theorem partOf_modCtx (s : State) (n k m : Nat) (f : Ctx → Ctx) : partOf (modCtx s n k f) m = partOf s m := by
  rw [partOf, coreAt_modCtx]
  split
  · next h => rw [h]; rfl
  · rfl
/-- Outside a rope and a trace, the end of a unit of work is its release, its messages and the context's end. -/
theorem endUnit_eq (htrace : Untraced r r.core) (hrope : (cur r).rope = .none) (i : Instr) (abort : Bool) :
    endUnit r i abort = unitEnd r i ((if abort then [] else recordsSent (partOf r r.core) r.core r.ctx (cur r)) ++
      retirementSent (partOf r r.core) r.core r.ctx (cur r)) r := by
  have hv := SameButCaches.releaseAll r r.core
  rw [endUnit, trace_of_untraced htrace, endRope_of_none hrope, unitEnd]
  generalize hms : (if abort then [] else recordsSent (partOf r r.core) r.core r.ctx (cur r)) = ms
  generalize releaseAll r r.core = v at hv ⊢
  have hctx : ctxAt v r.core r.ctx = cur r := hv.ctxAt _ _
  have hflush : (if abort then modCtx v r.core r.ctx fun c => { c with sends := [] } else flushSends v r.core r.ctx) =
      modCtx { v with msgs := v.msgs ++ ms } r.core r.ctx fun c => { c with sends := [] } := by
    cases abort
    · rw [← hms, ← hv.partOf, ← hctx]; rfl
    · rw [← hms]; simp
  have hretire (u : State) (hu : u = modCtx { v with msgs := v.msgs ++ ms } r.core r.ctx fun c => { c with sends := [] }) :
      (if tsActive (cur r).tstat && tsAbt (cur r).tstat then u else retirement u r.core r.ctx) =
        { u with msgs := u.msgs ++ retirementSent (partOf r r.core) r.core r.ctx (cur r) } := by
    have hc : ctxAt u r.core r.ctx = { cur r with sends := [] } := by rw [hu, ctxAt_modCtx_same, ← hctx]; rfl
    have hp : partOf u r.core = partOf r r.core := by rw [hu, partOf_modCtx, ← hv.partOf]; rfl
    have h := retirement_eq u r.core r.ctx
    rw [hc, hp] at h
    exact h
  refine congrArg (endOrWait · r.core r.ctx i) ((hretire _ hflush).trans ?_)
  simp only [hflush, modCtx_msgs, List.append_assoc]
  rfl

theorem secondsLag_of_none (h : (ctxAt s n k).rope = .none) : secondsLag s n k = false := by rw [secondsLag, h]
/-- What holds the end of a unit of work outside a rope is not in the operands. -/
theorem endHolds_of_operandsRead (h : OperandsRead s r) (hrope : (cur s).rope = .none) (i : Instr) :
    endHolds r i = endHolds s i := by
  obtain ⟨_, _, hc⟩ := h.cur
  have hlag : secondsLag r s.core s.ctx = secondsLag s s.core s.ctx := by
    rw [secondsLag_of_none (h := hrope), ← h.core, ← h.ctx, secondsLag_of_none ((congrArg Ctx.rope hc).trans hrope)]
  have haccess : accessesOf r s.core s.ctx = accessesOf s s.core s.ctx := by simp only [accessesOf, h.accesses]
  have hcluster (n : Nat) : clusterFor r n = clusterFor s n := by simp only [clusterFor, h.partOf, h.partAt]
  have hcopies : copiesLeft r s.core s.ctx = copiesLeft s s.core s.ctx := by simp only [copiesLeft, hcluster, h.cluAt]
  have hcommands : commandsLeft r s.core s.ctx = commandsLeft s s.core s.ctx := by
    simp only [commandsLeft, matrixLeft, predsLeft, h.cluAt]
  unfold endHolds
  simp only [hc, h.core, h.ctx, anyAccess, haccess, hcopies, hcommands, hlag]

/-- The end of an upcall outside a rope: its release, its records and the context's end (R341). -/
theorem upcretEff_eq (hrope : (cur r).rope = .none) {i : Instr} (hend : endHolds r i = false) :
    upcretEff r i = unitEnd r i (recordsSent (partOf r r.core) r.core r.ctx (cur r)) r := by
  have hv := SameButCaches.releaseAll r r.core
  rw [upcretEff, if_neg (by rw [hend]; nofun)]
  dsimp only
  rw [endRope_of_none hrope, unitEnd, flushSends_eq, hv.partOf, hv.ctxAt]
  rfl
theorem tendEff_eq (htrace : Untraced r r.core) (hrope : (cur r).rope = .none) {i : Instr} {abort : Bool}
    (hend : endHolds r i = false) : tendEff r i abort = unitEnd r i
      ((if abort then [] else recordsSent (partOf r r.core) r.core r.ctx (cur r)) ++
        retirementSent (partOf r r.core) r.core r.ctx (cur r)) r := by
  rw [tendEff, if_neg (by rw [hend]; nofun), endUnit_eq htrace hrope]

/-- An instruction that ends a unit of work, outside a rope: nothing holds the end in the state in which its operands have
been read, and it ends there with the messages `ms` of that state. -/
theorem gives_unitEnd {i : Instr} {eff : State → State} {ms : State → List Msg} (h : Issues s i) (hv : vReads i = [])
    (hrope : (cur s).rope = .none) (hexec : exec i s = issue s i eff)
    (heff : ∀ r, OperandsRead s r → (cur r).rope = .none → endHolds r i = false → eff r = unitEnd r i (ms r) r)
    (hms : ∀ r, OperandsRead s r → ms r = ms s) : Gives s i (unitEnd s i (ms s)) := by
  have hr := operandsRead_reading (popped_of_no_vector (s := s) hv)
  obtain ⟨_, _, hc⟩ := hr.cur
  refine gives_of_issue h hexec ((heff _ hr ((congrArg Ctx.rope hc).trans hrope)
    ((endHolds_of_operandsRead hr hrope i).trans h.endHolds)).trans ?_)
  rw [hms _ hr, unitEnd, unitEnd, hr.core, hr.ctx]

theorem OperandsRead.recordsSent (h : OperandsRead s r) : recordsSent (Machine.partOf r r.core) r.core r.ctx (Machine.cur r) =
    Machine.recordsSent (Machine.partOf s s.core) s.core s.ctx (Machine.cur s) := by
  obtain ⟨_, _, hc⟩ := h.cur
  rw [h.partOf, h.core, h.ctx, hc]; rfl
theorem OperandsRead.retirementSent (h : OperandsRead s r) :
    retirementSent (Machine.partOf r r.core) r.core r.ctx (Machine.cur r) =
      Machine.retirementSent (Machine.partOf s s.core) s.core s.ctx (Machine.cur s) := by
  obtain ⟨_, _, hc⟩ := h.cur
  rw [h.partOf, h.core, h.ctx, hc]; rfl

end
end Sys2Proof.Machine

namespace Sys2Proof
open Machine

/-- Settles O42: each end of a unit of work is a `unitEnd` with its messages (`gives_unitEnd`), a context with records at
a full queue waits, and a dormant context keeps its pc and registers (`ctxAt_makeDormant`). -/
theorem endsOfWorkReleaseAndSend : Obligations.EndsOfWorkReleaseAndSend := by
  refine ⟨fun s f htrace hrope => ⟨fun h => ?_, fun h => ?_, fun h => ?_⟩, fun s n k i => ⟨fun hout => ?_, fun hout => ?_,
    fun w hw hfin => doWork_wake_dormant hw hfin⟩, fun s n k => ?_⟩
  · refine gives_unitEnd (ms := fun r => recordsSent (partOf r r.core) r.core r.ctx (cur r) ++
      retirementSent (partOf r r.core) r.core r.ctx (cur r)) h rfl hrope rfl (fun r hr hro hend => ?_) (fun r hr => ?_)
    · exact tendEff_eq (hr.core.symm ▸ hr.untraced htrace) hro hend
    · simp only [hr.recordsSent, hr.retirementSent]
  · refine gives_unitEnd (ms := fun r => retirementSent (partOf r r.core) r.core r.ctx (cur r)) h rfl hrope rfl
      (fun r hr hro hend => ?_) (fun r hr => hr.retirementSent)
    exact tendEff_eq (hr.core.symm ▸ hr.untraced htrace) hro hend
  · exact gives_unitEnd (ms := fun r => recordsSent (partOf r r.core) r.core r.ctx (cur r)) h rfl hrope rfl
      (fun r _ hro hend => upcretEff_eq hro hend) (fun r hr => hr.recordsSent)
  · exact if_neg (by rw [sendsOut, hout]; nofun)
  · rcases endOrWait_cases s n k i with ⟨hnone, _⟩ | ⟨_, hwait⟩
    · exact absurd (hout.symm.trans hnone) nofun
    · exact ⟨_, rfl, hwait⟩
  · obtain ⟨i, hc⟩ := ctxAt_makeDormant s n k
    obtain ⟨v, ve, vp, hu⟩ := unbindAll_kept (ctxAt s n k)
    rw [hc, hu]
    exact ⟨rfl, rfl, rfl, rfl, rfl, rfl, rfl, rfl, rfl, rfl⟩

end Sys2Proof

/-! ## Messages reach their queues (R19, R20, R25 to R27, R31, R34, R60, R362) -/

namespace Sys2Proof.Machine
section
variable {s : State} {i slice p : Nat} {m : Msg} {q : SlicePart} {r : TaskRecord}

/-! ### An enqueue at a home queue -/

/-- A spill moves a task within its queue. -/
theorem spillOne_kept (q : SlicePart) : (spillOne q).front = q.front ∧ depth (spillOne q) = depth q ∧
    (spillOne q).seq = q.seq ∧ (spillOne q).order = q.order := by
  rcases spillOne_cases q with ⟨_, he⟩ | ⟨t, rest, hback, ⟨blocks, b, _, he⟩ | he⟩ <;> rw [he]
  · exact ⟨rfl, rfl, rfl, rfl⟩
  all_goals exact ⟨rfl, by simp [depth, hback]; omega, rfl, rfl⟩
theorem enqueueHome_counts (q : SlicePart) (slice : Nat) (r : TaskRecord) : depth (enqueueHome q slice r) = depth q + 1 ∧
    (enqueueHome q slice r).seq = q.seq + 1 ∧ (enqueueHome q slice r).order = q.order + 1 := by
  by_cases hf : FrontOnly q
  · rw [enqueueHome_of_front hf]
    exact ⟨by simp [depth]; omega, rfl, rfl⟩
  · rw [enqueueHome_of_not_front hf]
    dsimp only
    split
    · obtain ⟨_, hdepth, hseq, horder⟩ := spillOne_kept
        { q with seq := q.seq + 1, order := q.order + 1, back := q.back ++ [enqueued q slice r] }
      rw [hdepth, hseq, horder]
      exact ⟨by simp [depth]; omega, rfl, rfl⟩
    · exact ⟨by simp [depth]; omega, rfl, rfl⟩
theorem enqueueHome_back (h : ¬ FrontOnly q) : (enqueueHome q slice r).front = q.front ∧
    (q.back.length < 512 → (enqueueHome q slice r).back = q.back ++ [enqueued q slice r]) := by
  rw [enqueueHome_of_not_front h]
  dsimp only
  refine ⟨?_, fun hroom => ?_⟩
  · split
    · exact (spillOne_kept _).1
    · rfl
  · rw [if_neg (by simp; omega)]

/-! ### What a queue's controller does with a message -/

/-- A message that stands behind no other of its channel on its way reaches the controller (R362). -/
theorem reachMsg_of_first (h : ∀ x ∈ s.msgs.take i, x.src = m.src → msgTo x = msgTo m → x.arr ≠ none) :
    reachMsg s i m = { s with msgs := s.msgs.set i { m with arr := some s.cycle } } := by
  refine if_neg fun hany => ?_
  obtain ⟨x, hx, hcond⟩ := List.any_eq_true.mp hany
  simp only [Bool.and_eq_true, beq_iff_eq, Option.isNone_iff_eq_none] at hcond
  obtain ⟨⟨hsrc, hto⟩, harr⟩ := hcond
  exact h x hx hsrc hto harr
theorem homeMsg_of_underway {c : Ctl} (harr : m.arr = none) (hc : msgCtl m = some c) : homeMsg s i m = reachMsg s i m := by
  rw [homeMsg, harr, hc]
theorem homeMsg_of_arrived {c : Ctl} (harr : m.arr.isSome = true) (hc : msgCtl m = some c) :
    homeMsg s i m = if dueAt s c == some (.msg i) then doOp s (.msg i) else s := by
  obtain ⟨t, ht⟩ := Option.isSome_iff_exists.mp harr
  rw [homeMsg, ht, hc]
theorem receive_of_no_cut (h : (partAt s (msgPart m)).cut = none) : receive s m = applyMsg s m := by rw [receive, h]

theorem enqueueAt_home (h : s.msgs[i]? = some m) (hb : m.body = .enqueue slice p r) : enqueueAt s i = homeMsg s i m := by
  simp only [enqueueAt, h, hb]
theorem retireAt_home {mid : Dword} (h : s.msgs[i]? = some m) (hb : m.body = .retire slice p mid) :
    retireAt s i = homeMsg s i m := by simp only [retireAt, h, hb]
theorem doOp_enqueue (h : s.msgs[i]? = some m) (hb : m.body = .enqueue slice p r) (hcut : (partAt s p).cut = none) :
    doOp s (.msg i) = noteOp (modSP { s with msgs := s.msgs.eraseIdx i } slice p fun q => enqueueHome q slice r)
      (.queue slice p) := by
  have hpart : msgPart m = p := by rw [msgPart, hb]
  have hreceive := receive_of_no_cut (s := { s with msgs := s.msgs.eraseIdx i }) (m := m) (by rw [hpart]; exact hcut)
  simp only [doOp, h, hreceive, hb, applyMsg]
theorem doOp_retire {mid : Dword} (h : s.msgs[i]? = some m) (hb : m.body = .retire slice p mid)
    (hcut : (partAt s p).cut = none) :
    doOp s (.msg i) = noteRet (modSP { s with msgs := s.msgs.eraseIdx i } slice p fun q => retireTask q mid) slice p := by
  have hpart : msgPart m = p := by rw [msgPart, hb]
  have hreceive := receive_of_no_cut (s := { s with msgs := s.msgs.eraseIdx i }) (m := m) (by rw [hpart]; exact hcut)
  simp only [doOp, h, hreceive, hb, applyMsg]

theorem dueAt_of_queueRet (hlast : (spAt s slice p).lastRet ≠ some s.cycle) (h : queueRet s slice p = some i) :
    dueAt s (.queue slice p) = some (.msg i) := by
  simp [dueAt, hlast, h]
theorem queueRet_retire (h : queueRet s slice p = some i) : ∃ m x y mid, s.msgs[i]? = some m ∧ m.body = .retire x y mid := by
  obtain ⟨⟨j, t⟩, hearliest, rfl⟩ := Option.map_eq_some_iff.mp h
  obtain ⟨m, hm, _, hf⟩ := earliest_msgsAt hearliest
  split at hf
  · next hb => exact ⟨m, _, _, _, hm, hb⟩
  · nomatch hf
/-- The message that a queue's controller serves is a retirement, or the operation that `queueOp` names. -/
theorem dueAt_msg (h : dueAt s (.queue slice p) = some (.msg i)) :
    queueRet s slice p = some i ∨ queueOp s slice p = some (.msg i) := by
  have hop (hop : (if (spAt s slice p).lastOp == some s.cycle then none else queueOp s slice p) = some (.msg i)) :
      queueOp s slice p = some (.msg i) := by
    split at hop
    · nomatch hop
    · exact hop
  unfold dueAt at h
  dsimp only at h
  split at h
  · exact .inr (hop h)
  split at h
  · next hret => exact .inl (by rw [hret]; simpa using h)
  · exact .inr (hop h)
/-- An enqueue for which its queue has no room is not served (R26). -/
theorem not_due_of_full (h : s.msgs[i]? = some m) (hb : m.body = .enqueue slice p r) (hfull : msgBlocked s m = true) :
    dueAt s (.queue slice p) ≠ some (.msg i) := by
  intro hdue
  rcases dueAt_msg hdue with hret | hop
  · obtain ⟨m', _, _, _, hm', hb'⟩ := queueRet_retire hret
    cases h.symm.trans hm'
    exact nomatch hb.symm.trans hb'
  · obtain ⟨m', _, hm', _, _, hroom, _⟩ := queueOp_msg hop
    cases h.symm.trans hm'
    exact absurd hfull (by rw [hroom]; nofun)

/-! ### Messages at an inbound queue -/

theorem enqueueAt_inbound {n : Nat} {b : InBody} (h : s.msgs[i]? = some m) (hb : m.body = .inbound n p b)
    (hhead : channelHead s i m = true) (hcut : (partAt s p).cut = none) : enqueueAt s i =
      if 4096 ≤ inboundUsed (coreAt s n) then s else enqueueInbound { s with msgs := s.msgs.eraseIdx i } n b := by
  have hpart : msgPart m = p := by rw [msgPart, hb]
  have hreceive := receive_of_no_cut (s := { s with msgs := s.msgs.eraseIdx i }) (m := m) (by rw [hpart]; exact hcut)
  have hblocked : msgBlocked s m = decide (4096 ≤ inboundUsed (coreAt s n)) := by rw [msgBlocked, hb]
  simp only [enqueueAt, h, hb, hblocked, hhead, hreceive, applyMsg, Bool.not_true, Bool.or_false, decide_eq_true_eq]
theorem inbound_launch (s : State) (n pc : Nat) (ap : Dword) (cls : BitVec 2) (issuer : Nat × Nat) :
    (coreAt (enqueueInbound s n (.launch pc ap cls issuer)) n).inbound =
      (coreAt s n).inbound ++ [{ body := .launch pc ap cls issuer, mid := midCore n (coreAt s n).seq }] := by
  rw [enqueueInbound, coreAt_modCore_same]
theorem launchAt_of_room {n pc root : Nat} {ap : Dword} {cls : BitVec 2} {issuer : Nat × Nat} {mem : List Nat}
    (h : s.msgs[i]? = some m) (hb : m.body = .launch n p pc ap cls issuer root mem) (hhead : channelHead s i m = true)
    (hcut : (partAt s p).cut = none) (hroom : ∀ x ∈ s.msgs, sameLaunch m x = true → msgBlocked s x = false) :
    launchAt s i =
      let u := enqueueInbound { s with msgs := s.msgs.eraseIdx i } n (.launch pc ap cls issuer)
      if n = root then u
      else { u with msgs := u.msgs ++ launchMsgs n p pc ap cls issuer root mem (treeChildren root mem n) } := by
  have hpart : msgPart m = p := by rw [msgPart, hb]
  have hreceive := receive_of_no_cut (s := { s with msgs := s.msgs.eraseIdx i }) (m := m) (by rw [hpart]; exact hcut)
  have hnone : (s.msgs.any fun x => sameLaunch m x && msgBlocked s x) = false := by
    simpa [List.any_eq_false] using hroom
  simp only [launchAt, h, hb, hhead, hnone, hreceive, applyMsg, Bool.not_true, Bool.or_false, Bool.false_eq_true, if_false]

end
end Sys2Proof.Machine

namespace Sys2Proof
open Machine

/-- Settles O54: messages for a home queue by the two steps of `homeMsg`, the queue itself by `enqueueHome`'s two cases,
and an inbound queue's by what it has room for. -/
theorem messagesReachTheirQueues : Obligations.MessagesReachTheirQueues := by
  refine ⟨fun s i m hm harr hfirst => ⟨fun slice p r hb => ?_, fun slice p mid hb => ?_⟩,
    fun s i slice p r m hm hb harr hcut => ⟨fun hdue => ?_, fun hdue => ?_, fun hfull => ?_⟩,
    fun q slice r => ?queue, fun s i n p r m hm hb hhead hcut => ⟨fun hfull => ?_, fun hroom => ?_⟩,
    fun s i slice p mid m hm hb harr hcut => ⟨fun hdue => ?_, fun hdue => ?_⟩,
    fun s slice p i hlast hret => dueAt_of_queueRet hlast hret,
    fun s i n p pc ap cls issuer root mem m hm hb hhead hcut hroom => ?launch⟩
  case queue =>
    obtain ⟨hdepth, hseq, horder⟩ := enqueueHome_counts q slice r
    refine ⟨hdepth, hseq, horder, fun h1 h2 h3 => ?_, enqueueHome_back⟩
    rw [enqueueHome_of_front ⟨h1, h2, h3⟩]
    rfl
  case launch =>
    have hinbound := inbound_launch { s with msgs := s.msgs.eraseIdx i } n pc ap cls issuer
    refine ⟨_, congrArg Host.Outcome.next (launchAt_of_room hm hb hhead hcut hroom), ?_, ?_⟩
    · split
      · exact hinbound
      · exact hinbound
    · split
      · exact (List.append_nil _).symm
      · rfl
  · exact congrArg Host.Outcome.next (by
      rw [enqueueAt_home hm hb, homeMsg_of_underway harr (by rw [msgCtl, hb]), reachMsg_of_first hfirst])
  · exact congrArg Host.Outcome.next (by
      rw [retireAt_home hm hb, homeMsg_of_underway harr (by rw [msgCtl, hb]), reachMsg_of_first hfirst])
  · have hop := doOp_enqueue hm hb hcut
    exact ⟨congrArg Host.Outcome.next (by
      rw [enqueueAt_home hm hb, homeMsg_of_arrived harr (by rw [msgCtl, hb]), if_pos (by rw [hdue]; exact beq_self_eq_true _), hop]),
      congrArg Host.Outcome.next hop⟩
  · exact congrArg Host.Outcome.next (by
      rw [enqueueAt_home hm hb, homeMsg_of_arrived harr (by rw [msgCtl, hb]), if_neg (by simpa using hdue)])
  · have hnot := not_due_of_full hm hb (by rw [msgBlocked, hb]; simpa using hfull)
    exact congrArg Host.Outcome.next (by
      rw [enqueueAt_home hm hb, homeMsg_of_arrived harr (by rw [msgCtl, hb]), if_neg (by simpa using hnot)])
  · exact congrArg Host.Outcome.next (by rw [enqueueAt_inbound hm hb hhead hcut, if_pos hfull])
  · refine congrArg Host.Outcome.next ?_
    rw [enqueueAt_inbound hm hb hhead hcut, if_neg (by omega)]
    rfl
  · have hop := doOp_retire hm hb hcut
    exact ⟨congrArg Host.Outcome.next (by
      rw [retireAt_home hm hb, homeMsg_of_arrived harr (by rw [msgCtl, hb]), if_pos (by rw [hdue]; exact beq_self_eq_true _), hop]; rfl),
      congrArg Host.Outcome.next hop⟩
  · exact congrArg Host.Outcome.next (by
      rw [retireAt_home hm hb, homeMsg_of_arrived harr (by rw [msgCtl, hb]), if_neg (by simpa using hdue)])

end Sys2Proof

/-! ## What reaches a core without an instruction -/

namespace Sys2Proof.Machine
section
variable {s t u : State} {n k : Nat}

/-- A write of a context counts by what it gives alone. -/
theorem modCtx_congr {f g : Ctx → Ctx} (h : f (ctxAt s n k) = g (ctxAt s n k)) : modCtx s n k f = modCtx s n k g := by
  have h' : f (fget {} (coreAt s n).ctxs k) = g (fget {} (coreAt s n).ctxs k) := h
  simp only [modCtx, modCore, h']
theorem noCore_of_noCtx (h : noCtx n k = false) : noCore n = false := (Bool.or_eq_false_iff.mp h).1

/-! ### Values, refusals and the budget (R65, R88, R201, R405) -/

theorem exec_valueArrival {i : Nat} {v : Pend} (hno : noCtx n k = false) (h : (ctxAt s n k).pend[i]? = some v) :
    exec (.valueArrival n k i) s = .next (modCtx s n k fun c => arrive { c with pend := c.pend.eraseIdx i } v) := by
  show execValueArrival n k i s = _
  simp only [execValueArrival, hno, valueArrives, h, Bool.false_eq_true, if_false]

theorem budgetOut_eq (s : State) (n k : Nat) :
    budgetOut s n k = decide ((coreAt s n).tbudget.toNat % 2 ^ 40 ≤ budgetCount s n k) := by simp [budgetOut, bits]

/-- A context's oldest refusal, once there is a bundle in whose place it is taken. -/
theorem exec_refusal {r : Refused} {l : List Refused} {pc : Nat} (hno : noCtx n k = false)
    (href : (ctxAt s n k).refusals = r :: l) (hplace : refusalPlace s n k = some (some pc))
    (hrun : (ctxAt s n k).running = true) (hstop : (ctxAt s n k).stopped = false) (hhalt : (coreAt s n).halted = false) :
    exec (.refusal n k) s = .next (takeTrapAt (modCtx s n k fun c =>
        { c with refusals := l, wait := none, starting := none, owed := c.owed || (r.defers && budgetOut s n k) }) n k
      { cause := r.cause, sub := r.sub, val := r.tval, tpc := pc, rpc := some r.rpc }) := by
  show execRefusal n k s = _
  simp only [execRefusal, hno, refusalTaken, href, hplace, hrun, hstop, hhalt, Bool.false_eq_true, if_false, Bool.not_true,
    Bool.or_false, Option.isSome_some, if_true]
  exact congrArg (fun v => Host.Outcome.next (takeTrapAt v n k _)) (modCtx_congr rfl)
theorem refusalPlace_bundle (hstart : (ctxAt s n k).starting = none) (hwait : (ctxAt s n k).wait = none)
    (htrap : (ctxAt s n k).trapWait = none) (hpark : ctxParked s n k = false)
    (hblock : ∀ a ∈ accessesOf s n k, a.blocking = false) : refusalPlace s n k = some (some (nextPc s n k)) := by
  have hany : ((accessesOf s n k).any fun a => a.blocking) = false := by simpa [List.any_eq_false] using hblock
  simp [refusalPlace, hstart, hwait, htrap, hpark, hany]
theorem refusalPlace_end {w : Wait} (hstart : (ctxAt s n k).starting = none) (hwait : (ctxAt s n k).wait = some w)
    (hend : endWaits w = true) (hpark : ctxParked s n k = false) : refusalPlace s n k = some (some w.pc) := by
  simp [refusalPlace, hstart, hwait, hend, hpark]

theorem budgetFallen_eq (s : State) (n k : Nat) : budgetFallen s n k =
    (decide ((coreAt s n).tbudget.toNat % 2 ^ 40 ≤ budgetCount s n k) || (ctxAt s n k).owed) := by
  rw [budgetFallen, budgetOut_eq]
/-- BUDGET can be taken in place of the next bundle. -/
theorem budgetDue_of_running (hrun : (ctxAt s n k).running = true) (hstop : (ctxAt s n k).stopped = false)
    (hhalt : (coreAt s n).halted = false) (htrap : (ctxAt s n k).trapWait = none) (hwait : (ctxAt s n k).wait = none)
    (hstart : (ctxAt s n k).starting = none) (hfallen : budgetFallen s n k = true) (href : (ctxAt s n k).refusals = [])
    (hsave : underSave s n k = false) (hclear : clearing s n k = false) : budgetDue s n k = true := by
  simp [budgetDue, hrun, hstop, hhalt, htrap, hwait, hstart, hfallen, href, hsave, hclear]
/-- An instruction that may not be withdrawn keeps BUDGET waiting (R405). -/
theorem budgetDue_of_defer {w : Wait} (hwait : (ctxAt s n k).wait = some w) (hfate : w.fate = .defer)
    (hpark : ctxParked s n k = false) : budgetDue s n k = false := by
  simp [budgetDue, hwait, hfate, hpark]
/-- A refusal that can be taken goes first (R201). -/
theorem budgetDue_of_refusal {r : Refused} {l : List Refused} (href : (ctxAt s n k).refusals = r :: l)
    (hplace : (refusalPlace s n k).isSome = true) : budgetDue s n k = false := by
  obtain ⟨place, hsome⟩ := Option.isSome_iff_exists.mp hplace
  simp [budgetDue, href, hsome]
/-- So does a WSCLR or PUBL under way (R405). -/
theorem budgetDue_of_clearing (hclear : clearing s n k = true) (hwait : (ctxAt s n k).wait = none)
    (hstart : (ctxAt s n k).starting = none) : budgetDue s n k = false := by
  simp [budgetDue, hclear, hwait, hstart]

theorem exec_budget_of_not_due (hno : noCtx n k = false) (h : budgetDue s n k = false) : exec (.budget n k) s = .next s := by
  show execBudget n k s = _
  simp only [execBudget, hno, budgetTaken, h, Bool.false_eq_true, if_false, Bool.not_false, if_true]
theorem exec_budget_of_due (hno : noCtx n k = false) (h : budgetDue s n k = true) (hwait : (ctxAt s n k).wait = none)
    (hstart : (ctxAt s n k).starting = none) :
    exec (.budget n k) s = .next (budgetTrap (cancelParked s n k) n k (nextPc s n k)) := by
  show execBudget n k s = _
  simp only [execBudget, hno, budgetTaken, h, hwait, hstart, Bool.false_eq_true, if_false, Bool.not_true, Option.isSome_none]

/-! ### What a start leaves of its core -/

/-- The core is the same but for its contexts, its L1 and its prefetch counters. -/
def SameCore (s t : State) (n : Nat) : Prop :=
  { coreAt t n with ctxs := [], l1 := [], counters := [] } = { coreAt s n with ctxs := [], l1 := [], counters := [] }

namespace SameCore

protected theorem trans (h : SameCore s t n) (g : SameCore t u n) : SameCore s u n := Eq.trans g h
theorem of_sameButCaches (h : SameButCaches s t) (n : Nat) : SameCore s t n :=
  (congrArg (fun c : Core => { c with ctxs := [] }) (h.cores n) :)
theorem modCtx (s : State) (n k j : Nat) (f : Ctx → Ctx) : SameCore s (modCtx s n k f) j := by
  unfold SameCore
  rw [coreAt_modCtx]
  split
  · next h => rw [h]
  · rfl
theorem inbound (h : SameCore s t n) : (coreAt t n).inbound = (coreAt s n).inbound := (congrArg Core.inbound h :)
theorem upcalls (h : SameCore s t n) : (coreAt t n).upcalls = (coreAt s n).upcalls := (congrArg Core.upcalls h :)
theorem untraced (h : SameCore s t n) (hs : Untraced s n) : Untraced t n :=
  (congrArg (fun c : Core => c.trctl.getLsbD 63) h :).trans hs
theorem bodyAt (h : SameCore s t n) (b : Nat) : bodyAt (coreAt t n) b = bodyAt (coreAt s n) b :=
  (congrArg (fun c : Core => Machine.bodyAt c b) h :)
theorem handlerDword (h : SameCore s t n) (i : Nat) : handlerDword t n i = handlerDword s n i :=
  (congrArg (fun c : Core => readBytes c.tcm (8 * (bits c.htable.toNat 0 16 + i)) 8) h :)
theorem handlerValid (h : SameCore s t n) (i : Nat) : handlerValid t n i = handlerValid s n i := by
  have htable : (coreAt t n).htable = (coreAt s n).htable := (congrArg Core.htable h :)
  simp only [Machine.handlerValid, h.handlerDword, htable]

end SameCore

theorem ctxAt_modCore_inbound (s : State) (n : Nat) (l : List InRec) (m k : Nat) :
    ctxAt (modCore s n fun c => { c with inbound := l }) m k = ctxAt s m k := by
  unfold ctxAt
  rw [coreAt_modCore]
  split
  · next h => rw [h]
  · rfl

/-! ### Deliveries (R24, R25, R38, R46, R47, R221) -/

/-- What a start makes of its context. -/
def begun (cycle pc : Nat) (cls : BitVec 2) (c : Ctx) : Ctx :=
  { c with running := true, stopped := false, reserved := false, pc := pc, npc := pc, base := cls, inh := 0, tag := none,
           tstat := 0, budget0 := cycle, icount := 0, copies := [], cpyq := [], sends := [], record := none,
           start := .other, wait := none, rope := .none, fwd := [], upcall := false, starting := none, trapWait := none,
           arrivals := [], owed := false }
theorem beginCtx_eq (s : State) (n k pc : Nat) (cls : BitVec 2) :
    beginCtx s n k pc cls = modCtx s n k (begun s.cycle pc cls) := rfl

/-- What a record's delivery registers make of its context (R38, R348, R356). -/
def withRecord (r : TaskRecord) (c : Ctx) : Ctx :=
  let d := writeX (writeX (writeX c 4 (dn r.lo)) 5 (dn r.len)) 6 r.mid
  let d := writeX (writeX (writeX (writeX d 7 r.arg0) 8 r.arg1) 9 r.arg2) 10 r.arg3
  { d with ancb := dn r.lo, ancl := dn r.len, msgid := r.mid, record := some r, start := .task (midSlice r.mid),
           tstat := if r.trapped then dn (2 ^ 6 + r.nsend.toNat * 2 ^ 24) else 0,
           tcause := if r.trapped then dn r.tcause.toNat else d.tcause }
/-- A delivery writes x4 to x10 alone. -/
theorem rx_withRecord_other (r : TaskRecord) (c : Ctx) {j : Nat} (hj : j < 4 ∨ 10 < j) :
    rx (withRecord r c).regs j = rx c.regs j := by
  have hne (m : Nat) (hm : 4 ≤ m ∧ m ≤ 10) : ¬ (j = m ∧ j ≠ 0) := by omega
  simp only [withRecord, rx_writeX, hne 4 (by omega), hne 5 (by omega), hne 6 (by omega), hne 7 (by omega),
    hne 8 (by omega), hne 9 (by omega), hne 10 (by omega), if_false]
theorem deliver_eq (s : State) (n k : Nat) (r : TaskRecord) : deliver s n k r =
    startBody (acquireRange (modCtx s n k fun c => withRecord r (begun s.cycle 0 r.cls c)) n r.lo r.hi) n k r.body.toNat :=
  congrArg (fun u => startBody (acquireRange u n r.lo r.hi) n k r.body.toNat) (modCtx_modCtx s n k _ _)

theorem startBody_of_cached {b : Nat} {e : Dword} (h : bodyAt (coreAt s n) b = some e) :
    startBody s n k b = finishStart s n k b e.toNat := by simp only [startBody, h]
/-- A task starts at its entry's pc when the entry is sound and its text present (R24). -/
theorem finishStart_of_sound {b e : Nat} (hu : Untraced s n) (hvalid : bodyValid e = true)
    (hkind : (if Config.isHome n then bodyNear e else bodyFar e) = true) (habs : bodyAbsent (Config.isHome n) e = false) :
    finishStart s n k b e = modCtx s n k fun c =>
      { c with starting := none, pc := bodyPc (Config.isHome n) e, npc := bodyPc (Config.isHome n) e } := by
  simp only [finishStart, trace_of_untraced ((SameCore.modCtx s n k n _).untraced hu), hvalid, hkind, habs, Bool.and_self,
    Bool.not_true, Bool.false_eq_true, if_false]

/-- A record whose body's entry is cached, sound and present starts its context with the delivery registers. -/
theorem deliver_of_cached {r : TaskRecord} {e : Dword} (hu : Untraced s n)
    (he : bodyAt (coreAt s n) r.body.toNat = some e) (hvalid : bodyValid e.toNat = true)
    (hkind : (if Config.isHome n then bodyNear e.toNat else bodyFar e.toNat) = true)
    (habs : bodyAbsent (Config.isHome n) e.toNat = false) :
    SameCore s (deliver s n k r) n ∧ ctxAt (deliver s n k r) n k =
      { withRecord r (begun s.cycle 0 r.cls (ctxAt s n k)) with
        starting := none, pc := bodyPc (Config.isHome n) e.toNat, npc := bodyPc (Config.isHome n) e.toNat } := by
  have hcaches := SameButCaches.acquireRange (modCtx s n k fun c => withRecord r (begun s.cycle 0 r.cls c)) n r.lo r.hi
  have hcore := (SameCore.modCtx s n k n _).trans (.of_sameButCaches hcaches n)
  rw [deliver_eq, startBody_of_cached ((hcore.bodyAt _).trans he),
    finishStart_of_sound (hcore.untraced hu) hvalid hkind habs]
  exact ⟨hcore.trans (.modCtx _ n k n _), by rw [ctxAt_modCtx_same, hcaches.ctxAt, ctxAt_modCtx_same]⟩

/-- A start at a core that has acquired everything. -/
theorem start_after_acquire (s : State) (n k : Nat) (f g : Ctx → Ctx) :
    SameCore s (modCtx (modCtx (acquireAll s n) n k f) n k g) n ∧
    ctxAt (modCtx (modCtx (acquireAll s n) n k f) n k g) n k = g (f (ctxAt s n k)) := by
  have hcaches := SameButCaches.acquireAll s n
  refine ⟨((SameCore.of_sameButCaches hcaches n).trans (.modCtx _ n k n _)).trans (.modCtx _ n k n _), ?_⟩
  rw [ctxAt_modCtx_same, ctxAt_modCtx_same, hcaches.ctxAt]

/-- A launch starts its context at its pc with x3 set, and its issuer counts it (R47, R137). -/
theorem startLaunch_starts {pc : Nat} {ap : Dword} {cls : BitVec 2} {issuer : Nat × Nat} (hissuer : issuer ≠ (n, k)) :
    SameCore s (startLaunch s n k pc ap cls issuer) n ∧
    ctxAt (startLaunch s n k pc ap cls issuer) n k =
      writeX (begun (acquireAll s n).cycle (pc % 2 ^ 19) cls (ctxAt s n k)) 3 ap ∧
    ctxAt (startLaunch s n k pc ap cls issuer) issuer.1 issuer.2 =
      { ctxAt s issuer.1 issuer.2 with treel := (ctxAt s issuer.1 issuer.2).treel - 1,
                                       wfa := (ctxAt s issuer.1 issuer.2).wfa + 1 } := by
  have hown : ¬ (n = issuer.1 ∧ k = issuer.2) := fun h => hissuer (Prod.ext h.1.symm h.2.symm)
  have hother : ¬ (issuer.1 = n ∧ issuer.2 = k) := fun h => hissuer (Prod.ext h.1 h.2)
  rw [startLaunch, beginCtx_eq]
  refine ⟨(start_after_acquire s n k _ _).1.trans (.modCtx _ _ _ n _), ?_, ?_⟩
  · rw [ctxAt_modCtx, if_neg hown]
    exact (start_after_acquire s n k _ _).2
  · rw [ctxAt_modCtx_same, ctxAt_modCtx, if_neg hother, ctxAt_modCtx, if_neg hother, (SameButCaches.acquireAll s n).ctxAt]

/-- The registers with which a copy's handler starts (R223). -/
def withCopy (h : Nat) (base bytes cause addr total mid : Dword) (c : Ctx) : Ctx :=
  let d := writeX (writeX (writeX (writeX c 4 base) 5 bytes) 6 mid) 7 cause
  { writeX (writeX (writeX d 8 addr) 9 total) 10 (dn h) with msgid := mid }
/-- A copy's handler starts at the pc of its entry. -/
theorem startHandler_of_valid {h : Nat} {base bytes cause addr total mid : Dword} (hvalid : handlerValid s n h = true) :
    SameCore s (startHandler s n k h base bytes cause addr total mid) n ∧
    ctxAt (startHandler s n k h base bytes cause addr total mid) n k = withCopy h base bytes cause addr total mid
      (begun (acquireAll s n).cycle (8 * bits (handlerDword s n h) 0 16) (BitVec.ofNat 2 (bits (handlerDword s n h) 16 2))
        (ctxAt s n k)) := by
  rw [startHandler, beginCtx_eq, if_pos (((start_after_acquire s n k _ _).1.handlerValid h).trans hvalid)]
  exact start_after_acquire s n k _ _

/-- The start that a record taken from a core's inbound queue makes. -/
def startOf (s : State) (n k : Nat) (r : InRec) : State :=
  match r.body with
  | .task t _ => deliver s n k t
  | .launch pc ap cls issuer => startLaunch s n k pc ap cls issuer
  | .handler h base bytes cause addr total => startHandler s n k h base bytes cause addr total r.mid
/-- The first record of an inbound queue, not held, starts the lowest free context (R25, R46). -/
theorem exec_inboundDelivery {r : InRec} {l : List InRec} (hno : noCore n = false) (hin : (coreAt s n).inbound = r :: l)
    (hheld : r.held = none) (hfree : freeCtx s n = some k) (hhalt : (coreAt s n).halted = false)
    (hpart : (coreAt s n).part.isSome = true) :
    exec (.inboundDelivery n) s = .next (startOf (modCore s n fun c => { c with inbound := l }) n k r) := by
  have hpop : popInbound (coreAt s n).inbound = some (r, l) := by simp [hin, popInbound, hheld]
  have hnone : (coreAt s n).part.isNone = false := by simpa [Option.isSome_iff_ne_none, Option.isNone_iff_eq_none] using hpart
  show execInboundDelivery n s = _
  simp only [execInboundDelivery, hno, deliverInbound, hfree, hpop, hhalt, hnone, Bool.or_self, Bool.false_eq_true, if_false]
  rfl

/-- What an upcall's registers make of its context (R339). -/
def withUpcall (x : Upcall) (c : Ctx) : Ctx :=
  { writeX (writeX (writeX c 4 x.va) 5 x.info) 6 (dn x.pc) with upcall := true }
/-- An upcall's start at a core that has acquired everything. -/
def upcallBegun (s : State) (n k pc : Nat) (x : Upcall) : State :=
  modCtx (beginCtx (acquireAll s n) n k pc x.cls) n k (withUpcall x)
theorem upcallBegun_starts (s : State) (n k pc : Nat) (x : Upcall) :
    SameCore s (upcallBegun s n k pc x) n ∧
    ctxAt (upcallBegun s n k pc x) n k = withUpcall x (begun (acquireAll s n).cycle pc x.cls (ctxAt s n k)) :=
  start_after_acquire s n k _ _
/-- The context that an enabled upcall keeps starts on its oldest entry (R338, R339). -/
theorem exec_upcallStart {x : Upcall} {l : List Upcall} (hno : noCore n = false) (hup : (coreAt s n).upcalls = x :: l)
    (hon : (coreAt s n).upcvec.getLsbD 63 = true) (hk : bits (coreAt s n).upcvec.toNat 16 3 = k)
    (hrun : (ctxAt s n k).running = false) (hres : (ctxAt s n k).reserved = false) (hhalt : (coreAt s n).halted = false)
    (hpre : (coreAt s n).preempt = false) (hload : (partAt s (partOf s n)).loading = false) (hu : Untraced s n) :
    exec (.upcallStart n) s = .next (upcallBegun (modCore s n fun c => { c with upcalls := l }) n k
      (8 * bits (coreAt s n).upcvec.toNat 0 16) x) := by
  have huv : Untraced (modCore s n fun c => { c with upcalls := l }) n := by simpa [Untraced] using hu
  show execUpcallStart n s = _
  simp only [execUpcallStart, hno, startUpcall, hup, hk, hrun, hres, hhalt, hpre, hload, hon, Bool.or_self, Bool.not_true,
    Bool.false_eq_true, if_false]
  exact congrArg _ (trace_of_untraced ((upcallBegun_starts _ n k _ x).1.untraced huv) ..)

end
end Sys2Proof.Machine

/-! ## Debug stops, and a partition's window on its cores -/

namespace Sys2Proof.Machine
section
variable {s t u : State} {n k q : Nat}

/-! ### Pre-emption and debug stops (R64, R369, R372) -/

theorem freeCtx_of_preempt (h : (coreAt s n).preempt = true) : freeCtx s n = none := by
  simp only [freeCtx, h, Bool.true_or, if_true]

/-- A write of a core counts by what it gives alone. -/
theorem modCore_congr {f g : Core → Core} (h : f (coreAt s n) = g (coreAt s n)) : modCore s n f = modCore s n g := by
  simp only [modCore, h]
theorem debugStop_of_halted (h : (coreAt s n).halted = true) : debugStop s n = s := by
  simp only [debugStop, h, if_true]
/-- A stop of an untraced core stops it and writes nothing else. -/
theorem debugStop_of_running (h : (coreAt s n).halted = false) (hu : Untraced s n) :
    debugStop s n = modCore s n fun c => { c with halted := true, haltAt := s.cycle } := by
  have htraces (l : List (Nat × Ctx)) : l.foldl (fun t e => trace t n e.1 6 e.2.pc 0) s = s :=
    foldl_keeps (P := fun t => t = s) (fun t e ht => by rw [ht, trace_of_untraced hu]) rfl
  simp only [debugStop, h, htraces, Bool.false_eq_true, if_false]
theorem debugResume_of_halted (h : (coreAt s n).halted = true) : debugResume s n = modCore s n fun c =>
    { c with halted := false, ctxs := c.ctxs.map fun e => (e.1, { e.2 with
      bpSkip := true,
      budget0 := if c.haltAt ≤ e.2.budget0 then s.cycle else e.2.budget0 + (s.cycle - c.haltAt) }) } :=
  modCore_congr (by simp only [h, if_true])

/-! ### A partition whose function runs (R367, R390) -/

section
variable (hq : (coreAt s n).part = some q) (hrun : (partAt s q).tdi = .run)
include hq hrun

/-- A facility is open when the policy opens it. -/
theorem facility_eq (i : Nat) : facility s n i = (partAt s q).policy.getLsbD i := by
  simp [facility, partOf, hq, hrun]
theorem stopOpen_eq : stopOpen s n = (partAt s q).policy.getLsbD 0 := facility_eq hq hrun 0
theorem exec_halt (hno : noCore n = false) :
    exec (.halt n) s = .next (if (partAt s q).policy.getLsbD 0 then debugStop s n else s) := by
  show execHalt n s = _
  simp only [execHalt, hno, stopOpen_eq hq hrun, Bool.false_eq_true, if_false]
theorem exec_resume (hno : noCore n = false) :
    exec (.resume n) s = .next (if (partAt s q).policy.getLsbD 0 then debugResume s n else s) := by
  show execResume n s = _
  simp only [execResume, hno, stopOpen_eq hq hrun, Bool.false_eq_true, if_false]
theorem moduleWrite_eq (off : Nat) (v : Dword) : moduleWrite s n off v =
    if (partAt s q).policy.getLsbD (if off = 0x50 then 1 else 0) then debugWrite s n off v else s := by
  simp only [moduleWrite, facility_eq hq hrun]
/-- A breakpoint register reads its value while STOP is open, and 0 else (R370). -/
theorem moduleRead_breakpoint {i : Nat} (hi : i < 4) :
    moduleRead s n (0x10 + 8 * i) = if (partAt s q).policy.getLsbD 0 then (coreAt s n).bp.getD i 0 else 0 := by
  have hslot : (0x10 + 8 * i) / 8 = i + 2 := by omega
  simp only [moduleRead, hslot, facility_eq hq hrun]
  obtain rfl | rfl | rfl | rfl : i = 0 ∨ i = 1 ∨ i = 2 ∨ i = 3 := by omega
  all_goals rfl

end

/-- The breakpoint registers of a debug module stand at 0x10 (R370). -/
theorem debugWrite_breakpoint {i : Nat} (hi : i < 4) (s : State) (n : Nat) (v : Dword) :
    debugWrite s n (0x10 + 8 * i) v = modCore s n fun c => { c with bp := c.bp.set i (v &&& 0xC00000000000FFFF) } := by
  obtain rfl | rfl | rfl | rfl : i = 0 ∨ i = 1 ∨ i = 2 ∨ i = 3 := by omega
  all_goals rfl
/-- The addresses of its watchpoints stand at 0x30 (R371). -/
theorem debugWrite_watchpoint {i : Nat} (hi : i < 2) (s : State) (n : Nat) (v : Dword) :
    debugWrite s n (0x30 + 8 * i) v = modCore s n fun c => { c with wpa := c.wpa.set i v } := by
  obtain rfl | rfl : i = 0 ∨ i = 1 := by omega
  all_goals rfl

/-! ### Requests to the window (R195, R368, R391) -/

/-- A request with none before it at its service core is performed at once. -/
theorem windowReq_of_idle (hcut : (partAt s q).cut = none) (hidle : serviceBusy s (windowService s q) q s.accessId = false)
    (r : WinReq) : windowReq s q r = windowDo { s with accessId := s.accessId + 1 } q s.accessId r := by
  simp only [windowReq, takesNone, hcut, hidle, Option.isSome_none, Bool.false_and, Bool.or_self, Bool.false_eq_true, if_false]
theorem windowDo_debug (hlive : (partAt s q).live = true) (hrun : (partAt s q).tdi = .run) (hin : inPart s q n = true)
    (id off : Nat) (v : Dword) : windowDo s q id (.debug n off v) = moduleWrite s n off v := by
  simp [windowDo, windowOpen, hlive, hrun, hin]
/-- A write of a debug module by an open window. -/
theorem exec_debugRegisterWrite (hno : noCore n = false) (hq : (coreAt s n).part = some q)
    (hrun : (partAt s q).tdi = .run) (hlive : (partAt s q).live = true) (hcut : (partAt s q).cut = none)
    (hin : inPart s q n = true) (hidle : serviceBusy s (windowService s q) q s.accessId = false) (off : Nat) (v : Dword) :
    exec (.debugRegisterWrite n off v) s = .next
      (if (partAt s q).policy.getLsbD (if off = 0x50 then 1 else 0) then
        debugWrite { s with accessId := s.accessId + 1 } n off v
      else { s with accessId := s.accessId + 1 }) := by
  have hpart : partOf s n = q := by rw [partOf, hq]; rfl
  show execDebugRegisterWrite n off v s = _
  simp only [execDebugRegisterWrite, hno, hq, hpart, Option.isSome_some, Bool.false_eq_true, if_false, if_true,
    windowReq_of_idle hcut hidle]
  have hdo := windowDo_debug (s := { s with accessId := s.accessId + 1 }) hlive hrun hin s.accessId off v
  exact congrArg _ (hdo.trans (moduleWrite_eq (s := { s with accessId := s.accessId + 1 }) hq hrun off v))

/-- The bytes of a number, each by its place. -/
theorem toBytes_eq_map (v : Nat) (len : Nat) :
    toBytes v len = (List.range len).map fun i => BitVec.ofNat 8 (v / 2 ^ (8 * i)) := by
  induction len generalizing v with
  | zero => rfl
  | succ len ih =>
    rw [toBytes, ih, List.range_succ_eq_map, List.map_cons, List.map_map]
    refine congrArg₂ _ (by simp) (List.map_congr_left fun i _ => ?_)
    have hstep : v / 256 / 2 ^ (8 * i) = v / 2 ^ (8 * (i + 1)) := by
      rw [Nat.div_div_eq_div_mul, show 256 = 2 ^ 8 from rfl, ← Nat.pow_add, Nat.mul_succ, Nat.add_comm]
    simp [hstep]
/-- The bytes of an aligned dword of an open window are those of its value. -/
theorem windowBytes_dword (hlive : (partAt s q).live = true) (hrun : (partAt s q).tdi = .run) {off : Nat}
    (halign : off % 8 = 0) : windowBytes s q off 8 = toBytes (windowDword s q off) 8 := by
  rw [windowBytes, toBytes_eq_map]
  refine List.map_congr_left fun i hi => ?_
  have hlt : i < 8 := List.mem_range.mp hi
  have hbase : (off + i) / 8 * 8 = off := by omega
  have hbyte : (off + i) % 8 = i := by omega
  simp [hlive, hrun, hbase, hbyte]
/-- A debug module's dwords stand from 0x100000, 256 bytes to a core. -/
theorem windowDword_module {off : Nat} (hn : n < 768) (hoff : off < 256) (hin : inPart s q n = true) :
    windowDword s q (0x100000 + 256 * n + off) = (moduleRead s n off).toNat := by
  have hcore : (0x100000 + 256 * n + off - 0x100000) / 256 = n := by omega
  have hreg : (0x100000 + 256 * n + off - 0x100000) % 256 = off := by omega
  unfold windowDword
  rw [if_neg (by omega), if_neg (by omega), if_neg (by omega), if_neg (by omega), if_neg (by simp; omega),
    if_neg (by simp; omega), if_pos (by simp; omega), hcore, hreg, if_pos hin]
/-- The bytes of a breakpoint register in an open window. -/
theorem windowBytes_breakpoint {i : Nat} (hq : (coreAt s n).part = some q) (hrun : (partAt s q).tdi = .run)
    (hlive : (partAt s q).live = true) (hin : inPart s q n = true) (hn : n < 768) (hi : i < 4) :
    windowBytes s q (0x100000 + 256 * n + (0x10 + 8 * i)) 8 =
      toBytes (if (partAt s q).policy.getLsbD 0 then (coreAt s n).bp.getD i 0 else 0).toNat 8 := by
  rw [windowBytes_dword hlive hrun (by omega), windowDword_module hn (by omega) hin, moduleRead_breakpoint hq hrun hi]
/-- A host's read of the window with none before it. -/
theorem exec_hostRead_window (hq : q < 64) (hcut : (partAt s q).cut = none)
    (hidle : serviceBusy s (windowService s q) q s.accessId = false) {off size : Nat} (hfit : off + size ≤ 2 ^ 21) :
    exec (.hostRead q (2 ^ 57 + off) size) s = .next (modPart { s with accessId := s.accessId + 1 } q fun x =>
      { x with answers := x.answers ++ [(s.accessId, some (windowBytes { s with accessId := s.accessId + 1 } q off size))] }) := by
  have hno : noPart q = false := by simpa [noPart] using hq
  show execHostRead q (2 ^ 57 + off) size s = _
  rw [execHostRead, hno, windowStart, if_neg (by simp), if_neg (by omega), if_neg (by omega), Nat.add_sub_cancel_left,
    windowReq_of_idle hcut hidle]
  rfl

end
end Sys2Proof.Machine

namespace Sys2Proof
open Machine

/-- Settles O53, clause by clause: each event is performed by its own rule above, and a start leaves its core but for
its contexts and its caches (`SameCore`). -/
theorem coresTakeWhatReachesThem : Obligations.CoresTakeWhatReachesThem := by
  unfold Obligations.CoresTakeWhatReachesThem
  intro s n k hno
  have hcore := noCore_of_noCtx hno
  dsimp only
  refine ⟨fun i r v h => exec_valueArrival hno h, fun i r v due h => exec_valueArrival hno h,
    fun i r v h => exec_valueArrival hno h, ?_, ?_, ?_, ?_, ?_, ?_, ?_, ?_, ?_, ?_, ?_, ?_, freeCtx_of_preempt, ?_⟩
  · intro r l href hrun hstop hhalt hstart hwait htrap hpark hblock
    rw [exec_refusal hno href (refusalPlace_bundle hstart hwait htrap hpark hblock) hrun hstop hhalt, budgetOut_eq]
  · intro r l w href hrun hstop hhalt hstart hwait hend hpark
    rw [exec_refusal hno href (refusalPlace_end hstart hwait hend hpark) hrun hstop hhalt, budgetOut_eq]
  · intro hrun hstop hhalt htrap hwait hstart hspent href hsave hclear
    rw [exec_budget_of_due hno (budgetDue_of_running hrun hstop hhalt htrap hwait hstart ((budgetFallen_eq s n k).trans hspent)
      href hsave hclear) hwait hstart]
    rfl
  · exact fun w hwait hfate hpark => exec_budget_of_not_due hno (budgetDue_of_defer hwait hfate hpark)
  · exact fun r l href hplace => exec_budget_of_not_due hno (budgetDue_of_refusal href hplace)
  · exact fun hclear hwait hstart => exec_budget_of_not_due hno (budgetDue_of_clearing hclear hwait hstart)
  · intro r x mid l e hin hfree hhalt hpart hu he hvalid hkind habs
    refine ⟨_, exec_inboundDelivery hcore hin rfl hfree hhalt hpart, ?_⟩
    obtain ⟨hsame, hctx⟩ := deliver_of_cached (s := modCore s n fun c => { c with inbound := l }) (k := k) (r := r)
      (by simpa [Untraced] using hu) (by simpa [bodyAt] using he) hvalid hkind habs
    rw [ctxAt_modCore_inbound] at hctx
    refine ⟨hsame.inbound.trans (by simp), ?_⟩
    dsimp only [startOf]
    rw [hctx]
    refine ⟨rfl, rfl, rfl, rfl, ?_, ?_, ?_, ?_, ?_, ?_, ?_, rfl, ?_, ?_, rfl, fun j _ hj => rx_withRecord_other r _ hj⟩
    all_goals simp [withRecord, rx_writeX, dn]
  · intro pc ap cls issuer mid l hin hfree hhalt hpart hissuer
    refine ⟨_, exec_inboundDelivery hcore hin rfl hfree hhalt hpart, ?_⟩
    obtain ⟨hsame, hctx, hcount⟩ := startLaunch_starts (s := modCore s n fun c => { c with inbound := l }) (pc := pc)
      (ap := ap) (cls := cls) hissuer
    refine ⟨hsame.inbound.trans (by simp), ?_⟩
    rw [ctxAt_modCore_inbound] at hctx hcount
    dsimp only [startOf]
    rw [hctx, hcount]
    exact ⟨rfl, rfl, rfl, by simp [rx_writeX], rfl, rfl⟩
  · intro h base bytes cause addr total mid l hin hfree hhalt hpart hvalid
    refine ⟨_, exec_inboundDelivery hcore hin rfl hfree hhalt hpart, ?_⟩
    obtain ⟨hsame, hctx⟩ := startHandler_of_valid (s := modCore s n fun c => { c with inbound := l }) (n := n) (k := k)
      (h := h) (base := base) (bytes := bytes) (cause := cause) (addr := addr) (total := total) (mid := mid)
      (by simpa [handlerValid, handlerDword] using hvalid)
    refine ⟨hsame.inbound.trans (by simp), ?_⟩
    dsimp only [startOf]
    rw [hctx]
    refine ⟨rfl, ?_, ?_, ?_, ?_, ?_, ?_, ?_, ?_⟩
    · simp [withCopy, writeX, begun, bits, handlerDword]
    all_goals simp [withCopy, rx_writeX, dn]
  · intro x l hup hon hk hrun hres hhalt hpre hload hu
    refine ⟨_, exec_upcallStart hcore hup hon hk hrun hres hhalt hpre hload hu, ?_⟩
    obtain ⟨hsame, hctx⟩ := upcallBegun_starts (modCore s n fun c => { c with upcalls := l }) n k
      (8 * bits (coreAt s n).upcvec.toNat 0 16) x
    refine ⟨hsame.upcalls.trans (by simp), ?_⟩
    rw [hctx]
    refine ⟨rfl, rfl, ?_, rfl, ?_, ?_, ?_⟩
    · simp [withUpcall, writeX, begun, bits]
    all_goals simp [withUpcall, rx_writeX, dn]
  · exact if_neg (by simp [hcore])
  · exact if_neg (by simp [hcore])
  · intro q hq hrun
    refine ⟨fun hopen => ⟨fun hhalt hu => ?_, fun hhalt => ?_, fun hhalt => ?_⟩, fun hclosed => ⟨?_, ?_⟩,
      fun hlive hcut hin hidle => ?_⟩
    · rw [exec_halt hq hrun hcore, if_pos hopen, debugStop_of_running hhalt hu]
    · rw [exec_halt hq hrun hcore, if_pos hopen, debugStop_of_halted hhalt]
    · rw [exec_resume hq hrun hcore, if_pos hopen, debugResume_of_halted hhalt]
    · rw [exec_halt hq hrun hcore, if_neg (ne_true_of_eq_false hclosed)]
    · rw [exec_resume hq hrun hcore, if_neg (ne_true_of_eq_false hclosed)]
    · have hwrite := exec_debugRegisterWrite hcore hq hrun hlive hcut hin hidle
      refine ⟨fun hopen => ⟨fun v i hi => ?_, fun v i hi => ?_⟩, fun v => ?_, fun i hi hpart => ?_⟩
      · rw [hwrite, if_neg (show ¬ 0x10 + 8 * i = 0x50 by omega), if_pos hopen, debugWrite_breakpoint hi]
      · rw [hwrite, if_neg (show ¬ 0x30 + 8 * i = 0x50 by omega), if_pos hopen, debugWrite_watchpoint hi]
      · rw [hwrite, if_pos rfl]
        rfl
      · have hn : n < 768 := by simpa [noCore] using hcore
        have haddr : 2 ^ 57 + 0x100010 + 256 * n + 8 * i = 2 ^ 57 + (0x100000 + 256 * n + (0x10 + 8 * i)) := by omega
        have hread := windowBytes_breakpoint (s := { s with accessId := s.accessId + 1 }) hq hrun hlive hin hn hi
        rw [haddr, exec_hostRead_window hpart hcut hidle (by omega), hread]
        rfl

end Sys2Proof

/-! # Fetching and issuing (R48, R82, R83, R90) -/

namespace Sys2Proof.Machine
section
variable {s u : State} {n : Nat}

/-- n bytes of a memory make a number of n bytes. -/
theorem readBytes_lt (m : FMap Byte) (a n : Nat) : readBytes m a n < 256 ^ n := by
  induction n generalizing a with
  | zero => exact Nat.one_pos
  | succ n ih =>
    have hlow := (bget m a).isLt
    have hhigh := ih (a + 1)
    rw [readBytes, Nat.pow_succ]
    omega
theorem tcmDword_lt (s : State) (n pc : Nat) : tcmDword s n pc < 2 ^ 64 := readBytes_lt _ pc 8
theorem ctxAt_noteFetch (s : State) (n pc m k : Nat) : ctxAt (noteFetch s n pc) m k = ctxAt s m k := by
  unfold ctxAt noteFetch
  rw [coreAt_modCore]
  split
  · next h => rw [h]
  · rfl
theorem cur_noteFetch (s : State) (n pc : Nat) : cur (noteFetch s n pc) = cur s := ctxAt_noteFetch s n pc s.core s.ctx

/-! ### From a step to the bundle at a context's pc -/

/-- With nothing under way a step is an issue. -/
theorem step_of_idle (hschedule : s.schedule = []) (hticks : ticks s = []) (hbudgets : budgets s = []) (hdues : dues s = [])
    (hworks : works s = []) : step s = issueStep s := by
  simp only [step, hschedule, hticks, hbudgets, hdues, hworks]
theorem issueStep_of_next {skipped : List Nat} {k : Nat} (h : nextCore s (coreOrder s) [] = some (skipped, n, k)) :
    issueStep s = runNext (issuing s skipped n k) := by
  simp only [issueStep, h]
  rfl
/-- A core's first fetch of a dword gives it as the TCM holds it, and notes it (R97, R98). -/
theorem fetchDword_of_new {pc : Nat} (h : ffind (coreAt s n).fetched pc = none) :
    fetchDword s n pc = (dn (tcmDword s n pc), noteFetch s n pc) := by
  simp only [fetchDword, h]
  rfl
/-- A context that is no second fetches below the boundary the bundle that its core's TCM holds at its pc. -/
theorem fetchNext_of_new (hsecond : isSecond (cur s) = false) (hpc : (cur s).pc < boundary s s.core)
    (hnew : ffind (coreAt s s.core).fetched (cur s).pc = none) : fetchNext s =
      (bundleOf (Config.isHome s.core) (dn (tcmDword s s.core (cur s).pc)), noteFetch s s.core (cur s).pc) := by
  unfold fetchNext
  split
  · next hrope _ => simp [isSecond, hrope] at hsecond
  · simp only [if_neg (Nat.not_le_of_lt hpc), fetchDword_of_new hnew]
    rfl
/-- A context that no breakpoint stops and that is no second runs the bundle it fetches (R90, R370). -/
theorem runNext_of_bundle {is : List (Instr × Nat)} (hskip : (cur s).bpSkip = false) (hbp : bpHit s = none)
    (hsecond : isSecond (cur s) = false) (hfetch : fetchNext s = (.bundle is, u)) : runNext s = runBundle u is := by
  unfold runNext
  simp only [hbp, hskip, Bool.false_eq_true, if_false]
  split
  · next hrope _ => simp [isSecond, hrope] at hsecond
  · simp only [hfetch]

section
variable {d : Nat} (hd : d < 2 ^ 64) {home : Bool}
include hd

/-- A dword decodes by its low and its high word (R82). -/
theorem words_of_dword : bits (dn d).toNat 0 32 = d % 2 ^ 32 ∧ bits (dn d).toNat 32 32 = d / 2 ^ 32 := by
  have h : (dn d).toNat = d := (BitVec.toNat_ofNat ..).trans (Nat.mod_eq_of_lt hd)
  rw [h, bits, bits]
  omega
theorem bundleOf_lone {i : Instr} (h : decodeBundle home (d % 2 ^ 32) (d / 2 ^ 32) = .ok (.lone i)) :
    bundleOf home (dn d) = .bundle [(i, 0)] := by
  simp only [bundleOf, (words_of_dword hd).1, (words_of_dword hd).2, h]
theorem bundleOf_pair {c a : Instr} (h : decodeBundle home (d % 2 ^ 32) (d / 2 ^ 32) = .ok (.pair c a))
    (hdest : pairDest c a = false) : bundleOf home (dn d) = .bundle [(c, 0), (a, 1)] := by
  simp only [bundleOf, (words_of_dword hd).1, (words_of_dword hd).2, h, hdest, Bool.false_eq_true, if_false]

end

/-! ### Which bundles a watchpoint sees (R371) -/

/-- The A-class opcode map names A-class instructions alone. -/
theorem isA_of_buildA {w : Nat} {lit : Word} {gp : BitVec 2} {i : Instr} (h : buildA w lit gp = some i) : isA i = true := by
  unfold buildA at h
  repeat' split at h
  all_goals cases h <;> rfl
theorem eq_of_checkInstr {home lone : Bool} {lit : Word} {i j : Instr} (h : checkInstr home lone lit i = .ok j) : i = j := by
  unfold checkInstr at h
  repeat' split at h
  all_goals cases h
  rfl
/-- The second half of a pair that decodes is of the A-class (R82). -/
theorem isA_of_decodeBundle {home : Bool} {w0 w1 : Nat} {c a : Instr} (h : decodeBundle home w0 w1 = .ok (.pair c a)) :
    isA a = true := by
  unfold decodeBundle at h
  repeat' split at h
  all_goals cases h
  next hdecode =>
    unfold decodeA at hdecode
    split at hdecode
    · cases hdecode
    · next hbuild => exact eq_of_checkInstr hdecode ▸ isA_of_buildA hbuild
/-- An A-class instruction accesses no virtual memory, nor does a spawning one. -/
theorem watchSpan_of_isA {a : Instr} (h : isA a = true) (r : Regs) : watchSpan r a = ([], false, false) := by
  cases a
  all_goals first | rfl | cases h
theorem watchSpan_of_spawnBody {c : Instr} {b : Nat} (h : spawnBody s c = some b) (r : Regs) :
    watchSpan r c = ([], false, false) := by
  unfold spawnBody at h
  split at h
  · rfl
  · rfl
  · rfl
  · rfl
  · cases h
/-- A bundle that accesses no virtual memory stands as it ends. -/
theorem watch_of_no_span {c a : Instr} {r : Regs} (hc : watchSpan r c = ([], false, false)) (ha : watchSpan r a = ([], false, false))
    (v : State) (pc : Nat) (after : State) : watch v pc [c, a] r after = after := by
  simp [watch, watchHits, hc, ha]

/-- A pair whose bundle may issue performs both halves on the operands read before either (R83, R90). That its watchpoint
names the pc before the body's entry was read does not matter: a bundle that reads an entry is not watched. -/
theorem runBundle_of_pair {c a : Instr} (ha : isA a = true)
    (h : check (readEntry s [(c, 0), (a, 1)]) [(c, 0), (a, 1)] = .go) :
    let v := readEntry s [(c, 0), (a, 1)]
    runBundle s [(c, 0), (a, 1)] = andThen (runHalves (begin v [c, a]) c a) fun t =>
      .next (watch v (cur s).pc [c, a] (snapshot v) (endBundle t)) := by
  simp only [runBundle, h]
  refine congrArg _ (funext fun t => congrArg _ ?_)
  cases hmissed : missed s [(c, 0), (a, 1)] with
  | none => rw [show readEntry s [(c, 0), (a, 1)] = s by simp only [readEntry, hmissed]]
  | some b =>
    obtain ⟨b', hbody⟩ : ∃ b', spawnBody s c = some b' := by
      cases hbody : spawnBody s c with
      | none => simp [missed, hbody] at hmissed
      | some b' => exact ⟨b', rfl⟩
    rw [watch_of_no_span (watchSpan_of_spawnBody hbody _) (watchSpan_of_isA ha _),
      watch_of_no_span (watchSpan_of_spawnBody hbody _) (watchSpan_of_isA ha _)]

end
end Sys2Proof.Machine

namespace Sys2Proof
open Machine

/-- Settles O5: the step issues from the state that the scheduler leaves (`step_of_idle`, `issueStep_of_next`), whose
context runs the bundle that its dword decodes to (`runNext_of_bundle`). -/
theorem stepRunsTheDecodedBundle : Obligations.StepRunsTheDecodedBundle := by
  intro s skipped n k hschedule hticks hbudgets hdues hworks hnext
  extract_lets u pc
  intro hskip hbp hsecond hpc hnew
  have hfetch : fetchNext u = (bundleOf (Config.isHome n) (dn (tcmDword u n pc)), noteFetch u n pc) :=
    fetchNext_of_new hsecond hpc hnew
  have hd := tcmDword_lt u n pc
  have hstep : step s = runNext u := (step_of_idle hschedule hticks hbudgets hdues hworks).trans (issueStep_of_next hnext)
  refine ⟨fun i hdecode => ?_, fun c a hdecode hdest => ?_⟩
  · rw [hstep, runNext_of_bundle hskip hbp hsecond (hfetch.trans (congrArg (·, _) (bundleOf_lone hd hdecode)))]
    rfl
  · intro v hgo
    rw [hstep, runNext_of_bundle hskip hbp hsecond (hfetch.trans (congrArg (·, _) (bundleOf_pair hd hdecode hdest))),
      runBundle_of_pair (isA_of_decodeBundle hdecode) hgo, cur_noteFetch]

end Sys2Proof

/-! # Control registers (R65, R96, R119, R123, R124, R348) -/

namespace Sys2Proof.Machine
section
variable {s r t u : State} {n k crn : Nat}

/-! ### What a control register's value rests on -/

/-- What the control registers of a context read: the cycle, its numbers, and the words of its core, context and partition. -/
structure CrView where
  cycle : Nat
  part  : Nat
  clu   : Dword
  prio  : Dword
  core  : Core
  ctx   : Ctx
  owner : Partition
def crView (s : State) (n k : Nat) : CrView :=
  { cycle := s.cycle, part := partOf s n, clu := clusid s n, prio := prioWord s n k, core := { coreAt s n with ctxs := [] },
    ctx := ctxAt s n k, owner := partAt s (partOf s n) }
/-- R119's map. -/
def CrView.read (w : CrView) (n k crn : Nat) : Dword :=
  match crn with
  | 0x000 => dn w.core.xb
  | 0x001 => w.core.bodytab
  | 0x002 => w.core.tbudget
  | 0x003 => w.prio
  | 0x004 => gslotWord w.core 0
  | 0x005 => gslotWord w.core 1
  | 0x006 => gslotWord w.core 2
  | 0x007 => gslotWord w.core 3
  | 0x010 => w.core.trapvec
  | 0x011 => w.core.upcvec
  | 0x012 => w.ctx.tstat
  | 0x013 => w.ctx.tpc
  | 0x014 => w.ctx.tcause
  | 0x015 => w.ctx.tval
  | 0x020 => w.ctx.msgid
  | 0x021 => w.ctx.ancb
  | 0x022 => w.ctx.ancl
  | 0x023 => dn k
  | 0x024 => dn n
  | 0x025 => w.clu
  | 0x026 => dn (Config.dieOf n)
  | 0x027 => dn w.part
  | 0x030 => dn w.cycle
  | 0x031 => w.owner.sampcfg
  | 0x040 => w.ctx.regs.frm
  | 0x041 => w.ctx.regs.fmta
  | 0x042 => w.ctx.regs.fmtb
  | 0x043 => w.ctx.regs.fmto
  | 0x044 => w.ctx.regs.scla
  | 0x045 => w.ctx.regs.sclb
  | 0x046 => w.ctx.regs.mround
  | 0x050 => w.ctx.regs.npeps
  | 0x060 => w.core.htable
  | 0x070 => w.owner.ptroot
  | 0x071 => w.owner.walkcfg
  | _ => 0
theorem crRead_eq_read (s : State) (n k crn : Nat) : crRead s n k (ctxAt s n k).regs crn = (crView s n k).read n k crn := rfl

theorem ctxAt_modCore {f : Core → Core} (hf : ∀ c, (f c).ctxs = c.ctxs) (s : State) (n m k : Nat) :
    ctxAt (modCore s n f) m k = ctxAt s m k := by
  unfold ctxAt
  rw [coreAt_modCore]
  split
  · next h => rw [hf, h]
  · rfl
theorem partOf_modCore {f : Core → Core} (hf : ∀ c, (f c).part = c.part) (s : State) (n m : Nat) :
    partOf (modCore s n f) m = partOf s m := by
  unfold partOf
  rw [coreAt_modCore]
  split
  · next h => rw [hf, h]
  · rfl
/-- The class of a context is a matter of contexts alone (R51). -/
theorem effClass_congr (hctx : ∀ m j, (ctxAt t m j).rope = (ctxAt s m j).rope ∧ (ctxAt t m j).base = (ctxAt s m j).base ∧
    (ctxAt t m j).inh = (ctxAt s m j).inh) (n k : Nat) : effClass t n k = effClass s n k := by
  simp only [effClass, ownClass, hctx]
theorem prioWord_congr (hctx : ∀ m j, (ctxAt t m j).rope = (ctxAt s m j).rope ∧ (ctxAt t m j).base = (ctxAt s m j).base ∧
    (ctxAt t m j).inh = (ctxAt s m j).inh) (n k : Nat) : prioWord t n k = prioWord s n k := by
  simp only [prioWord, hctx, effClass_congr hctx]
theorem clusid_congr (hpart : partOf t n = partOf s n)
    (hclusters : (partAt t (partOf s n)).clusters = (partAt s (partOf s n)).clusters) : clusid t n = clusid s n := by
  simp only [clusid, clusterFor, hpart, hclusters]

theorem crView_modCore {f : Core → Core} (hctxs : ∀ c, (f c).ctxs = c.ctxs) (hpart : ∀ c, (f c).part = c.part)
    (s : State) (n k : Nat) :
    crView (modCore s n f) n k = { crView s n k with core := { f (coreAt s n) with ctxs := [] } } := by
  have hp := partOf_modCore hpart s n n
  have hprio : prioWord (modCore s n f) n k = prioWord s n k :=
    prioWord_congr (fun m j => by rw [ctxAt_modCore hctxs]; exact ⟨rfl, rfl, rfl⟩) n k
  rw [crView, hp, hprio, clusid_congr hp rfl, ctxAt_modCore hctxs, coreAt_modCore_same]
  rfl
theorem crView_modCtx {f : Ctx → Ctx} (hrope : ∀ c, (f c).rope = c.rope) (hbase : ∀ c, (f c).base = c.base)
    (hinh : ∀ c, (f c).inh = c.inh) (s : State) (n k : Nat) :
    crView (modCtx s n k f) n k = { crView s n k with ctx := f (ctxAt s n k) } := by
  have hp := partOf_modCtx s n k n f
  have hprio : prioWord (modCtx s n k f) n k = prioWord s n k := by
    refine prioWord_congr (fun m j => ?_) n k
    rw [ctxAt_modCtx]
    split
    · next h => obtain ⟨rfl, rfl⟩ := h; exact ⟨hrope _, hbase _, hinh _⟩
    · exact ⟨rfl, rfl, rfl⟩
  rw [crView, hp, hprio, clusid_congr hp rfl, ctxAt_modCtx_same, coreAt_modCtx, if_pos rfl]
  rfl
theorem crView_modPart {f : Partition → Partition} (hf : ∀ p, (f p).clusters = p.clusters) (s : State) (n k : Nat) :
    crView (modPart s (partOf s n) f) n k = { crView s n k with owner := f (partAt s (partOf s n)) } := by
  have hp : partOf (modPart s (partOf s n) f) n = partOf s n := rfl
  rw [crView, hp, clusid_congr hp (by rw [partAt_modPart_same, hf]), partAt_modPart_same]
  rfl

/-- Cores changed one by one, where an absent one stays absent. -/
theorem coreAt_mapCores {f : Nat × Core → Nat × Core} {g : Core → Core} (hnew : g {} = {}) (hf : ∀ e, f e = (e.1, g e.2))
    (s : State) (n : Nat) : coreAt { s with cores := s.cores.map f } n = g (coreAt s n) :=
  fget_map_rel (R := fun c c' => c' = g c) hnew.symm (fun e => by rw [hf]) (fun e => by rw [hf]) s.cores n
/-- A core under a write of its partition's BODYTAB (R21). -/
def withBodytab (p : Nat) (v : Dword) (c : Core) : Core := if c.part == some p then { c with bodytab := v } else c
theorem coreAt_setBodytab (s : State) (p : Nat) (v : Dword) (n : Nat) :
    coreAt (setBodytab s p v) n = withBodytab p v (coreAt s n) :=
  coreAt_mapCores (g := withBodytab p v) rfl (fun e => by unfold withBodytab; split <;> rfl) s n
theorem withBodytab_kept (p : Nat) (v : Dword) (c : Core) : ∃ b, withBodytab p v c = { c with bodytab := b } := by
  unfold withBodytab
  split
  · exact ⟨v, rfl⟩
  · exact ⟨c.bodytab, rfl⟩
theorem ctxAt_setBodytab (s : State) (p : Nat) (v : Dword) (n k : Nat) : ctxAt (setBodytab s p v) n k = ctxAt s n k := by
  obtain ⟨b, hb⟩ := withBodytab_kept p v (coreAt s n)
  unfold ctxAt
  rw [coreAt_setBodytab, hb]
theorem crView_setBodytab (h : (coreAt s n).part.isSome = true) (v : Dword) (k : Nat) :
    crView (setBodytab s (partOf s n) v) n k = { crView s n k with
      core := { coreAt s n with ctxs := [], bodytab := v }, owner := { partAt s (partOf s n) with bodytab := v } } := by
  obtain ⟨p, hsome⟩ := Option.isSome_iff_exists.mp h
  have hp : partOf s n = p := by rw [partOf, hsome]; rfl
  have hcore : coreAt (setBodytab s p v) n = { coreAt s n with bodytab := v } := by
    rw [coreAt_setBodytab, withBodytab, if_pos (by simp [hsome])]
  have hpart : partOf (setBodytab s p v) n = p := by rw [partOf, hcore]; exact hp
  have howner : partAt (setBodytab s p v) p = { partAt s p with bodytab := v } := partAt_modPart_same ..
  have hprio : prioWord (setBodytab s p v) n k = prioWord s n k :=
    prioWord_congr (fun m j => by rw [ctxAt_setBodytab]; exact ⟨rfl, rfl, rfl⟩) n k
  rw [hp, crView, hprio, clusid_congr (hpart.trans hp.symm) (by rw [hp, howner]), ctxAt_setBodytab, hcore, hpart, howner]
  simp only [crView, hp]
  rfl

/-- Priority inheritance leaves each core but for its contexts. -/
theorem keptCores_refreshInh (s : State) (p : Nat) : KeptCores s (refreshInh s p) := fun n =>
  fget_map_rel (R := fun c c' : Core => { c' with ctxs := [] } = { c with ctxs := [] }) rfl
    (fun e => by split <;> rfl) (fun e => by split <;> rfl) s.cores n
theorem crView_setBase (s : State) (n k p : Nat) (b : BitVec 2) :
    ∃ prio inh, crView (refreshInh (modCtx s n k fun c => { c with base := b }) p) n k =
      { crView s n k with prio := prio, ctx := { ctxAt s n k with base := b, inh := inh } } := by
  obtain ⟨inh, hctx⟩ := ctxAt_refreshInh (modCtx s n k fun c => { c with base := b }) p n k
  have hcore : { coreAt (refreshInh (modCtx s n k fun c => { c with base := b }) p) n with ctxs := [] } =
      { coreAt s n with ctxs := [] } := by
    rw [keptCores_refreshInh, coreAt_modCtx, if_pos rfl]
  have hpart : partOf (refreshInh (modCtx s n k fun c => { c with base := b }) p) n = partOf s n :=
    (congrArg (fun c : Core => c.part.getD 0) hcore :)
  refine ⟨prioWord (refreshInh (modCtx s n k fun c => { c with base := b }) p) n k, inh, ?_⟩
  rw [crView, hcore, hpart, clusid_congr hpart rfl, hctx, ctxAt_modCtx_same]
  rfl

/-! ### What a write changes of the map -/

/-- Every register but the one written reads as before (R119, R123). -/
theorem read_crWrite_other {c : Nat} (hpart : (coreAt s n).part.isSome = true) (h : c ≠ crn) (v : Dword) :
    (crView (crWrite s n k crn v) n k).read n k c = (crView s n k).read n k c := by
  unfold crWrite
  split
  case h_4 =>
    obtain ⟨_, _, hview⟩ := crView_setBase s n k (partOf s n) (BitVec.ofNat 2 v.toNat)
    rw [hview]
    unfold CrView.read
    split <;> first | rfl | exact absurd rfl h
  case h_21 => rfl
  all_goals
    simp only [crView_modCore, crView_modCtx, crView_modPart, crView_setBodytab hpart, implies_true]
    unfold CrView.read
    split <;> first | rfl | exact absurd rfl h

/-- XB's clamp of a value that its map allows (R96). -/
theorem clampXb_of_allowed {v : Dword} (h : crForbids n 0x000 v = false) :
    clampXb n v = min (v.toNat % 2 ^ 20) (if n < 512 then 2 ^ 19 else 2 ^ 17) := by
  have hsize : Config.tcmSize n = if n < 512 then 2 ^ 19 else 2 ^ 17 := by
    by_cases hn : n < 512 <;> simp [Config.tcmSize, Config.isHome, hn]
  have halign : v.toNat / 2 ^ 0 % 2 ^ 3 = 0 := by simpa [crForbids, bits] using (Bool.or_eq_false_iff.mp h).2
  have hbits : bits v.toNat 3 17 * 8 = v.toNat % 2 ^ 20 := by rw [bits]; omega
  rw [clampXb, hsize, hbits]

/-- The register written reads what the rules make of the value (R65, R96, R123, R348). -/
theorem read_crWrite_same {v w : Dword} (hpart : (coreAt s s.core).part.isSome = true) (hok : crForbids s.core crn v = false)
    (hw : crWritten s crn v = some w) :
    (crView (crWrite s s.core s.ctx crn v) s.core s.ctx).read s.core s.ctx crn = w := by
  unfold crWritten at hw
  split at hw
  case h_20 => cases hw
  all_goals
    cases hw
    simp only [crWrite, crView_modCore, crView_modCtx, crView_modPart, crView_setBodytab hpart, implies_true]
  case h_1 => exact congrArg dn (clampXb_of_allowed hok)
  all_goals rfl

/-! ### What a write leaves -/

/-- A context but for what a control register holds of it. -/
def controlless (c : Ctx) : Ctx :=
  { c with base := 0, inh := 0, tstat := 0, tpc := 0, tcause := 0, tval := 0
           regs := { c.regs with frm := 0, fmta := 0, fmtb := 0, fmto := 0, scla := 0, sclb := 0, mround := 0, npeps := 0 } }
/-- `t` is `s` but for control registers. -/
structure SameButControl (s t : State) : Prop where
  units : { t with cores := s.cores, parts := s.parts } = s
  cores : ∀ n, { coreAt t n with ctxs := [], xb := 0, bodytab := 0, tbudget := 0, trapvec := 0, upcvec := 0, htable := 0 } =
    { coreAt s n with ctxs := [], xb := 0, bodytab := 0, tbudget := 0, trapvec := 0, upcvec := 0, htable := 0 }
  ctxs  : ∀ n k, controlless (ctxAt t n k) = controlless (ctxAt s n k)

namespace SameButControl

protected theorem refl (s : State) : SameButControl s s := ⟨rfl, fun _ => rfl, fun _ _ => rfl⟩
protected theorem trans (h : SameButControl s t) (g : SameButControl t u) : SameButControl s u where
  units := (congrArg (fun x : State => { x with cores := s.cores, parts := s.parts }) g.units).trans h.units
  cores n := (g.cores n).trans (h.cores n)
  ctxs n k := (g.ctxs n k).trans (h.ctxs n k)
theorem modCore {f : Core → Core} (hctxs : ∀ c, (f c).ctxs = c.ctxs)
    (hf : ∀ c, { f c with ctxs := [], xb := 0, bodytab := 0, tbudget := 0, trapvec := 0, upcvec := 0, htable := 0 } =
      { c with ctxs := [], xb := 0, bodytab := 0, tbudget := 0, trapvec := 0, upcvec := 0, htable := 0 }) :
    SameButControl s (modCore s n f) where
  units := rfl
  cores m := by
    rw [coreAt_modCore]
    split
    · next h => rw [hf, h]
    · rfl
  ctxs m j := by rw [ctxAt_modCore hctxs]
theorem modCtx {f : Ctx → Ctx} (hf : ∀ c, controlless (f c) = controlless c) : SameButControl s (modCtx s n k f) where
  units := rfl
  cores m := by
    rw [coreAt_modCtx]
    split
    · next h => rw [h]
    · rfl
  ctxs m j := by
    rw [ctxAt_modCtx]
    split
    · next h => rw [hf, h.1, h.2]
    · rfl
theorem modPart {f : Partition → Partition} (p : Nat) : SameButControl s (modPart s p f) :=
  ⟨rfl, fun _ => rfl, fun _ _ => rfl⟩
theorem refreshInh (s : State) (p : Nat) : SameButControl s (refreshInh s p) where
  units := rfl
  cores n := (congrArg (fun c : Core => { c with xb := 0, bodytab := 0, tbudget := 0, trapvec := 0, upcvec := 0, htable := 0 })
    (keptCores_refreshInh s p n) :)
  ctxs n k := by
    obtain ⟨_, h⟩ := ctxAt_refreshInh s p n k
    rw [h]
    rfl
theorem setBodytab (s : State) (p : Nat) (v : Dword) : SameButControl s (setBodytab s p v) where
  units := rfl
  cores n := by
    obtain ⟨_, h⟩ := withBodytab_kept p v (coreAt s n)
    rw [coreAt_setBodytab, h]
  ctxs n k := by rw [ctxAt_setBodytab]
theorem crWrite (s : State) (n k crn : Nat) (v : Dword) : SameButControl s (crWrite s n k crn v) := by
  unfold Machine.crWrite
  split
  case h_2 => exact setBodytab s _ v
  case h_4 =>
    have hbase : SameButControl s (Machine.modCtx s n k fun c => { c with base := BitVec.ofNat 2 v.toNat }) :=
      modCtx fun _ => rfl
    exact hbase.trans (refreshInh _ _)
  case h_11 => exact modPart _
  case h_21 => exact .refl s
  case h_1 | h_3 | h_5 | h_6 | h_20 => exact modCore (fun _ => rfl) fun _ => rfl
  all_goals exact modCtx fun _ => rfl

theorem core (h : SameButControl s t) : t.core = s.core := (congrArg State.core h.units :)
theorem ctx (h : SameButControl s t) : t.ctx = s.ctx := (congrArg State.ctx h.units :)
theorem tail (h : SameButControl s t) : t.tail = s.tail := (congrArg State.tail h.units :)
theorem keptMemory (h : SameButControl s t) : KeptMemory s t := by
  have hclusters : t.clusters = s.clusters := (congrArg State.clusters h.units :)
  have hslices : t.slices = s.slices := (congrArg State.slices h.units :)
  intro pl a
  cases pl with
  | hbm => exact congrArg (bget · a) (congrArg State.hbm h.units :)
  | host => exact congrArg (bget · a) (congrArg State.hostMem h.units :)
  | peer => exact congrArg (bget · a) (congrArg State.peerMem h.units :)
  | tcm n => exact congrArg (bget · a) (congrArg Core.tcm (h.cores n) :)
  | spm n => simp only [byteOf, cluAt, hclusters]
  | home n k => simp only [byteOf, sliceAt, hslices]
  | l1 n k =>
    have hl1 : (coreAt t n).l1 = (coreAt s n).l1 := (congrArg Core.l1 (h.cores n) :)
    simp only [byteOf, l1Line, hl1]

end SameButControl

/-! ### A bundle that writes a control register -/

theorem tail_reading {i : Instr} (h : popped s [i] = []) : (reading s i).tail = none := by
  rw [reading_of_unpopped h]
  show tailOf s [i] = none
  simp [tailOf, h]
/-- Reading a bundle's operands moves no control register. -/
theorem OperandsRead.read_crView (h : OperandsRead s r) (n k c : Nat) :
    (crView r n k).read n k c = (crView s n k).read n k c := by
  obtain ⟨pc, w, hctx⟩ := h.ctxAt n k
  have hprio : prioWord r n k = prioWord s n k := prioWord_congr (fun m j => by
    obtain ⟨_, _, hmj⟩ := h.ctxAt m j
    rw [hmj]
    exact ⟨rfl, rfl, rfl⟩) n k
  have hclu : clusid r n = clusid s n := clusid_congr (h.partOf n) (by rw [h.partAt])
  have hcycle : r.cycle = s.cycle := (congrArg State.cycle h.units :)
  simp only [crView, hctx, hprio, hclu, hcycle, h.partOf, h.partAt, h.cores n]
  rfl
theorem crRead_snapshot (s r : State) (n k c : Nat) : crRead r n k (snapshot s) c = crRead r n k (cur s).regs c := by
  rw [← snapshot_regs s]
  rfl
/-- The end of a bundle that pops nothing moves no control register. -/
theorem read_crView_endBundle (h : u.tail = none) (c : Nat) :
    (crView (endBundle u) u.core u.ctx).read u.core u.ctx c = (crView u u.core u.ctx).read u.core u.ctx c := by
  have hview : crView (endBundle u) u.core u.ctx = { crView u u.core u.ctx with ctx := endCtx none (ctxAt u u.core u.ctx) } := by
    rw [endBundle, h]
    exact crView_modCtx (f := endCtx none) (fun _ => rfl) (fun _ => rfl) (fun _ => rfl) u u.core u.ctx
  rw [hview]
  rfl
theorem OperandsRead.crWritten (h : OperandsRead s r) (crn : Nat) (v : Dword) : crWritten r crn v = crWritten s crn v := by
  obtain ⟨_, _, hc⟩ := h.cur
  simp only [Machine.crWritten, h.partOf, h.partAt, h.core, hc]

/-- The value that a bundle reads of a control register is the one that stands there. -/
theorem crRead_reading {i : Instr} (h : popped s [i] = []) (crn : Nat) :
    crRead (reading s i) (reading s i).core (reading s i).ctx (ops (reading s i)) crn = crNow s s crn := by
  have hr := operandsRead_reading h
  obtain ⟨_, _, hc⟩ := hr.ctxAt s.core s.ctx
  have hregs : (cur s).regs = (ctxAt (reading s i) s.core s.ctx).regs := by rw [hc]; rfl
  rw [hr.core, hr.ctx, ops_reading h, crRead_snapshot, hregs, crRead_eq_read, hr.read_crView]
  rfl
theorem crForbids_of_allowed {pc : Nat} {v : Dword}
    (h : (match crTrap s n crn v with | some v => illState pc v | none => none) = none) : crForbids n crn v = false := by
  by_cases hbad : (crReadOnly s n crn || crForbids n crn v) = true
  · simp [crTrap, hbad, illState] at h
  · exact (Bool.or_eq_false_iff.mp (Bool.eq_false_iff.mpr hbad)).2

/-- An instruction that writes a control register writes what its row says, which the register's map allows (R123, R124). -/
theorem exec_of_crWriteRow {i : Instr} {v : State → Dword} (hrow : crWriteRow i = some (crn, v)) (h : Issues s i) :
    popped s [i] = [] ∧ Unwatched s i ∧ crForbids s.core crn (v s) = false ∧
    ∃ eff, exec i s = issue s i eff ∧
      eff (reading s i) = crWrite (reading s i) (reading s i).core (reading s i).ctx crn (v s) := by
  have hnow (c : Nat) : crRead s s.core s.ctx (snapshot s) c = crNow s s c := crRead_snapshot s s s.core s.ctx c
  have htrap := h.ownTrap
  cases i with
  | crwr f =>
    have hp := popped_of_no_vector (s := s) (i := .crwr f) rfl
    cases hrow
    simp only [ownTrap, rx_snapshot] at htrap
    exact ⟨hp, unwatched_of_span rfl, crForbids_of_allowed htrap, _, rfl, by simp only [rx_ops_reading hp]⟩
  | crsetb f =>
    have hp := popped_of_no_vector (s := s) (i := .crsetb f) rfl
    cases hrow
    simp only [ownTrap, hnow] at htrap
    exact ⟨hp, unwatched_of_span rfl, crForbids_of_allowed htrap, _, rfl, by simp only [crRead_reading hp]; rfl⟩
  | crclrb f =>
    have hp := popped_of_no_vector (s := s) (i := .crclrb f) rfl
    cases hrow
    simp only [ownTrap, hnow] at htrap
    exact ⟨hp, unwatched_of_span rfl, crForbids_of_allowed htrap, _, rfl, by simp only [crRead_reading hp]; rfl⟩
  | _ => nomatch hrow

/-- The issuing context at the end of a bundle that pops nothing and changes control registers alone. -/
theorem now_endBundle {i : Instr} (hp : popped s [i] = []) (h : SameButControl (reading s i) u) :
    now s (endBundle u) = endCtx none (ctxAt u s.core s.ctx) := by
  have hr := operandsRead_reading hp
  unfold now
  rw [endBundle, h.tail, tail_reading hp, ← hr.core, ← hr.ctx, ← h.core, ← h.ctx]
  exact ctxAt_modCtx_same u u.core u.ctx (endCtx none)
/-- A bundle that pops nothing and changes control registers alone moves on and keeps its registers and every memory. -/
theorem endBundle_of_sameButControl {i : Instr} (hp : popped s [i] = []) (h : SameButControl (reading s i) u) :
    Advanced s (endBundle u) ∧ KeptX s (endBundle u) ∧ KeptV s (endBundle u) ∧ KeptP s (endBundle u) false ∧
      KeptAcc s (endBundle u) ∧ KeptMemory s (endBundle u) := by
  obtain ⟨-, -, -, w, hread⟩ := begin_kept s i
  have hr := operandsRead_reading hp
  have hctx : controlless (ctxAt u s.core s.ctx) = controlless { cur s with npc := (cur s).pc + 8, fwd := w } := by
    rw [h.ctxs, reading_of_unpopped hp, hread]
  have hnow := now_endBundle hp h
  have hmemory : KeptMemory (reading s i) (endBundle u) := by
    have hend := keptMemory_of_kept (s := u) (t := endBundle u) rfl (modCur_kept u (endCtx u.tail)).2.1
    exact fun pl a => (hend pl a).trans (h.keptMemory pl a)
  refine ⟨⟨?_, ?_, rfl, rfl⟩, fun n _ => ?_, ?_, fun n _ => .inr ?_, ?_, fun pl a => (hmemory pl a).trans
    (keptMemory_of_kept hr.units hr.cores pl a)⟩
  all_goals simp only [KeptV, KeptAcc, hnow]
  · exact (congrArg Ctx.npc hctx :)
  · exact (congrArg (fun c : Ctx => c.icount + 1) hctx :)
  · exact ⟨(congrArg (fun c : Ctx => rx c.regs n) hctx :), (congrArg (fun c : Ctx => xFull c.regs n) hctx :)⟩
  · exact ⟨(congrArg (fun c : Ctx => c.regs.v) hctx :), (congrArg (fun c : Ctx => c.regs.ve) hctx :)⟩
  · exact (congrArg (fun c : Ctx => rp c.regs n) hctx :)
  · exact (congrArg (fun c : Ctx => c.regs.acc) hctx :)

/-! ### Writes that trap (R123) -/

/-- An instruction that reaches its entry's traps takes its own, where no stream it names is bound. -/
theorem exec_of_trap {i : Instr} {eff : State → State} {t : TrapReq} (h : Reaches s i) (hexec : exec i s = issue s i eff)
    (htrap : entryTrapOf s (cur s).pc [i] = some t) (hsemv : semvFull s (cur s).pc [i] = false) :
    exec i s = .next (takeTrap s t) := by
  obtain ⟨hlatch, -, hbusy, hempty, hready, hrope⟩ := h
  have hcheck : check s [(i, 0)] = .trap t := by
    simp only [check, hbusy, hempty, List.map_cons, List.map_nil, hready, hrope, htrap, hsemv, Bool.false_eq_true, if_false,
      Bool.not_true, Bool.or_false, Bool.false_and]
  rw [hexec, issue, hlatch]
  simp only [hcheck, trapIssue, hsemv, Bool.false_and, Bool.false_eq_true, if_false]
/-- Every write of these registers traps, as does one of a rounding mode above 5. -/
theorem crTrap_of_refused {v : Dword} (h : crn ∈ [0x004, 0x005, 0x006, 0x007, 0x020, 0x021, 0x022, 0x023, 0x024, 0x025, 0x026,
    0x027, 0x030, 0x070, 0x071] ∨ (crn = 0x040 ∧ 5 < v.toNat % 8)) : crTrap s n crn v = some v := by
  refine if_pos ?_
  rcases h with hreg | ⟨rfl, hmode⟩
  · have : crReadOnly s n crn = true := by
      simp only [List.mem_cons, List.not_mem_nil, or_false] at hreg
      rcases hreg with rfl | rfl | rfl | rfl | rfl | rfl | rfl | rfl | rfl | rfl | rfl | rfl | rfl | rfl | rfl <;> rfl
    rw [this, Bool.true_or]
  · have : crForbids n 0x040 v = true := by simp [crForbids, bits, hmode]
    rw [this, Bool.or_true]

end
end Sys2Proof.Machine

namespace Sys2Proof
open Machine

/-- Settles O15: a write changes one row of the map (`read_crWrite_same`, `read_crWrite_other`) and control registers alone
(`SameButControl.crWrite`); a refused one is its own trap. -/
theorem controlWritesReadBackOrTrap : Obligations.ControlWritesReadBackOrTrap := by
  refine ⟨fun s i crn v hrow h hpart => ?_, fun s f h href => ?_⟩
  · obtain ⟨hp, hu, hallowed, eff, hexec, heff⟩ := exec_of_crWriteRow hrow h
    have hr := operandsRead_reading hp
    have hpart' : (coreAt (reading s i) (reading s i).core).part.isSome = true := by
      rw [hr.core, (congrArg Core.part (hr.cores s.core) :)]
      exact hpart
    have hframe := SameButControl.crWrite (reading s i) (reading s i).core (reading s i).ctx crn (v s)
    have hnow (c : Nat) : crNow s (endBundle (eff (reading s i))) c =
        (crView (eff (reading s i)) (reading s i).core (reading s i).ctx).read (reading s i).core (reading s i).ctx c := by
      have hend := read_crView_endBundle (u := eff (reading s i)) (by rw [heff, hframe.tail, tail_reading hp]) c
      rw [heff] at hend ⊢
      rw [hframe.core, hframe.ctx] at hend
      rw [← hend, hr.core, hr.ctx]
      rfl
    rw [← heff] at hframe
    obtain ⟨hadv, hx, hv, hpred, hacc, hmem⟩ := endBundle_of_sameButControl hp hframe
    refine ⟨_, hexec.trans ((issue_of_issues h eff).trans (by rw [watch_of_unwatched hu])), hadv, fun w hw => ?_,
      fun hprio => ?_, fun c hc => ?_, hx, hv, hpred, hacc, hmem⟩
    · rw [hnow, heff]
      exact read_crWrite_same hpart' (hr.core ▸ hallowed) ((hr.crWritten crn (v s)).trans hw)
    · subst hprio
      obtain ⟨inh, hctx⟩ := ctxAt_refreshInh (modCtx (reading s i) s.core s.ctx fun c => { c with base := BitVec.ofNat 2 (v s).toNat })
        (partOf (reading s i) s.core) s.core s.ctx
      have hwrite : ctxAt (eff (reading s i)) s.core s.ctx =
          { ctxAt (reading s i) s.core s.ctx with base := BitVec.ofNat 2 (v s).toNat, inh := inh } := by
        rw [heff, hr.core, hr.ctx]
        exact hctx.trans (by rw [ctxAt_modCtx_same])
      rw [now_endBundle hp hframe, hwrite]
      exact BitVec.ofNat_toNat 2 (v s)
    · rw [hnow, heff, read_crWrite_other hpart' hc, hr.core, hr.ctx, hr.read_crView]
      rfl
  · have htrap : entryTrapOf s (cur s).pc [.crwr f] =
        some { cause := 0x01, sub := 7, val := rx (cur s).regs f.x.toNat, tpc := (cur s).pc } := by
      have hstream : streamTrap s (cur s).pc (.crwr f) = none := rfl
      have hwrites : writesP15 (.crwr f) = false := rfl
      have hown : ownTrap s (cur s).pc (snapshot s) (.crwr f) = illState (cur s).pc (rx (cur s).regs f.x.toNat) := by
        simp only [ownTrap, rx_snapshot, crTrap_of_refused (href.imp_right fun h => ⟨congrArg BitVec.toNat h.1, h.2⟩)]
      simp only [entryTrapOf, List.findSome?_cons, entryTrap, hstream, hwrites, hown, trapIf, Bool.and_false, Bool.false_eq_true,
        if_false, firstTrap, illState]
    exact exec_of_trap h rfl htrap rfl

end Sys2Proof

/-! # Classes, launches and ropes (R51, R60 to R63, R136, R140 to R142) -/

namespace Sys2Proof.Machine
section
variable {s t r : State}

theorem SameButCaches.core (h : SameButCaches s t) : t.core = s.core := (congrArg State.core h.units :)
theorem SameButCaches.ctx (h : SameButCaches s t) : t.ctx = s.ctx := (congrArg State.ctx h.units :)
theorem SameButCaches.cur (h : SameButCaches s t) : cur t = cur s := by
  unfold Machine.cur
  rw [h.core, h.ctx, h.ctxAt]
theorem SameButCaches.ops (h : SameButCaches s t) : ops t = ops s := by
  have hlatch : t.latch = s.latch := (congrArg State.latch h.units :)
  simp only [Machine.ops, hlatch, h.cur]
theorem OperandsRead.members (h : OperandsRead s r) (p g : Nat) : members r p g = members s p g := by
  simp only [Machine.members, h.partAt]

/-- ROPE, which finds a dormant context on each of its cores, starts a second on each (R61, R141). -/
theorem ropeEff_of_all {f : FmtU} (h : (startSeconds (ropeCores s.core f.imm.toNat) s (rx (ops s) 3)).2 = []) :
    ropeEff s f [] = (startSeconds (ropeCores s.core f.imm.toNat) s (rx (ops s) 3)).1 := by
  have hall : (ropeCores s.core f.imm.toNat).filter (fun e => !([] : List Nat).contains e.1) = ropeCores s.core f.imm.toNat :=
    List.filter_eq_self.mpr fun _ _ => rfl
  simp only [ropeEff, hall, h, List.isEmpty_nil, if_true]

/-- A context that begins as a second of a lead, whose x3 it receives (R61). -/
def asSecond (lead ctx : Nat) (x3 : Dword) (c : Ctx) : Ctx := { writeX c 3 x3 with rope := .second lead ctx }
/-- A lead with one more second. -/
def withSecond (n k hop : Nat) (c : Ctx) : Ctx :=
  { c with rope := match c.rope with | .lead l => .lead (l ++ [(n, k, hop)]) | _ => .lead [(n, k, hop)] }
theorem startSecond_eq (s : State) (n k hop : Nat) (x3 : Dword) : startSecond s n k hop x3 =
    modCur (modCtx s n k fun c => asSecond s.core s.ctx x3 (begun s.cycle (cur s).pc (cur s).base c)) (withSecond n k hop) :=
  congrArg (modCur · (withSecond n k hop)) (modCtx_modCtx s n k _ _)
/-- A second starts at its lead's pc with its lead's x3, and the lead names it (R61). -/
theorem startSecond_starts {n k hop : Nat} {x3 : Dword} (hother : (n, k) ≠ (s.core, s.ctx)) :
    ctxAt (startSecond s n k hop x3) n k = asSecond s.core s.ctx x3 (begun s.cycle (cur s).pc (cur s).base (ctxAt s n k)) ∧
    cur (startSecond s n k hop x3) = withSecond n k hop (cur s) := by
  have hsecond : ¬ (n = s.core ∧ k = s.ctx) := fun h => hother (Prod.ext h.1 h.2)
  have hlead : ¬ (s.core = n ∧ s.ctx = k) := fun h => hsecond ⟨h.1.symm, h.2.symm⟩
  rw [startSecond_eq, cur_modCur]
  refine ⟨?_, congrArg (withSecond n k hop) ((ctxAt_modCtx ..).trans (if_neg hlead))⟩
  exact (ctxAt_modCtx ..).trans ((if_neg hsecond).trans (ctxAt_modCtx_same ..))

end
end Sys2Proof.Machine

namespace Sys2Proof
open Machine

/-- Settles O45: each instruction by its effect on the state in which its operands have been read, a second's start by
`startSecond_starts`. -/
theorem classesLaunchesAndRopes : Obligations.ClassesLaunchesAndRopes := by
  refine ⟨fun s f h => ?_, fun s f h => ?_, fun s f h => ?_, fun s f h => gives_of_issue h rfl rfl,
    fun s n k hop x3 hother hrope => ?_⟩
  · have hr := operandsRead_reading (popped_of_no_vector (s := s) (i := .prio f) rfl)
    exact gives_of_issue h rfl (by simp only [hr.core, hr.partOf])
  · have hp := popped_of_no_vector (s := s) (i := .treel f) rfl
    have hr := operandsRead_reading hp
    obtain ⟨_, _, hc⟩ := hr.cur
    have hv := SameButCaches.releaseAll (reading s (.treel f)) s.core
    have hbase : (cur (reading s (.treel f))).base = (cur s).base := by rw [hc]
    refine gives_of_issue h rfl ?_
    simp only [hv.ops, hv.cur, hv.ctx, rx_ops_reading hp, hr.partOf, hr.members, hbase, hr.core, hr.ctx, launchMsgs, bits,
      Nat.pow_zero, Nat.div_one]
  · intro want hall
    have hp := popped_of_no_vector (s := s) (i := .rope f) rfl
    have hr := operandsRead_reading hp
    have hx3 := rx_ops_reading hp 3
    refine gives_of_issue h rfl ((ropeEff_of_all ?_).trans ?_)
    · rw [hr.core, hx3]
      exact hall
    · rw [hr.core, hx3]
  · obtain ⟨hsecond, hlead⟩ := startSecond_starts (x3 := x3) (hop := hop) hother
    intro t
    rw [hsecond, hlead]
    exact ⟨rfl, rfl, by simp [asSecond, rx_writeX], rfl, by simp only [withSecond, hrope]⟩

end Sys2Proof

/-! # Group barriers (R53 to R56, R135) -/

namespace Sys2Proof.Machine
section
variable {s t r u : State}

/-! ## What a release and the reading of operands leave of the groups -/

/-- Every slice keeps what it holds for its partitions besides lines. -/
def SameSliceParts (s t : State) : Prop := ∀ n p, spAt t n p = spAt s n p

namespace SameSliceParts

protected theorem refl (s : State) : SameSliceParts s s := fun _ _ => rfl
protected theorem trans (h : SameSliceParts s t) (g : SameSliceParts t u) : SameSliceParts s u :=
  fun n p => (g n p).trans (h n p)
protected theorem ite {c : Prop} [Decidable c] (h : SameSliceParts s t) (g : SameSliceParts s u) :
    SameSliceParts s (if c then t else u) := by
  split
  · exact h
  · exact g
protected theorem foldl {α : Type} {f : State → α → State} (hf : ∀ s e, SameSliceParts s (f s e)) (l : List α) (s : State) :
    SameSliceParts s (l.foldl f s) := foldl_keeps (fun t e (h : SameSliceParts s t) => h.trans (hf t e)) (.refl s)

theorem setHome (s : State) (k : Nat) (l : HomeLine) : SameSliceParts s (setHome s k l) := fun n p => by
  unfold spAt Machine.setHome
  rw [sliceAt_modSlice]
  split
  · next h => rw [h]
  · rfl
theorem putHome (s : State) (k off n v : Nat) : SameSliceParts s (putHome s k off n v) := by
  unfold Machine.putHome
  split
  · exact .refl s
  · exact .ite (.refl s) (setHome s k _)
theorem cleanL1 (s : State) (n k : Nat) : SameSliceParts s (cleanL1 s n k) := by
  unfold Machine.cleanL1
  split
  · exact .refl s
  · exact .ite (.refl s) (.foldl (fun s i => .ite (putHome s k i 1 _) (.refl s)) _ s)
theorem releaseAll (s : State) (n : Nat) : SameSliceParts s (releaseAll s n) :=
  .foldl (fun s (e : Nat × L1Line) => .ite (cleanL1 s n e.1) (.refl s)) _ s

end SameSliceParts

/-- `t` has the requests, the slices' barriers and the cores' partitions of `s`. -/
structure SameGroups (s t : State) : Prop where
  core : t.core = s.core
  ctx : t.ctx = s.ctx
  reqs : t.reqs = s.reqs
  spAt : SameSliceParts s t
  partOf : ∀ n, partOf t n = partOf s n

theorem SameGroups.barrierOf (h : SameGroups s t) (p g : Nat) : barrierOf t p g = barrierOf s p g := by
  simp only [Machine.barrierOf, h.spAt g p]
theorem SameGroups.arriving (h : SameGroups s t) (n g : Nat) (k : Option Nat) : arriving t n g k = arriving s n g k := by
  simp only [Machine.arriving, h.reqs]
theorem SameGroups.heldBack (h : SameGroups s t) (g : Nat) : heldBack t g = heldBack s g := by
  simp only [Machine.heldBack, h.core, h.partOf, h.barrierOf, h.arriving]

theorem sameGroups_releaseAll (s : State) (n : Nat) : SameGroups s (releaseAll s n) :=
  have h := SameButCaches.releaseAll s n
  ⟨h.core, h.ctx, (congrArg State.reqs h.units :), .releaseAll s n, h.partOf⟩
theorem OperandsRead.sameGroups (h : OperandsRead s r) : SameGroups s r where
  core := h.core
  ctx := h.ctx
  reqs := (congrArg State.reqs h.units :)
  spAt n p := by
    have hslices : r.slices = s.slices := (congrArg State.slices h.units :)
    simp only [Machine.spAt, sliceAt, hslices]
  partOf := h.partOf
theorem OperandsRead.inSlots (h : OperandsRead s r) (g : Nat) : inSlots r g = inSlots s g := by
  have hslots : (coreAt r s.core).gslots = (coreAt s s.core).gslots := (congrArg Core.gslots (h.cores s.core) :)
  simp only [Machine.inSlots, h.core, hslots]
theorem OperandsRead.arrivals (h : OperandsRead s r) : (Machine.cur r).arrivals = (Machine.cur s).arrivals := by
  obtain ⟨_, _, hc⟩ := h.cur
  rw [hc]

/-- An arrival of a context is one of its core. -/
theorem arriving_ctx_of_core {n g : Nat} {k : Option Nat} (h : arriving s n g none = false) : arriving s n g k = false := by
  cases k with
  | none => exact h
  | some k =>
    simp only [arriving, List.any_eq_false] at h ⊢
    intro q hq hk
    refine h q hq ?_
    cases hask : q.ask <;> simp_all

theorem arriving_of_not_heldBack {g : Nat} {k : Option Nat} (h : heldBack s g = false) : arriving s s.core g k = false :=
  arriving_ctx_of_core (Bool.or_eq_false_iff.mp h).2

/-- What a core sends when nothing holds its arrival back: its release, then the message (R55). -/
theorem sendArrival_of_not_heldBack {g : Nat} (h : heldBack s g = false) (i : Instr) (bar : Bool) :
    sendArrival s i g bar = { releaseAll s s.core with
      reqs := (releaseAll s s.core).reqs ++ [{ core := s.core, ctx := s.ctx, rd := 0, ask := .arrive g bar true }] } := by
  have hv := sameGroups_releaseAll s s.core
  simp only [sendArrival, hv.heldBack, h, hv.core, hv.ctx, Bool.false_eq_true, if_false]

/-! ## The wait for a phase -/

/-- Nothing outstanding: the acquire alone. -/
theorem waitPhase_none {g : Nat} (hway : arriving s s.core g (some s.ctx) = false) (hnone : ffind (cur s).arrivals g = none)
    (i : Instr) (fate : BudgetFate) : waitPhase s i g fate = acquireAll s s.core := by
  simp only [waitPhase, hway, hnone, Bool.false_eq_true, if_false]
/-- The phase has ended: the acquire, and the arrival is outstanding no longer. -/
theorem waitPhase_ended {g ph : Nat} {bar : Bool} (hway : arriving s s.core g (some s.ctx) = false)
    (hsome : ffind (cur s).arrivals g = some (ph, bar)) (hph : ph < (barrierOf s (partOf s s.core) g).phase)
    (i : Instr) (fate : BudgetFate) : waitPhase s i g fate =
      refreshInh (acquireAll (modCur s fun c => { c with arrivals := fdel c.arrivals g }) s.core) (partOf s s.core) := by
  simp only [waitPhase, hway, hsome, hph, Bool.false_eq_true, if_false, if_true]
/-- The phase has not ended: the wait. -/
theorem waitPhase_waits {g : Nat} (h : arriving s s.core g (some s.ctx) = true ∨
      ∃ ph bar, ffind (cur s).arrivals g = some (ph, bar) ∧ (barrierOf s (partOf s s.core) g).phase ≤ ph)
    (i : Instr) (fate : BudgetFate) :
    waitPhase s i g fate = refreshInh (waitAgain s i .barrier fate) (partOf s s.core) := by
  obtain h | ⟨ph, bar, hsome, hph⟩ := h
  · simp only [waitPhase, h, if_true]
  · simp only [waitPhase, hsome, Nat.not_lt.mpr hph, if_false, ite_self]

/-! ## The slice records an arrival -/

theorem reqHeld_arrive {q : QReq} {g : Nat} {bar note : Bool} (hask : q.ask = .arrive g bar note) (hres : q.res = none) :
    reqHeld s q = false := by
  simp only [reqHeld, hask, hres, Option.isSome_none, Bool.and_false, Bool.or_self]

/-- The context of a recorded arrival: it keeps the arrival as outstanding, and a GBAR that waits is withdrawn from here
on (R54, R405). -/
def withArrival (g ph : Nat) (bar : Bool) (c : Ctx) : Ctx :=
  { c with arrivals := fset c.arrivals g (ph, bar), wait := if bar then c.wait.map (recorded g) else c.wait }

variable {i g : Nat} {q : QReq} {bar : Bool}

/-- A second arrival of a core in a phase goes on, to be asked again (R54). -/
theorem serveAsk_arrived (hask : q.ask = .arrive g bar true)
    (h : (barrierOf s (partOf s q.core) g).arrived.contains q.core = true) : serveAsk s q = (s, some q.ask) := by
  simp only [serveAsk, hask, h, if_true]
/-- The first is recorded. -/
theorem serveAsk_arrives (hask : q.ask = .arrive g bar true)
    (h : (barrierOf s (partOf s q.core) g).arrived.contains q.core = false) : serveAsk s q =
      (settlePhase (setBarrier (modCtx s q.core q.ctx (withArrival g (barrierOf s (partOf s q.core) g).phase bar))
        (partOf s q.core) g { barrierOf s (partOf s q.core) g with
          arrived := insertCore q.core (barrierOf s (partOf s q.core) g).arrived }) (partOf s q.core) g, none) := by
  simp only [serveAsk, hask, h, Bool.false_eq_true, if_false, arriveAt, if_true]
  rfl

/-- A phase ends once every member has arrived (R54). -/
theorem barrierOf_settlePhase {p : Nat} (hne : (barrierOf s p g).arrived ≠ [])
    (hall : ∀ m ∈ members s p g, m ∈ (barrierOf s p g).arrived) :
    barrierOf (settlePhase s p g) p g = { phase := (barrierOf s p g).phase + 1, arrived := [] } := by
  have hends : (!(barrierOf s p g).arrived.isEmpty && (members s p g).all (barrierOf s p g).arrived.contains) = true := by
    simpa [hne] using hall
  simp only [settlePhase, hends, if_true]
  simp only [barrierOf, setBarrier, spAt_modSP_same, fget_fset_same]

/-- A bundle that pops nothing and whose instruction has no effect changes its pc and its count alone. -/
theorem quiet_of_issue {i : Instr} {eff : State → State} (h : Issues s i) (hu : Unwatched s i) (hp : popped s [i] = [])
    (he : eff (begin s [i]) = begin s [i]) : ∃ t, issue s i eff = .next t ∧ Quiet s t := by
  obtain ⟨t, ht, ⟨w, hnow⟩, hlatch, htail, hunits, hcores, hothers⟩ := issue_id h hu hp eff he
  refine ⟨t, ht, ⟨?_, ?_, hlatch, htail⟩, fun _ _ => ?_, ⟨?_, ?_⟩, fun _ _ => .inr ?_, ?_, ?_, ?_,
    ⟨hunits, hcores, hothers, ?_⟩, keptMemory_of_kept hunits hcores⟩ <;> simp [KeptCtx, Flagged, KeptAcc, KeptCr, hnow]

/-! ## Instructions -/

theorem members_modCore (s : State) (n p g : Nat) (f : Core → Core) : members (modCore s n f) p g = members s p g := rfl
theorem core_modCore (s : State) (n : Nat) (f : Core → Core) : (modCore s n f).core = s.core := rfl

/-- What a GBAR does once it has issued and its context's work is done (R135): it arrives, or waits for its arrival's
phase. -/
def gbarEff (f : FmtG) (s : State) : State :=
  let g := f.group.toNat
  let arrived := match ffind (cur s).arrivals g with | some (_, b) => b | none => false
  if arrived then waitPhase s (.gbar f) g .withdrawAfter
  else
    let s := if arriving s s.core g (some s.ctx) then s else sendArrival s (.gbar f) g true
    refreshInh (waitAgain s (.gbar f) .barrier .defer) (partOf s s.core)
theorem exec_gbar (f : FmtG) (s : State) : exec (.gbar f) s = issue s (.gbar f) (gbarEff f) := rfl
/-- A GBAR that nothing holds back releases, sends its arrival and waits for it. -/
theorem gbarEff_of_not_heldBack {f : FmtG} (hnone : ffind (cur s).arrivals f.group.toNat = none)
    (h : heldBack s f.group.toNat = false) : gbarEff f s =
      refreshInh (waitAgain { releaseAll s s.core with
        reqs := (releaseAll s s.core).reqs ++ [{ core := s.core, ctx := s.ctx, rd := 0, ask := .arrive f.group.toNat true true }] }
        (.gbar f) .barrier .defer) (partOf s s.core) := by
  have hv := sameGroups_releaseAll s s.core
  simp only [gbarEff, hnone, arriving_of_not_heldBack h, sendArrival_of_not_heldBack h, Bool.false_eq_true, if_false, hv.core]
  exact congrArg _ (hv.partOf s.core)
/-- One whose arrival has been recorded waits for that arrival's phase. -/
theorem gbarEff_of_arrived {f : FmtG} {ph : Nat} (hsome : ffind (cur s).arrivals f.group.toNat = some (ph, true)) :
    gbarEff f s = waitPhase s (.gbar f) f.group.toNat .withdrawAfter := by
  simp only [gbarEff, hsome, if_true]

end
end Sys2Proof.Machine

namespace Sys2Proof
open Machine

/-- Settles O44: each instruction by its effect on the state in which its operands have been read, which has the groups
of the state before (`SameGroups`). -/
theorem groupInstructionsActOnTheirGroup : Obligations.GroupInstructionsActOnTheirGroup := by
  intro s f g p n b
  refine ⟨fun h hin => ?_, fun h hin => ?_, fun h hheld => ?_, fun h => ?_, fun h hheld => ?_, fun i q bar hq hask hres hcore => ?_,
    fun h hnone hway => ?_, fun ph bar h hsome hph hway => ?_, fun h hwaits => ?_, fun h hnone hheld => ?_,
    fun ph x hlatch hdrains hway hsome hph => ?_, fun t hne hall => barrierOf_settlePhase hne hall⟩
  · have hr := operandsRead_reading (popped_of_no_vector (s := s) (i := .gjoin f) rfl)
    refine gives_of_issue h rfl ?_
    simp only [hr.core, hr.partOf, hr.members, hr.inSlots, members_modCore, core_modCore, g, p, n, hin, Bool.false_eq_true, if_false]
  · have hp := popped_of_no_vector (s := s) (i := .gjoin f) rfl
    refine quiet_of_issue h (unwatched_of_span rfl) hp (if_pos ?_)
    rw [← reading_of_unpopped hp, (operandsRead_reading hp).inSlots]
    exact hin
  · have hr := operandsRead_reading (popped_of_no_vector (s := s) (i := .gleave f) rfl)
    refine gives_of_issue h rfl ?_
    simp only [hr.core, hr.partOf, hr.members, hr.sameGroups.heldBack, members_modCore, core_modCore, g, p, n, hheld, Bool.false_eq_true, if_false]
  · have hr := operandsRead_reading (popped_of_no_vector (s := s) (i := .gtag f) rfl)
    exact gives_of_issue h rfl (by simp only [hr.core, hr.partOf, g, p])
  · have hr := operandsRead_reading (popped_of_no_vector (s := s) (i := .garrive f) rfl)
    refine gives_of_issue h rfl ((sendArrival_of_not_heldBack ((hr.sameGroups.heldBack g).trans hheld) _ _).trans ?_)
    simp only [hr.core, hr.ctx, n]
  · have hctl : askCtl s q = none := by rw [askCtl, hask]
    intro r
    refine ⟨fun harr => ?_, fun harr => ?_⟩
    · rw [doWork_serve_elsewhere hq (reqHeld_arrive hask hres) hctl,
        serveReq_goesOn hq (serveAsk_arrived (s := r) hask (by rw [hcore]; exact harr))]
    · refine ⟨modCtx r n q.ctx (withArrival g b.phase bar), ?_, rfl, ?_, ?_⟩
      · rw [doWork_serve_elsewhere hq (reqHeld_arrive hask hres) hctl,
          serveReq_answered hq (serveAsk_arrives (s := r) hask (by rw [hcore]; exact harr)), hcore]
        rfl
      · rw [ctxAt_modCtx_same]
        rfl
      · rintro rfl
        rfl
  · have hr := operandsRead_reading (popped_of_no_vector (s := s) (i := .gwait f) rfl)
    have hv := hr.sameGroups
    refine gives_of_issue h rfl ((waitPhase_none ?_ ?_ _ _).trans (by rw [hr.core]))
    · rw [hv.arriving, hr.core, hr.ctx]; exact hway
    · rw [hr.arrivals]; exact hnone
  · have hr := operandsRead_reading (popped_of_no_vector (s := s) (i := .gwait f) rfl)
    have hv := hr.sameGroups
    refine gives_of_issue h rfl ((waitPhase_ended (ph := ph) (bar := bar) ?_ ?_ ?_ _ _).trans (by rw [hr.core, hr.partOf]))
    · rw [hv.arriving, hr.core, hr.ctx]; exact hway
    · rw [hr.arrivals]; exact hsome
    · rw [hr.core, hr.partOf, hv.barrierOf]; exact hph
  · have hr := operandsRead_reading (popped_of_no_vector (s := s) (i := .gwait f) rfl)
    have hv := hr.sameGroups
    refine gives_of_issue h rfl ((waitPhase_waits ?_ _ _).trans (by rw [hr.core, hr.partOf]))
    rw [hv.arriving, hr.core, hr.ctx, hr.arrivals, hr.partOf, hv.barrierOf]
    exact hwaits
  · have hr := operandsRead_reading (popped_of_no_vector (s := s) (i := .gbar f) rfl)
    refine gives_of_issue h (exec_gbar f s) ((gbarEff_of_not_heldBack ?_ ((hr.sameGroups.heldBack g).trans hheld)).trans ?_)
    · rw [hr.arrivals]; exact hnone
    · simp only [hr.core, hr.ctx, hr.partOf, n, p, g]
  · rw [exec_gbar, issue_of_latch hlatch hdrains, gbarEff_of_arrived hsome, waitPhase_ended hway hsome hph]

end Sys2Proof

/-! # Firmware: partitions, starts, the TDI (R390 to R393, R398) -/

namespace Sys2Proof.Machine
section
variable {s t : State} {p : Nat}

/-! ## Maps filtered or changed by key -/

theorem fget_filter_key {α : Type} (d : α) (keep : Nat → Bool) (m : FMap α) (k : Nat) :
    fget d (m.filter fun e => keep e.1) k = if keep k then fget d m k else d := by
  induction m with
  | nil => simp [fget]
  | cons e m ih =>
    obtain ⟨j, v⟩ := e
    by_cases hj : j = k
    · subst hj
      by_cases hk : keep j <;> simp_all [fget]
    · by_cases hk : keep j <;> simp [fget, hk, hj, ih]
/-- A map whose values change by key and value. -/
theorem fget_map {α : Type} {d : α} {f : Nat × α → Nat × α} (g : Nat → α → α) (hf : ∀ e, f e = (e.1, g e.1 e.2))
    (m : FMap α) {k : Nat} (hd : g k d = d) : fget d (m.map f) k = g k (fget d m k) := by
  induction m with
  | nil => exact hd.symm
  | cons e m ih =>
    by_cases h : e.1 = k
    · simp [fget, hf, h]
    · simpa [fget, hf, h] using ih
theorem modPart_congr {f g : Partition → Partition} (h : f (partAt s p) = g (partAt s p)) : modPart s p f = modPart s p g := by
  simp only [modPart, h]
theorem noPart_of_lt (h : p < 64) : noPart p = false := decide_eq_false (Nat.not_le.mpr h)

/-! ## Frames -/

/-- Frames that firmware zeroes read 0, and the others as before (R390). -/
theorem bget_zeroFrames (s : State) (l : List (Nat × Nat)) (key : BitVec 512) (a : Nat) :
    bget (zeroFrames s l key).hbm a = if inRanges l a then 0 else bget s.hbm a := by
  refine (fget_filter_key 0 (fun k => !inRanges l k) s.hbm a).trans ?_
  cases h : inRanges l a <;> rfl
/-- They are under the new key (R154). -/
theorem keyAt_zeroFrames (s : State) {l : List (Nat × Nat)} (key : BitVec 512) {a : Nat} (h : inRanges l a = true) :
    keyAt (zeroFrames s l key).hbmKeys a = key := by
  obtain ⟨r, hr, hin⟩ := List.any_eq_true.mp h
  have hkeys : (zeroFrames s l key).hbmKeys =
    (l.map fun r => (r.1, r.2, key)) ++ s.hbmKeys.filter fun r => !l.contains (r.1, r.2.1) := rfl
  have hsome : ((l.map fun r => (r.1, r.2, key)).find? fun r => decide (r.1 ≤ a ∧ a < r.1 + r.2.1)).isSome = true :=
    List.find?_isSome.mpr ⟨(r.1, r.2, key), List.mem_map.mpr ⟨r, hr, rfl⟩, hin⟩
  obtain ⟨x, hx⟩ := Option.isSome_iff_exists.mp hsome
  obtain ⟨y, _, rfl⟩ := List.mem_map.mp (List.mem_of_find?_eq_some hx)
  rw [keyAt, hkeys, List.find?_append, hx]
  rfl

/-! ## A new partition -/

/-- What the cores of a new partition hold (R65, R390). -/
theorem fget_bringUp (p : Nat) (ceiling : BitVec 40) (l : List Nat) (m : FMap Core) (n : Nat) :
    fget {} (bringUp p ceiling l m) n =
      if n ∈ l then { part := some p, tbudget := dn (min 0x1000000 ceiling.toNat), counters := (fget {} m n).counters }
      else fget {} m n := by
  induction l generalizing m with
  | nil => simp [bringUp]
  | cons j l ih =>
    rw [bringUp, ih, fget_fset]
    by_cases hj : n = j
    · subst hj
      rw [if_pos rfl, if_pos List.mem_cons_self]
      split <;> rfl
    · simp only [List.mem_cons, hj, false_or, if_false]
/-- PTROOT and WALKCFG, their reserved bits 0 (R326, R327). -/
theorem getLsbD_ptroot {v : Dword} {i : Nat} (hi : i < 64) :
    (v &&& 0x000FFFFFFFFFF000).getLsbD i = (v.getLsbD i && decide (12 ≤ i ∧ i < 52)) := by
  have hmask : ∀ i, i < 64 → (0x000FFFFFFFFFF000 : Dword).getLsbD i = decide (12 ≤ i ∧ i < 52) := by decide
  rw [BitVec.getLsbD_and, hmask i hi]
theorem getLsbD_walkcfg {v : Dword} {i : Nat} (hi : i < 64) :
    (v &&& 0x01FFFFFFC3000000).getLsbD i = (v.getLsbD i && decide (24 ≤ i ∧ i < 26 ∨ 30 ≤ i ∧ i < 57)) := by
  have hmask : ∀ i, i < 64 → (0x01FFFFFFC3000000 : Dword).getLsbD i = decide (24 ≤ i ∧ i < 26 ∨ 30 ≤ i ∧ i < 57) := by decide
  rw [BitVec.getLsbD_and, hmask i hi]
/-- A partition as a create command leaves it, with its keys and the image of a cut that firmware has recorded. -/
def created (c : PartitionSpec) (image : Option CutImage) : Partition :=
  { live := true, clusters := c.clusters, slices := c.slices, granted := grantRanges c.frames, ceiling := c.ceiling,
    ptroot := c.ptroot &&& 0x000FFFFFFFFFF000, walkcfg := c.walkcfg &&& 0x01FFFFFFC3000000,
    hkey := (deriveKeys c.part c.entropy).2, memKey := (deriveKeys c.part c.entropy).1, image := image }
/-- The package once a create command's frames and slices stand ready and its partition has its number. -/
def granting (s : State) (c : PartitionSpec) : State :=
  let z := zeroFrames s (grantRanges c.frames) (deriveKeys c.part c.entropy).1
  let z := { z with slices := s.slices.map fun (e : Nat × Slice) => (e.1, clearSlice c.part e.2) }
  modPart z c.part fun q => created c q.image
theorem partAt_granting (s : State) (c : PartitionSpec) (j : Nat) :
    partAt (granting s c) j = if j = c.part then created c (partAt s c.part).image else partAt s j := partAt_modPart ..
theorem createPart_of_bad {c : PartitionSpec} (h : createBad s c = true) : createPart s c = s := if_pos h
theorem createPart_of_good {c : PartitionSpec} (h : createBad s c = false) : createPart s c =
    { granting s c with cores := bringUp c.part c.ceiling (coresOf (granting s c) c.part) s.cores } := by
  rw [createPart, h]
  rfl
/-- What a good create command makes of the partitions, of HBM and its keys, and of the partition's cores. -/
theorem createPart_brings_up {c : PartitionSpec} (h : createBad s c = false) :
    partAt (createPart s c) c.part = created c (partAt s c.part).image ∧
    (∀ j, j ≠ c.part → partAt (createPart s c) j = partAt s j) ∧
    (∀ a, bget (createPart s c).hbm a = if inRanges (grantRanges c.frames) a then 0 else bget s.hbm a) ∧
    (∀ a, inRanges (grantRanges c.frames) a = true →
      keyAt (createPart s c).hbmKeys a = (deriveKeys c.part c.entropy).1) ∧
    ∀ n, n ∈ coresOf (createPart s c) c.part → coreAt (createPart s c) n =
      { part := some c.part, tbudget := dn (min 0x1000000 c.ceiling.toNat), counters := (coreAt s n).counters } := by
  have hparts : (createPart s c).parts = (granting s c).parts := by rw [createPart_of_good h]
  have hhbm : (createPart s c).hbm = (granting s c).hbm := by rw [createPart_of_good h]
  have hkeys : (createPart s c).hbmKeys = (granting s c).hbmKeys := by rw [createPart_of_good h]
  have hcores : (createPart s c).cores = bringUp c.part c.ceiling (coresOf (granting s c) c.part) s.cores := by
    rw [createPart_of_good h]
  have hpart (j) : partAt (createPart s c) j = partAt (granting s c) j := by rw [partAt, hparts]; rfl
  refine ⟨?_, fun j hj => ?_, fun a => ?_, fun a ha => ?_, fun n hn => ?_⟩
  · rw [hpart, partAt_granting, if_pos rfl]
  · rw [hpart, partAt_granting, if_neg hj]
  · rw [hhbm]
    exact bget_zeroFrames s (grantRanges c.frames) (deriveKeys c.part c.entropy).1 a
  · rw [hkeys]
    exact keyAt_zeroFrames s (deriveKeys c.part c.entropy).1 ha
  · have hn' : n ∈ coresOf (granting s c) c.part := by simpa only [coresOf, hpart] using hn
    rw [coreAt, hcores, fget_bringUp, if_pos hn', coreAt]

/-! ## Its end -/

/-- A slice that a torn down partition has left. -/
def leftSlice (p : Nat) (x : Slice) : Slice := clearBuffer p (clearSlice p x)
theorem hostbuf_leftSlice {x : Slice} {e : HostByte} (h : e ∈ (leftSlice p x).hostbuf) : e.part ≠ p := by
  simpa using (List.mem_filter.mp h).2
/-- A core that a torn down partition has left: its own as after reset, another without its lines (R392). -/
def leftCore (p : Nat) (c : Core) : Core :=
  if c.part == some p then {} else { c with l1 := c.l1.filter fun x => !(keyPart x.1 == p) }
theorem leftCore_own {c : Core} (h : c.part = some p) : leftCore p c = {} := if_pos (by simp [h])

theorem teardown_of_dead (h : (partAt s p).live = false) : teardown s p = s := by
  rw [teardown, h]
  rfl

/-- What a partition leaves of every unit (R392). -/
theorem teardown_leaves (h : (partAt s p).live = true) :
    (∀ n, coreAt (teardown s p) n = leftCore p (coreAt s n)) ∧
    (∀ n, n ∈ (partAt s p).clusters → cluAt (teardown s p) n = {}) ∧
    (∀ n, sliceAt (teardown s p) n = leftSlice p (sliceAt s n)) ∧
    (teardown s p).accesses = s.accesses.filter (fun a => !(a.part == p)) ∧
    (teardown s p).msgs = s.msgs.filter (fun m => !(msgPart m == p)) ∧
    (teardown s p).sessions = s.sessions.filter (· != p + 1) ∧
    (∀ a, bget (teardown s p).hbm a = if inRanges (partAt s p).granted a then 0 else bget s.hbm a) ∧
    partAt (teardown s p) p = { image := (partAt s p).image } ∧
    ∀ j, j ≠ p → partAt (teardown s p) j = partAt s j := by
  simp only [teardown, h, Bool.not_true, Bool.false_eq_true, if_false]
  refine ⟨fun n => ?_, fun n hn => ?_, fun n => ?_, rfl, rfl, rfl, fun a => ?_, partAt_modPart_same .., fun j hj => ?_⟩
  · exact fget_map (fun _ => leftCore p) (fun e => by unfold leftCore; split <;> rfl) s.cores rfl
  · refine (fget_map (fun n c => if (partAt s p).clusters.contains n then ({} : Cluster) else c) (fun e => ?_)
      s.clusters ?_).trans ?_
    · split <;> rfl
    · exact ite_self _
    · exact if_pos (List.contains_iff_mem.mpr hn)
  · exact fget_map (fun _ => leftSlice p) (fun _ => rfl) s.slices rfl
  · exact bget_zeroFrames _ _ 0 a
  · rw [partAt_modPart, if_neg hj]
    rfl

/-! ## Starts (R398) -/

/-- What a warm start keeps of every core, die and partition. -/
theorem warmState_units (s : State) (m : Bool) :
    (∀ n, coreAt (warmState s m) n = { counters := (coreAt s n).counters }) ∧
    (∀ d, dieAt (warmState s m) d = { blim := (dieAt s d).blim, clim := (dieAt s d).clim }) ∧
    ∀ p, partAt (warmState s m) p = { image := (partAt s p).image } :=
  ⟨fun _ => fget_map (fun _ (c : Core) => { counters := c.counters }) (fun _ => rfl) s.cores rfl,
    fun _ => fget_map (fun _ (x : Die) => { blim := x.blim, clim := x.clim }) (fun _ => rfl) s.dies rfl,
    fun _ => fget_map (fun _ (q : Partition) => { image := q.image }) (fun _ => rfl) s.parts rfl⟩

/-! ## Commands of firmware and of the tenant -/

theorem exec_partitionCreate {c : PartitionSpec} (h : c.part < 64) (s : State) :
    exec (.partitionCreate c) s = .next (createPart s c) := if_neg (by simp [noPart_of_lt h])
theorem exec_partitionTeardown (h : p < 64) (s : State) : exec (.partitionTeardown p) s = .next (teardown s p) :=
  if_neg (by simp [noPart_of_lt h])
theorem exec_tdispRequest (h : p < 64) (hlive : (partAt s p).live = true) (r : TdispRequest) :
    exec (.tdispRequest p r) s = .next (modPart s p fun q => { q with tdi := tdispNext r q.tdi }) :=
  (if_neg (by simp [noPart_of_lt h])).trans (congrArg _ (if_pos hlive))

end
end Sys2Proof.Machine

/-! # A partition's service window: launch, load and release records (R57 to R59, R354, R380, R391) -/

namespace Sys2Proof.Machine
section
variable {s t u v : State} {p n k : Nat} {r : LaunchRecord} {l : LoadRecord}

/-! ## The window takes a request, or it waits -/

theorem windowReq_waits (h : takesNone s p = true ∨ serviceBusy s (windowService s p) p s.accessId = true) (r : WinReq) :
    windowReq s p r =
      modPart { s with accessId := s.accessId + 1 } p fun q => { q with winQ := q.winQ ++ [(s.accessId, r)] } :=
  if_pos (by simpa using h)
theorem windowReq_taken (htakes : takesNone s p = false) (hidle : serviceBusy s (windowService s p) p s.accessId = false)
    (r : WinReq) : windowReq s p r = windowDo { s with accessId := s.accessId + 1 } p s.accessId r :=
  if_neg (by simp [htakes, hidle])
theorem exec_launchRecord (h : p < 64) (r : LaunchRecord) (s : State) :
    exec (.launchRecord p r) s = .next (windowReq s p (.launch r)) := if_neg (by simp [noPart_of_lt h])
theorem exec_loadRecord (h : p < 64) (l : LoadRecord) (s : State) :
    exec (.loadRecord p l) s = .next (windowReq s p (.load l)) := if_neg (by simp [noPart_of_lt h])
theorem exec_releaseRecord (h : p < 64) (w : Dword) (s : State) :
    exec (.releaseRecord p w) s = .next (windowReq s p (.release w)) := if_neg (by simp [noPart_of_lt h])

/-- A record's dwords are kept as they were written (R391). -/
def noteRecord (s : State) (p i : Nat) (l : List Dword) : State :=
  modPart s p fun q => { q with winRec := putDwords q.winRec i l }
theorem windowOpen_of_run (hlive : (partAt s p).live = true) (hrun : (partAt s p).tdi = .run) : windowOpen s p = true := by
  simp [windowOpen, hlive, hrun]
theorem windowOpen_of_down (h : (partAt s p).live = false ∨ (partAt s p).tdi ≠ .run) : windowOpen s p = false := by
  simpa [windowOpen, ← Bool.eq_false_iff, or_iff_not_imp_left] using h
theorem windowDo_closed (h : windowOpen s p = false) (id : Nat) :
    (∀ r, windowDo s p id (.launch r) = s) ∧ (∀ l, windowDo s p id (.load l) = s) ∧ ∀ w, windowDo s p id (.release w) = s := by
  simp only [windowDo, h, Bool.not_false, if_true, implies_true, and_self]
theorem windowDo_open (h : windowOpen s p = true) (id : Nat) :
    (∀ r, windowDo s p id (.launch r) = launchRec (noteRecord s p 0 (launchDwords r)) p r) ∧
    (∀ l, windowDo s p id (.load l) = loadRec (noteRecord s p 0x100 [l.obj, l.dbase]) p l) ∧
    ∀ w, windowDo s p id (.release w) = releaseStopped (noteRecord s p 0x400 [w]) p w := by
  simp only [windowDo, h, Bool.not_true, Bool.false_eq_true, if_false, noteRecord, implies_true, and_self]

/-! ## What the window's registers leave -/

/-- `t` is `s` but for the numbering of accesses and what partitions hold besides units and loads under way. -/
structure SameButWindow (s t : State) : Prop where
  units : { t with parts := s.parts, accessId := s.accessId } = s
  clusters : ∀ j, (partAt t j).clusters = (partAt s j).clusters
  slices : ∀ j, (partAt t j).slices = (partAt s j).slices
  loading : ∀ j, (partAt t j).loading = (partAt s j).loading

namespace SameButWindow

protected theorem trans (h : SameButWindow s t) (g : SameButWindow t u) : SameButWindow s u where
  units := (congrArg (fun x : State => { x with parts := s.parts, accessId := s.accessId }) g.units).trans h.units
  clusters j := (g.clusters j).trans (h.clusters j)
  slices j := (g.slices j).trans (h.slices j)
  loading j := (g.loading j).trans (h.loading j)
theorem number (s : State) (id : Nat) : SameButWindow s { s with accessId := id } :=
  ⟨rfl, fun _ => rfl, fun _ => rfl, fun _ => rfl⟩
theorem modPart {f : Partition → Partition} (hclusters : ∀ q, (f q).clusters = q.clusters)
    (hslices : ∀ q, (f q).slices = q.slices) (hloading : ∀ q, (f q).loading = q.loading) (s : State) (p : Nat) :
    SameButWindow s (modPart s p f) := by
  refine ⟨rfl, fun j => ?_, fun j => ?_, fun j => ?_⟩ <;> rw [partAt_modPart] <;> split
  · next h => rw [hclusters, h]
  · rfl
  · next h => rw [hslices, h]
  · rfl
  · next h => rw [hloading, h]
  · rfl
theorem noteRecord (s : State) (p i : Nat) (l : List Dword) : SameButWindow s (noteRecord s p i l) :=
  modPart (f := fun q => { q with winRec := putDwords q.winRec i l }) (fun _ => rfl) (fun _ => rfl) (fun _ => rfl) s p

theorem cores (h : SameButWindow s t) : t.cores = s.cores := (congrArg State.cores h.units :)
theorem coreAt (h : SameButWindow s t) (n : Nat) : coreAt t n = coreAt s n := by rw [Machine.coreAt, h.cores]; rfl
theorem ctxAt (h : SameButWindow s t) (n k : Nat) : ctxAt t n k = ctxAt s n k := by rw [Machine.ctxAt, h.coreAt]; rfl
theorem baseCamp (h : SameButWindow s t) (p : Nat) : baseCamp t p = baseCamp s p := by simp only [Machine.baseCamp, h.clusters]
theorem inPart (h : SameButWindow s t) (p n : Nat) : inPart t p n = inPart s p n := by
  simp only [Machine.inPart, h.clusters, h.slices]
theorem freeCtx (h : SameButWindow s t) (n : Nat) : freeCtx t n = freeCtx s n := by
  simp only [Machine.freeCtx, partOf, h.coreAt, h.ctxAt, h.loading]
theorem anyRunning (h : SameButWindow s t) (p : Nat) : anyRunning t p = anyRunning s p := by
  simp only [Machine.anyRunning, coresOf, h.clusters, h.slices, h.ctxAt]

end SameButWindow

/-! ## Launch records -/

theorem launchRec_of_no_go (h : r.go = 0) (s : State) (p : Nat) : launchRec s p r = s := by
  simp [launchRec, h]
/-- A record whose GO is written stands at the service core. -/
def launchStands (s : State) (p : Nat) (r : LaunchRecord) : State :=
  modPart s p fun q => { q with launchQ := some r, launchAcc := false, launchGo := r.go }
theorem partAt_launchStands (s : State) (p : Nat) (r : LaunchRecord) : partAt (launchStands s p r) p =
    { partAt s p with launchQ := some r, launchAcc := false, launchGo := r.go } := partAt_modPart_same ..
theorem SameButWindow.launchStands (s : State) (p : Nat) (r : LaunchRecord) : SameButWindow s (launchStands s p r) :=
  .modPart (f := fun q => { q with launchQ := some r, launchAcc := false, launchGo := r.go }) (fun _ => rfl) (fun _ => rfl)
    (fun _ => rfl) s p
theorem launchRec_of_go (hgo : r.go ≠ 0) (hnone : (partAt s p).launchQ = none) :
    launchRec s p r = launchOn (launchStands s p r) p := by
  simp only [launchRec, hnone, Option.isSome_none, beq_false_of_ne hgo, Bool.or_self, Bool.false_eq_true, if_false, launchStands]
theorem launchOn_refuses (hq : (partAt s p).launchQ = some r) (hload : (partAt s p).loading = false)
    (hacc : (partAt s p).launchAcc = false) (hbad : launchBad r = true) :
    launchOn s p = modPart s p fun q => { q with launchQ := none, launchGo := BitVec.allOnes 64 } := by
  simp only [launchOn, hq, hload, hacc, hbad, Bool.not_false, Bool.and_self, Bool.false_eq_true, if_false, if_true]

/-- An accepted record: its BODYTAB is written (R58). -/
def accepted (s : State) (p : Nat) (r : LaunchRecord) : State :=
  modPart (setBodytab s p r.bodyt) p fun q => { q with launchAcc := true }
theorem partAt_accepted (s : State) (p : Nat) (r : LaunchRecord) :
    partAt (accepted s p r) p = { partAt s p with bodytab := r.bodyt, launchAcc := true } := by
  rw [accepted, partAt_modPart_same, setBodytab, partAt_modPart_same]
  rfl
theorem coreAt_accepted (s : State) (p : Nat) (r : LaunchRecord) (n : Nat) :
    ∃ b, coreAt (accepted s p r) n = { coreAt s n with bodytab := b } := by
  obtain ⟨b, hb⟩ := withBodytab_kept p r.bodyt (coreAt s n)
  exact ⟨b, (coreAt_setBodytab s p r.bodyt n).trans hb⟩
theorem freeCtx_accepted (s : State) (p : Nat) (r : LaunchRecord) (n : Nat) : freeCtx (accepted s p r) n = freeCtx s n := by
  obtain ⟨b, hb⟩ := coreAt_accepted s p r n
  have hload (j) : (partAt (accepted s p r) j).loading = (partAt s j).loading := by
    by_cases h : j = p
    · rw [h, partAt_accepted]
    · rw [accepted, partAt_modPart, if_neg h, setBodytab, partAt_modPart, if_neg h]
      rfl
  simp only [freeCtx, partOf, ctxAt, hb, hload]
  rfl
/-- The stub of an accepted record starts on the base camp, and the launch interrupt is raised (R58, R59, R391). -/
def stubStarts (s : State) (p n k : Nat) (r : LaunchRecord) : State :=
  let u := beginCtx (acquireAll s n) n k r.start.toNat (BitVec.ofNat 2 r.cls.toNat)
  interrupt (modPart (modCtx u n k fun c => writeX c 3 r.ap) p fun q =>
    { q with launchQ := none, launchAcc := false, launchGo := 0 }) p 1
theorem launchOn_starts (hq : (partAt s p).launchQ = some r) (hload : (partAt s p).loading = false)
    (hacc : (partAt s p).launchAcc = false) (hgood : launchBad r = false) (hfree : freeCtx s (baseCamp s p) = some k)
    (hrun : (coreAt s (baseCamp s p)).halted = false) :
    launchOn s p = stubStarts (accepted s p r) p (baseCamp s p) k r := by
  have hbase : baseCamp (accepted s p r) p = baseCamp s p := by rw [baseCamp, partAt_accepted]; rfl
  obtain ⟨b, hb⟩ := coreAt_accepted s p r (baseCamp s p)
  have hhalted : (coreAt (accepted s p r) (baseCamp s p)).halted = false := by rw [hb]; exact hrun
  have hfree' : freeCtx (accepted s p r) (baseCamp s p) = some k := (freeCtx_accepted ..).trans hfree
  rw [accepted] at hbase hhalted hfree'
  simp only [launchOn, hq, hload, hacc, hgood, Bool.not_false, Bool.and_false, Bool.false_eq_true, if_false, hbase, hfree',
    hhalted, stubStarts, accepted]
theorem stubStarts_starts (s : State) (p n k : Nat) (r : LaunchRecord) :
    partAt (stubStarts s p n k r) p =
      { partAt s p with launchQ := none, launchAcc := false, launchGo := 0, msix := (partAt s p).msix ++ [1] } ∧
    ∃ cycle, ctxAt (stubStarts s p n k r) n k =
      writeX (begun cycle r.start.toNat (BitVec.ofNat 2 r.cls.toNat) (ctxAt s n k)) 3 r.ap := by
  have hv := SameButCaches.acquireAll s n
  have hparts : (acquireAll s n).parts = s.parts := (congrArg State.parts hv.units :)
  refine ⟨?_, (acquireAll s n).cycle, ?_⟩
  · rw [stubStarts, interrupt, partAt_modPart_same, partAt_modPart_same]
    have hpart (f : Ctx → Ctx) :
        partAt (modCtx (beginCtx (acquireAll s n) n k r.start.toNat (BitVec.ofNat 2 r.cls.toNat)) n k f) p = partAt s p := by
      show fget {} (acquireAll s n).parts p = _
      rw [hparts]; rfl
    simp only [hpart]
  · show ctxAt (modCtx (beginCtx _ n k _ _) n k fun c => writeX c 3 r.ap) n k = _
    rw [ctxAt_modCtx_same, beginCtx_eq, ctxAt_modCtx_same, hv.ctxAt]

/-- A record that breaks R57 is refused at once, where no load runs. -/
theorem launchRec_refuses (hgo : r.go ≠ 0) (hnone : (partAt s p).launchQ = none) (hload : (partAt s p).loading = false)
    (hbad : launchBad r = true) : launchRec s p r =
      modPart (launchStands s p r) p fun q => { q with launchQ := none, launchGo := BitVec.allOnes 64 } := by
  have hpart := partAt_launchStands s p r
  rw [launchRec_of_go hgo hnone, launchOn_refuses (by rw [hpart]) (by rw [hpart]; exact hload) (by rw [hpart]) hbad]
/-- Another's stub starts at once, where the base camp has a dormant context and no load runs (R58, R59). -/
theorem launchRec_starts (hgo : r.go ≠ 0) (hnone : (partAt s p).launchQ = none) (hload : (partAt s p).loading = false)
    (hgood : launchBad r = false) (hfree : freeCtx s (baseCamp s p) = some k)
    (hrun : (coreAt s (baseCamp s p)).halted = false) :
    partAt (launchRec s p r) p =
      { partAt s p with
        bodytab := r.bodyt, launchQ := none, launchAcc := false, launchGo := 0, msix := (partAt s p).msix ++ [1] } ∧
    ∃ cycle c, ctxAt (launchRec s p r) (baseCamp s p) k =
      writeX (begun cycle r.start.toNat (BitVec.ofNat 2 r.cls.toNat) c) 3 r.ap := by
  have hpart := partAt_launchStands s p r
  have hstands := SameButWindow.launchStands s p r
  have hstub : launchRec s p r = stubStarts (accepted (launchStands s p r) p r) p (baseCamp s p) k r := by
    rw [launchRec_of_go hgo hnone, launchOn_starts (r := r) (k := k) (by rw [hpart]) (by rw [hpart]; exact hload)
      (by rw [hpart]) hgood (by rw [hstands.baseCamp, hstands.freeCtx]; exact hfree)
      (by rw [hstands.baseCamp, hstands.coreAt]; exact hrun), hstands.baseCamp]
  obtain ⟨hown, cycle, hctx⟩ := stubStarts_starts (accepted (launchStands s p r) p r) p (baseCamp s p) k r
  rw [hstub, hown, partAt_accepted, hpart]
  exact ⟨rfl, cycle, _, hctx⟩

/-! ## Release records -/

theorem releaseStopped_of_stopped (hin : inPart s p n = true) (hn : n < 768) (hk : k < Config.contexts n)
    (hstopped : (ctxAt s n k).stopped = true) :
    releaseStopped s p (BitVec.ofNat 64 (2 ^ 63 + k * 2 ^ 10 + n)) = makeDormant (leaveRope s n k) n k := by
  have hk8 : k < 8 := by
    have : Config.contexts n ≤ 8 := by unfold Config.contexts; split <;> omega
    omega
  have hw : (BitVec.ofNat 64 (2 ^ 63 + k * 2 ^ 10 + n)).toNat = 2 ^ 63 + k * 2 ^ 10 + n :=
    Nat.mod_eq_of_lt (by omega)
  have hcore : bits (2 ^ 63 + k * 2 ^ 10 + n) 0 10 = n := by unfold bits; omega
  have hctx : bits (2 ^ 63 + k * 2 ^ 10 + n) 10 3 = k := by unfold bits; omega
  have hvalid : (BitVec.ofNat 64 (2 ^ 63 + k * 2 ^ 10 + n)).getLsbD 63 = true := by
    rw [BitVec.getLsbD, hw, Nat.testBit_eq_decide_div_mod_eq]
    exact decide_eq_true (by omega)
  simp only [releaseStopped, hw, hcore, hctx, hvalid, hin, hk, hstopped, decide_true, Bool.and_self, if_true]
theorem releaseStopped_of_running {w : Dword} (h : (ctxAt s (w.toNat % 2 ^ 10) (w.toNat / 2 ^ 10 % 8)).stopped = false) :
    releaseStopped s p w = s := by
  have hcore : bits w.toNat 0 10 = w.toNat % 2 ^ 10 := by rw [bits, Nat.pow_zero, Nat.div_one]
  have hctx : bits w.toNat 10 3 = w.toNat / 2 ^ 10 % 8 := rfl
  simp only [releaseStopped, hcore, hctx, h, Bool.and_false, Bool.false_eq_true, if_false]

/-! ## Load records -/

theorem loadRec_of_running (hgo : l.go ≠ 0) (hnone : (partAt s p).loadQ = none) (h : anyRunning s p = true) :
    loadRec s p l = modPart s p fun q => { q with loadStat := 7, loadGo := BitVec.allOnes 64 } := by
  simp only [loadRec, hnone, Option.isSome_none, beq_false_of_ne hgo, Bool.or_self, Bool.false_eq_true, if_false, h, if_true]
/-- A load that runs stands at the service core (R380). -/
def loadStands (s : State) (p : Nat) (l : LoadRecord) : State :=
  modPart s p fun q => { q with loadQ := some l, loading := true, loadGo := l.go }
theorem partAt_loadStands (s : State) (p : Nat) (l : LoadRecord) : partAt (loadStands s p l) p =
    { partAt s p with loadQ := some l, loading := true, loadGo := l.go } := partAt_modPart_same ..
theorem loadRec_of_go (hgo : l.go ≠ 0) (hnone : (partAt s p).loadQ = none) (h : anyRunning s p = false) :
    loadRec s p l = loadOn (loadStands s p l) p := by
  simp only [loadRec, hnone, Option.isSome_none, beq_false_of_ne hgo, Bool.or_self, Bool.false_eq_true, if_false, h, loadStands]
theorem partAt_endLoad (s : State) (p code kind off idx : Nat) : partAt (endLoad s p code kind off idx) p =
    { partAt s p with
      loadQ := none, loading := false, loadGo := 0, msix := (partAt s p).msix ++ [1],
      loadStat := dn (code + kind * 2 ^ 8 + off % 2 ^ 32 * 2 ^ 16 + idx % 2 ^ 8 * 2 ^ 48) } := by
  rw [endLoad, interrupt, partAt_modPart_same, partAt_modPart_same]
/-- An object that is not aligned is a bad one (R381). -/
theorem loadOn_misaligned (hq : (partAt s p).loadQ = some l) (h : l.obj.toNat % 64 ≠ 0) : loadOn s p = endLoad s p 3 0 0 0 := by
  simp only [loadOn, hq]
  exact if_pos (.inl h)

/-- The cores of a partition receive the resident text and TCM data (R380). -/
def filledCores (s : State) (p : Nat) (x : Ready) : State :=
  { s with cores := s.cores.map fun (e : Nat × Core) => if e.2.part == some p then (e.1, fillTcm x e.1 e.2) else e }
theorem coreAt_filledCores (s : State) (p : Nat) (x : Ready) (n : Nat) : coreAt (filledCores s p x) n =
    if (coreAt s n).part == some p then fillTcm x n (coreAt s n) else coreAt s n :=
  fget_map (fun n (c : Core) => if c.part == some p then fillTcm x n c else c) (fun e => by split <;> rfl) s.cores rfl
theorem placeAll_eq (s : State) (p : Nat) (x : Ready) : placeAll s p x =
    match x.table with | some a => setBodytab (filledCores s p x) p (dn (a + 1)) | none => filledCores s p x := rfl
/-- What the cores of a partition receive (R380), and that nothing else changes but the body table. -/
theorem placeAll_fills (s : State) (p : Nat) (x : Ready) :
    (∃ b, partAt (placeAll s p x) p = { partAt s p with bodytab := b }) ∧
    (placeAll s p x).hbm = s.hbm ∧ (placeAll s p x).slices = s.slices ∧
    ∀ n, (coreAt s n).part = some p → ∃ b, coreAt (placeAll s p x) n = { fillTcm x n (coreAt s n) with bodytab := b } := by
  have hcore (n) (h : (coreAt s n).part = some p) : coreAt (filledCores s p x) n = fillTcm x n (coreAt s n) :=
    (coreAt_filledCores s p x n).trans (if_pos (by simp [h]))
  rw [placeAll_eq]
  cases x.table with
  | none => exact ⟨⟨_, rfl⟩, rfl, rfl, fun n h => ⟨_, hcore n h⟩⟩
  | some a =>
    refine ⟨⟨_, partAt_modPart_same ..⟩, rfl, rfl, fun n h => ?_⟩
    obtain ⟨b, hb⟩ := withBodytab_kept p (dn (a + 1)) (coreAt (filledCores s p x) n)
    exact ⟨b, (coreAt_setBodytab ..).trans (hb.trans (by rw [hcore n h]))⟩
theorem fillTcm_synced (x : Ready) (n : Nat) (c : Core) : (fillTcm x n c).fetched = [] ∧ (fillTcm x n c).bodies = [] := by
  unfold fillTcm
  dsimp only
  split <;> exact ⟨rfl, rfl⟩

end
end Sys2Proof.Machine

/-! # What the loader's reads leave of the partitions' units (R380)

A load's portable form is translated for the clusters and slices of its partition (R387). They are the same after the
reads of the object: nothing on the way of a read changes them. -/

namespace Sys2Proof.Machine
section
variable {b s t : State} {n k p va w : Nat}

/-- Every partition has the same clusters and slices. -/
def SameUnits (s t : State) : Prop :=
  ∀ p, (partAt t p).clusters = (partAt s p).clusters ∧ (partAt t p).slices = (partAt s p).slices

namespace SameUnits

protected theorem refl (s : State) : SameUnits s s := fun _ => ⟨rfl, rfl⟩
/-- A state with the same partitions. -/
theorem same (h : SameUnits b s) (e : t.parts = s.parts) : SameUnits b t := fun p => by
  have hp : partAt t p = partAt s p := by rw [partAt, e]; rfl
  rw [hp]
  exact h p
protected theorem ite {c : Prop} {_ : Decidable c} (h : SameUnits b s) (g : SameUnits b t) :
    SameUnits b (if c then s else t) := ite_keeps h g
protected theorem foldl {α : Type} {f : State → α → State} {l : List α} (h : SameUnits b s)
    (hf : ∀ s a, SameUnits b s → SameUnits b (f s a)) : SameUnits b (l.foldl f s) := foldl_keeps hf h
theorem caches (h : SameUnits b s) (g : SameButCaches s t) : SameUnits b t :=
  h.same (congrArg State.parts g.units :)

theorem modSlice {f} (h : SameUnits b s) : SameUnits b (modSlice s n f) := h.same rfl
theorem modCore {f} (h : SameUnits b s) : SameUnits b (modCore s n f) := h.same rfl

/-! ## Lines, frames and buffers -/

theorem setHome {l} (h : SameUnits b s) : SameUnits b (setHome s k l) := h.caches (.setHome ..)
theorem modHome {f} (h : SameUnits b s) : SameUnits b (modHome s k f) := h.caches (.modHome ..)
theorem putHome {o v} (h : SameUnits b s) : SameUnits b (putHome s k o w v) := h.caches (.putHome ..)
theorem setL1 {l} (h : SameUnits b s) : SameUnits b (setL1 s n k l) := h.caches (.setL1 ..)
theorem delL1 (h : SameUnits b s) : SameUnits b (delL1 s n k) := h.caches (.delL1 ..)
theorem bump {i} (h : SameUnits b s) : SameUnits b (bump s n i) := h.caches (.bump ..)
theorem dropL1 (h : SameUnits b s) : SameUnits b (dropL1 s n k) := h.caches (.dropL1 ..)
theorem recallAll (h : SameUnits b s) : SameUnits b (recallAll s k) := h.foldl fun _ _ h => h.dropL1
theorem putL1 {l} (h : SameUnits b s) : SameUnits b (putL1 s n k l) := by
  refine .setL1 (.ite h (.ite h ?_))
  dsimp only [freeDword]
  split
  · exact .dropL1 (h.same rfl)
  · exact h.same rfl
theorem evictHome (h : SameUnits b s) : SameUnits b (evictHome s k) := by
  unfold Machine.evictHome
  split
  · exact h
  · extract_lets s1 s2 s3
    have h1 : SameUnits b s1 := by
      dsimp only [s1]
      split
      · exact h.bump
      · exact h
    have h2 : SameUnits b s2 := by
      dsimp only [s2]
      split
      · exact h1.bump
      · exact h1
    have h3 : SameUnits b s3 := .ite h2 (.ite (h2.same rfl) (h2.same rfl))
    exact .modSlice (.ite (.ite (h3.same rfl) (h3.same rfl)) h3)
theorem makeRoom (h : SameUnits b s) (e : makeRoom s n k = some t) : SameUnits b t := by
  unfold Machine.makeRoom at e
  dsimp only [freeDword] at e
  split at e
  · cases e
    exact h
  split at e
  · cases e
    exact h
  split at e
  · cases e
    have h' := h.same (t := { s with free := s.free + 1 }) rfl
    exact .ite h'.recallAll.evictHome (h'.same rfl)
  · cases e
theorem gatherToken (h : SameUnits b s) : SameUnits b (gatherToken s k) := by
  unfold Machine.gatherToken
  split
  · exact h
  split
  · exact h
  · exact .ite h.setL1.modHome h.dropL1
theorem gatherRead (h : SameUnits b s) : SameUnits b (gatherRead s n k) := by
  unfold Machine.gatherRead
  split <;> split
  · exact h
  · exact .ite h.setL1.putL1 h.delL1.putL1
  · exact h
  · exact h.setHome.putL1
theorem hostLoad (h : SameUnits b s) : SameUnits b (hostLoad s n va w).1 := h.same rfl
theorem installL1 {l wr} (h : SameUnits b s) : SameUnits b (installL1 s n k l wr) := by
  unfold Machine.installL1
  split
  · exact h.setL1
  · exact h.putL1
theorem usedHome {g a} (h : SameUnits b s) : SameUnits b (usedHome s g a k) := by
  unfold Machine.usedHome
  split
  · extract_lets mine s1
    have h1 : SameUnits b s1 := by
      dsimp only [s1]
      split
      · exact h.bump
      · exact h
    exact .ite h (.setHome (.ite h1.bump h1))
  · exact h
theorem lateL1 (h : SameUnits b s) : SameUnits b (lateL1 s n k) := by
  unfold Machine.lateL1
  split
  · exact h.bump.modCore
  · exact h
theorem demand {g a} (h : SameUnits b s) : SameUnits b (demand s g a k) := by
  refine .ite h (.ite ?_ (.ite h.lateL1 h))
  unfold demandL1
  split
  · unfold usedL1
    split
    · exact h.bump.setL1
    · exact h
  · exact h.lateL1
theorem lateEngine {line} (h : SameUnits b s) : SameUnits b (lateEngine s line) := by
  unfold Machine.lateEngine
  split
  · exact h.bump
  · exact h

/-! ## Monitors and the table window -/

theorem noteType {wva e} (h : SameUnits b s) : SameUnits b (noteType s p wva e) := by
  refine .ite (fun j => ?_) h
  rw [partAt_modPart]
  split
  · next hj => exact hj ▸ h j
  · exact h j
theorem fireMonitor {line} (h : SameUnits b s) : SameUnits b (fireMonitor s p line) := by
  have hnoted : SameUnits b (noteTypes s p line) := .ite (h.foldl fun _ _ h => h.noteType) h
  exact .ite (hnoted.same rfl) hnoted

end SameUnits

/-- A fill that succeeds leaves the partitions' units. -/
def FillKeeps (b : State) : Fill → Prop
  | .ok s => SameUnits b s
  | .refuse _ | .retry _ | .busy => True
theorem FillKeeps.ok {f : Fill} (hf : FillKeeps b f) (e : f = .ok t) : SameUnits b t := by
  subst e
  exact hf

namespace SameUnits

theorem fillHome {pa wr ct} (h : SameUnits b s) : FillKeeps b (fillHome s k pa wr ct) := by
  unfold Machine.fillHome
  split
  · exact h
  split
  · trivial
  split
  · trivial
  split
  · trivial
  split
  · trivial
  next heq =>
    have ht := h.makeRoom heq
    split
    · exact ht.setHome
    · exact .setHome (.ite (ht.same rfl) ht)
theorem fillWindow (h : SameUnits b s) : FillKeeps b (fillWindow s p va) := by
  unfold Machine.fillWindow
  dsimp only
  split
  · trivial
  have hf : FillKeeps b (Machine.fillHome s (lineKey p va) (windowPa (partAt s p) + va % 2 ^ 30 / 64 * 64) true ctSC) := h.fillHome
  split
  next heq => exact (hf.ok heq).gatherToken
  · exact hf
theorem putWindow {v} (h : SameUnits b s) : SameUnits b (putWindow s p va v) := h.recallAll.putHome.fireMonitor
theorem walkEnter {e} (h : SameUnits b s) : SameUnits b (walkEnter s n e) := .ite (h.same rfl) (h.same rfl)

end SameUnits

/-! ## Translation -/

/-- However a translation ends, it leaves the partitions' units. -/
def TransKeeps (b : State) : Trans → Prop
  | .ok s _ | .refuse s _ _ | .park s _ _ _ | .retry s _ _ | .busy s _ | .needWalk s => SameUnits b s
theorem TransKeeps.of_eq {r r' : Trans} (h : TransKeeps b r) (e : r = r') : TransKeeps b r' := e ▸ h
protected theorem TransKeeps.ite {c : Prop} {_ : Decidable c} {r r' : Trans} (h : TransKeeps b r) (h' : TransKeeps b r') :
    TransKeeps b (if c then r else r') := ite_keeps h h'

namespace SameUnits

theorem armMonitor {line} (h : SameUnits b s) : SameUnits b (armMonitor s p line) := h.same rfl
theorem tlbEnter {u} (h : SameUnits b s) : SameUnits b (tlbEnter s n u) := h.same rfl
theorem walkFrom {wr host fuel lvl table} (h : SameUnits b s) : TransKeeps b (walkFrom n p va wr host fuel s lvl table) := by
  induction fuel generalizing s lvl table with
  | zero => exact h
  | succ fuel ih =>
    unfold Machine.walkFrom
    extract_lets
    split
    · exact h
    · exact h
    · exact h
    · next heq =>
      have hf := h.fillWindow.ok heq
      exact .ite hf (.ite hf.armMonitor (.ite hf (.ite (.ite hf (ih hf.walkEnter)) (.ite hf.armMonitor
        (.ite hf (.ite (.ite hf hf.armMonitor) (.ite hf (.ite hf.armMonitor
          (.tlbEnter (.noteType (.ite hf.putWindow hf)))))))))))
theorem walk {wr host goOn} (h : SameUnits b s) : TransKeeps b (walk s n p va wr host goOn) := by
  unfold Machine.walk
  split
  · exact h.walkFrom
  split
  · exact h.walkEnter.walkFrom
  · exact h.walkFrom
theorem firstWrite {u} (h : SameUnits b s) : TransKeeps b (firstWrite s n p u) := by
  unfold Machine.firstWrite
  split
  · exact h
  · exact h
  · exact h
  · next heq =>
    have hf := h.fillWindow.ok heq
    exact .ite hf (.ite hf.armMonitor hf.putWindow.tlbEnter)
theorem translate {wr host} (h : SameUnits b s) : TransKeeps b (translate s n p va wr host) := by
  unfold Machine.translate
  extract_lets
  refine .ite h ?_
  split
  · exact .ite (.ite h h) (.ite h (.ite h.firstWrite h.tlbEnter))
  · split <;> exact h

end SameUnits

/-! ## One part of an access -/

/-- However the attempt to perform a part ends, it leaves the partitions' units. -/
def ResKeeps (b : State) : PRes → Prop
  | .done s _ _ | .stall s _ | .park s _ _ _ _ | .refuse s _ _ | .refuseVal s _ _ _ => SameUnits b s
theorem ResKeeps.of_eq {r r' : PRes} (h : ResKeeps b r) (e : r = r') : ResKeeps b r' := e ▸ h
protected theorem ResKeeps.ite {c : Prop} {_ : Decidable c} {r r' : PRes} (h : ResKeeps b r) (h' : ResKeeps b r') :
    ResKeeps b (if c then r else r') := ite_keeps h h'
/-- The same for a part that has its translation, or has none. -/
def LocKeeps (b : State) : Loc → Prop
  | .ok s _ _ => SameUnits b s
  | .no r => ResKeeps b r
theorem LocKeeps.of_eq {r r' : Loc} (h : LocKeeps b r) (e : r = r') : LocKeeps b r' := e ▸ h
protected theorem LocKeeps.ite {c : Prop} {_ : Decidable c} {r r' : Loc} (h : LocKeeps b r) (h' : LocKeeps b r') :
    LocKeeps b (if c then r else r') := ite_keeps h h'

namespace SameUnits

theorem locate {g a wr} (h : SameUnits b s) : LocKeeps b (locate s g a va wr) := by
  unfold Machine.locate
  refine .ite h ?_
  split
  · exact .ite h h
  extract_lets moving home near dupNear refusal walked r
  split
  · exact h.armMonitor
  have hr : TransKeeps b r.1 := by
    dsimp only [r]
    split
    · next s1 heq =>
      have h1 : SameUnits b s1 := h.translate.of_eq heq
      exact ite_keeps h1.walk h1
    · exact h.translate
  clear_value dupNear
  split
  · split
    · exact h
    · exact h.tlbEnter
  split
  · next heq => exact hr.of_eq heq
  · next heq => exact hr.of_eq heq
  · next heq => exact hr.of_eq heq
  · next heq => exact hr.of_eq heq
  · next heq => exact hr.of_eq heq
  · next s1 u heq =>
    have h1 : SameUnits b s1 := hr.of_eq heq
    extract_lets s2
    have h2 : SameUnits b s2 := .ite h1.tlbEnter h1
    split
    · exact h2
    · exact .ite h2 h2
theorem filled {g a u} (h : SameUnits b s) : LocKeeps b (filled s g a n k va u) := by
  unfold Machine.filled
  split
  · exact h
  · exact SameUnits.ite h.lateEngine h
  · exact h
  · next heq => exact h.usedHome.fillHome.ok heq
theorem withLine {g a u f} (h : SameUnits b s) (hf : ∀ s l, SameUnits b s → ResKeeps b (f s l)) :
    ResKeeps b (withLine s g a k va u f) := by
  unfold Machine.withLine
  split
  · next heq => exact h.filled.of_eq heq
  · next s1 _ _ heq =>
    have h1 : SameUnits b s1 := h.filled.of_eq heq
    split
    · exact hf _ _ h1
    · exact h1
theorem tokenRead {g o} (h : SameUnits b s) : ResKeeps b (tokenRead s g k o w) :=
  .ite (SameUnits.ite h.recallAll h.gatherToken) h
theorem dupRead {a u} (h : SameUnits b s) : ResKeeps b (dupRead s a n k va w u) := by
  unfold Machine.dupRead
  extract_lets pa keep data
  have hkeep (s d) (h : SameUnits b s) : ResKeeps b (keep s d) := SameUnits.ite h.putL1 h
  split
  · exact hkeep _ _ h
  refine .ite h (.ite h ?_)
  split
  · exact h
  · next heq => exact hkeep _ _ ((h.makeRoom heq).same rfl)
theorem performRead {g a nw acq} (h : SameUnits b s) : ResKeeps b (performRead s g a va w nw acq) := by
  unfold Machine.performRead
  extract_lets k off hit s1
  have h1 : SameUnits b s1 := h.demand
  clear_value hit
  split
  · exact .ite h h.demand
  split
  · next heq => exact h1.locate.of_eq heq
  · next s2 n u heq =>
    have h2 : SameUnits b s2 := h1.locate.of_eq heq
    refine .ite h2.dupRead (.ite (.ite (.ite h2 h2) h2.hostLoad) (.ite h2 (h2.withLine fun s l h => ?_)))
    split
    · exact .ite h (.ite (.ite (.gatherRead (.ite h.recallAll h)) h) h.tokenRead)
    · refine .ite ?_ h
      extract_lets s3
      change SameUnits b s3
      dsimp only [s3]
      split
      · exact h.setL1
      · exact h.installL1
    · exact .ite (.ite h h) (SameUnits.ite h.installL1 h)
    · exact h.installL1

end SameUnits

/-! ## The loader's reads -/

/-- The reads of a load, where they succeed, leave the partitions' units. -/
theorem sameUnits_of_loadBytes {l : List Byte} (e : loadBytes p va n s = .ok t l) : SameUnits s t := by
  induction n generalizing t l with
  | zero => cases e; exact .refl s
  | succ n ih =>
    rw [loadBytes] at e
    split at e
    · next s1 l1 heq =>
      have hread := (ih heq).performRead (g := { walk := walkerFree s1 p (va + 8 * n), grant := true }) (a := deviceAccess p)
        (va := va + 8 * n) (w := 8) (nw := false) (acq := false)
      split at e
      · next heq' =>
        cases e
        exact hread.of_eq heq'
      all_goals cases e
    · next hfails => exact absurd e (hfails t l)

end
end Sys2Proof.Machine

/-! # A load that is not held up ends in one step (R380, R381, R386) -/

namespace Sys2Proof.Machine
section
variable {s v : State} {p i : Nat} {l : LoadRecord} {x : Ready}

/-- A load that reads its object and stores an image is answered with the image's number (R386). The choice of the image
stands as a variable, for the kernel would compute it. -/
theorem loadOn_of_loadsTo (hq : (partAt s p).loadQ = some l) (h : loadsTo s p l = some (v, i, x)) :
    loadOn s p = endLoad (placeAll v p x) p 0 0 0 i := by
  rw [loadOn]
  simp only [loadsTo, hq] at h ⊢
  obtain ⟨choose, hchoose⟩ : ∃ f, f = chooseImage := ⟨_, rfl⟩
  rw [← hchoose] at h ⊢
  split at h
  · cases h
  next hplaces =>
  rw [if_neg hplaces]
  split at h
  next s1 header h1 =>
    simp only [h1]
    split at h
    · cases h
    next hheader =>
    rw [if_neg hheader]
    split at h
    next s2 dir h2 =>
      simp only [h2]
      split at h
      · cases h
      next hdir =>
      rw [if_neg hdir]
      split at h
      next s3 object h3 =>
        have hunits : SameUnits s s3 := fun j => by
          obtain ⟨hc1, hs1⟩ := sameUnits_of_loadBytes h1 j
          obtain ⟨hc2, hs2⟩ := sameUnits_of_loadBytes h2 j
          obtain ⟨hc3, hs3⟩ := sameUnits_of_loadBytes h3 j
          exact ⟨hc3.trans (hc2.trans hc1), hs3.trans (hs2.trans hs1)⟩
        obtain ⟨hclusters, hslices⟩ := hunits p
        simp only [h3, hclusters, hslices]
        split at h
        next i' x' himage =>
          simp only [himage]
          split at h
          next s4 _ h4 =>
            cases h
            simp only [h4]
          · cases h
        · cases h
      · cases h
    · cases h
  · cases h

theorem fget_of_ffind {α : Type} {d a : α} {m : FMap α} {k : Nat} (h : ffind m k = some a) : fget d m k = a := by
  induction m with
  | nil => cases h
  | cons e m ih =>
    rw [ffind] at h
    rw [fget]
    split at h
    · next hk => rw [if_pos hk]; exact Option.some.inj h
    · next hk => rw [if_neg hk]; exact ih h
/-- The status word of a load that has placed its image (R386). -/
theorem loadStat_placed (i : Nat) :
    (dn (0 + 0 * 2 ^ 8 + 0 % 2 ^ 32 * 2 ^ 16 + i % 2 ^ 8 * 2 ^ 48)).toNat = i % 256 * 2 ^ 48 := by
  rw [dn, BitVec.toNat_ofNat]
  omega
/-- The end of a load that has placed its image (R380, R386). -/
theorem endLoad_placed (s : State) (p i : Nat) (x : Ready) :
    ∃ b, partAt (endLoad (placeAll s p x) p 0 0 0 i) p =
      { partAt s p with
        bodytab := b, loadQ := none, loading := false, loadGo := 0, msix := (partAt s p).msix ++ [1],
        loadStat := dn (0 + 0 * 2 ^ 8 + 0 % 2 ^ 32 * 2 ^ 16 + i % 2 ^ 8 * 2 ^ 48) } := by
  obtain ⟨⟨b, hb⟩, -⟩ := placeAll_fills s p x
  exact ⟨b, by rw [partAt_endLoad, hb]⟩
/-- What the cores of its partition then hold. -/
theorem coreAt_placed {n : Nat} {c : Core} (hc : ffind s.cores n = some c) (hin : c.part = some p) (x : Ready) (i : Nat) :
    ∃ b, coreAt (endLoad (placeAll s p x) p 0 0 0 i) n = { fillTcm x n c with bodytab := b } := by
  obtain rfl : coreAt s n = c := fget_of_ffind hc
  obtain ⟨-, -, -, hfills⟩ := placeAll_fills s p x
  exact hfills n hin

theorem loadRec_misaligned (hgo : l.go ≠ 0) (hnone : (partAt s p).loadQ = none) (hany : anyRunning s p = false)
    (h : l.obj.toNat % 64 ≠ 0) : loadRec s p l = endLoad (loadStands s p l) p 3 0 0 0 := by
  rw [loadRec_of_go hgo hnone hany, loadOn_misaligned (l := l) (by rw [partAt_loadStands]) h]
theorem loadRec_loads (hgo : l.go ≠ 0) (hnone : (partAt s p).loadQ = none) (hany : anyRunning s p = false)
    (h : loadsTo (loadStands s p l) p l = some (v, i, x)) : loadRec s p l = endLoad (placeAll v p x) p 0 0 0 i := by
  rw [loadRec_of_go hgo hnone hany, loadOn_of_loadsTo (by rw [partAt_loadStands]) h]

end
end Sys2Proof.Machine

/-! # Firmware acts on partitions -/

namespace Sys2Proof
open Machine
/-- Settles O56, clause by clause: the end state of a command by the lemma that says what it leaves (`createPart_brings_up`,
`teardown_leaves`, `warmState_units`), a record by what the window does with it (`launchRec_starts`, `loadRec_loads`,
`releaseStopped_of_stopped`). -/
theorem firmwareActsOnPartitions : Obligations.FirmwareActsOnPartitions := by
  refine ⟨fun s c hc hbad => ?_, fun s c hc hgood => ?_, fun s p hp => ⟨fun hdead => ?_, fun hlive => ?_⟩, fun s m => ?_,
    fun s => ?_, fun s p hp hlive => ?_, fun s p hp => ?_⟩
  · rw [exec_partitionCreate hc, createPart_of_bad hbad]
  · obtain ⟨hpart, hothers, hhbm, hkeys, hcores⟩ := createPart_brings_up hgood
    refine ⟨createPart s c, exec_partitionCreate hc s, ?_⟩
    rw [hpart]
    refine ⟨rfl, rfl, rfl, rfl, fun i hi => getLsbD_ptroot hi, fun i hi => getLsbD_walkcfg hi, rfl, rfl, rfl, rfl, rfl, hothers,
      fun a ha => ⟨(hhbm a).trans (if_pos ha), hkeys a ha⟩, fun a ha => (hhbm a).trans (if_neg (Bool.eq_false_iff.mp ha)),
      fun n hn => ?_⟩
    rw [hcores n hn]
    exact ⟨rfl, rfl, rfl, rfl, (BitVec.toNat_ofNat ..).trans (Nat.mod_eq_of_lt (by omega))⟩
  · rw [exec_partitionTeardown hp, teardown_of_dead hdead]
  · obtain ⟨hcores, hclusters, hslices, haccesses, hmsgs, hsessions, hhbm, hpart, hothers⟩ := teardown_leaves hlive
    refine ⟨teardown s p, exec_partitionTeardown hp s, ?_⟩
    rw [hpart, haccesses, hmsgs, hsessions]
    exact ⟨rfl, rfl, rfl, rfl, rfl, fun a ha => (hhbm a).trans (if_pos ha),
      fun a ha => (hhbm a).trans (if_neg (Bool.eq_false_iff.mp ha)), fun n hn => (hcores n).trans (leftCore_own hn), hclusters,
      fun a ha => by simpa using (List.mem_filter.mp ha).2, fun m hm => by simpa using (List.mem_filter.mp hm).2,
      fun hmem => by simpa using (List.mem_filter.mp hmem).2,
      fun x e he => hostbuf_leftSlice (x := sliceAt s x) (hslices x ▸ he), hothers⟩
  · obtain ⟨hcores, hdies, hparts⟩ := warmState_units s m
    refine ⟨warmState s m, rfl, rfl, fun p => ?_, rfl, rfl, rfl, rfl, rfl, rfl, hcores, rfl, rfl, fun d => ?_⟩
    · rw [hparts]
    · rw [hdies]
      exact ⟨rfl, rfl⟩
  · exact ⟨coldState s, rfl, rfl, rfl, rfl, rfl, rfl, rfl, rfl, rfl, rfl⟩
  · refine ⟨fun htdi => ?_, fun htdi => ?_, ?_⟩
    · exact (exec_tdispRequest hp hlive _).trans (congrArg _ (modPart_congr (by rw [htdi]; rfl)))
    · exact (exec_tdispRequest hp hlive _).trans (congrArg _ (modPart_congr (by rw [htdi]; rfl)))
    · exact exec_tdispRequest hp hlive _
  · intro q u noted
    refine ⟨fun hwaits => ?_, fun htakes hidle => ⟨fun hdown => ?_, fun hlive hrun _ => ?_⟩⟩
    · exact ⟨fun r => by rw [exec_launchRecord hp, windowReq_waits hwaits], fun r => by rw [exec_loadRecord hp, windowReq_waits hwaits],
        fun w => by rw [exec_releaseRecord hp, windowReq_waits hwaits]⟩
    · obtain ⟨hlaunch, hload, hrelease⟩ := windowDo_closed (windowOpen_of_down (s := u) hdown) s.accessId
      exact ⟨fun r => by rw [exec_launchRecord hp, windowReq_taken htakes hidle, hlaunch],
        fun r => by rw [exec_loadRecord hp, windowReq_taken htakes hidle, hload],
        fun w => by rw [exec_releaseRecord hp, windowReq_taken htakes hidle, hrelease]⟩
    · obtain ⟨hlaunch, hload, hrelease⟩ := windowDo_open (windowOpen_of_run (s := u) hlive hrun) s.accessId
      have hlaunchRec (r) : exec (.launchRecord p r) s = .next (launchRec (noted 0 (launchDwords r)) p r) := by
        rw [exec_launchRecord hp, windowReq_taken htakes hidle, hlaunch]; rfl
      have hloadRec (r) : exec (.loadRecord p r) s = .next (loadRec (noted 0x100 [r.obj, r.dbase]) p r) := by
        rw [exec_loadRecord hp, windowReq_taken htakes hidle, hload]; rfl
      have hreleaseRec (w) : exec (.releaseRecord p w) s = .next (releaseStopped (noted 0x400 [w]) p w) := by
        rw [exec_releaseRecord hp, windowReq_taken htakes hidle, hrelease]; rfl
      have hnoted (i l) : SameButWindow s (noted i l) := (SameButWindow.number s _).trans (.noteRecord u p i l)
      have hpart (i l) : partAt (noted i l) p = { q with winRec := putDwords q.winRec i l } := partAt_modPart_same ..
      refine ⟨fun r hgo => ?_, fun hq hidle => ⟨fun r hgo hbad => ?_, fun r k hgo hgood hfree hhalted _ => ?_⟩,
        fun hq => ⟨fun r hgo hany => ?_, fun r hgo hany halign => ?_, fun r v i x hgo hany hto => ?_⟩,
        fun n k hin hn hk hstopped => ?_, fun w hrunning => ?_⟩
      · rw [hlaunchRec, launchRec_of_no_go hgo]
      · refine ⟨_, hlaunchRec r, ?_⟩
        rw [launchRec_refuses hgo (by rw [hpart]; exact hq) (by rw [hpart]; exact hidle) hbad, partAt_modPart_same]
        exact ⟨rfl, rfl, rfl⟩
      · have hn := hnoted 0 (launchDwords r)
        obtain ⟨hown, cycle, c, hctx⟩ := launchRec_starts (s := noted 0 (launchDwords r)) (p := p) (k := k) hgo
          (by rw [hpart]; exact hq) (by rw [hpart]; exact hidle) hgood (by rw [hn.baseCamp, hn.freeCtx]; exact hfree)
          (by rw [hn.baseCamp, hn.coreAt]; exact hhalted)
        rw [hn.baseCamp] at hctx
        refine ⟨_, hlaunchRec r, ?_⟩
        rw [hown, hctx, hpart]
        exact ⟨rfl, rfl, rfl, rfl, rfl, rfl, rfl, by simp [rx_writeX]⟩
      · rw [hloadRec, loadRec_of_running hgo (by rw [hpart]; exact hq) (by rw [(hnoted _ _).anyRunning]; exact hany)]
      · refine ⟨_, hloadRec r, ?_⟩
        rw [loadRec_misaligned hgo (by rw [hpart]; exact hq) (by rw [(hnoted _ _).anyRunning]; exact hany) halign, partAt_endLoad,
          partAt_loadStands, hpart]
        exact ⟨rfl, rfl, rfl, rfl⟩
      · refine ⟨_, hloadRec r, ?_⟩
        rw [loadRec_loads (s := noted 0x100 [r.obj, r.dbase]) hgo (by rw [hpart]; exact hq) (by rw [(hnoted _ _).anyRunning]; exact hany) hto]
        obtain ⟨b, hown⟩ := endLoad_placed v p i x
        obtain ⟨-, hhbm, hslices, -⟩ := placeAll_fills v p x
        rw [hown]
        refine ⟨rfl, rfl, rfl, loadStat_placed i, rfl, hhbm, hslices, fun n c hc hin => ?_⟩
        obtain ⟨b, hcore⟩ := coreAt_placed hc hin x i
        obtain ⟨hfetched, hbodies⟩ := fillTcm_synced x n c
        rw [hcore]
        exact ⟨hfetched, hbodies, rfl, rfl⟩
      · intro w
        rw [hreleaseRec, releaseStopped_of_stopped (by rw [(hnoted _ _).inPart]; exact hin) hn hk
          (by rw [(hnoted _ _).ctxAt]; exact hstopped)]
      · rw [hreleaseRec, releaseStopped_of_running (by rw [(hnoted _ _).ctxAt]; exact hrunning)]
end Sys2Proof

/-! # Encodings (R82 to R95) -/

/-! ## The body formats (R86) -/

namespace Sys2Proof
section
variable {op b n w : Nat} {lit : Word}

@[simp] theorem toNat_fld (n lo w : Nat) : (fld n lo w).toNat = w / 2 ^ lo % 2 ^ n := BitVec.toNat_ofNat ..
theorem fld_eq_iff {n lo w : Nat} {x : BitVec n} : fld n lo w = x ↔ w / 2 ^ lo % 2 ^ n = x.toNat := by
  rw [← BitVec.toNat_inj, toNat_fld]

/-! One pair of lemmas for each format: a word whose low 30 bits are written by a format, above them what it may, names that
format's opcode and reads back as the fields written (`pack_reads`); the fields read from a word write its low 30 bits
(`pack_parse`). Where a map goes on by a field, the first says also where that field stands in the word. -/

theorem packR_reads {f : FmtR} (hw : w = packR op f + b * 2 ^ 30) (h : op < 128) (hn : w % 128 = n) :
    n = op ∧ parseR w = f ∧ w / 134217728 % 8 = f.func.toNat := by
  obtain ⟨func, w2, w1, rs2, rs1, rd⟩ := f
  simp only [parseR, packR, FmtR.mk.injEq, fld_eq_iff] at *
  omega
theorem packR_parseR (h : w % 128 = op) : packR op (parseR w) = w % 2 ^ 30 := by
  simp only [packR, parseR, toNat_fld]
  omega

theorem packI_reads {f : FmtI} (hw : w = packI op f + b * 2 ^ 30) (h : op < 128) (hn : w % 128 = n) (hl : f.lit = lit) :
    n = op ∧ parseI w lit = f ∧ w / 128 % 64 = f.rd.toNat := by
  subst hl
  obtain ⟨imm, w1, rs1, rd, lit⟩ := f
  simp only [parseI, packI, FmtI.mk.injEq, fld_eq_iff, and_true] at *
  omega
theorem packI_parseI (h : w % 128 = op) : packI op (parseI w lit) = w % 2 ^ 30 := by
  simp only [packI, parseI, toNat_fld]
  omega

theorem packU_reads {f : FmtU} (hw : w = packU op f + b * 2 ^ 30) (h : op < 128) (hn : w % 128 = n) (hl : f.lit = lit) :
    n = op ∧ parseU w lit = f := by
  subst hl
  obtain ⟨imm, rd, lit⟩ := f
  simp only [parseU, packU, FmtU.mk.injEq, fld_eq_iff, and_true] at *
  omega
theorem packU_parseU (h : w % 128 = op) : packU op (parseU w lit) = w % 2 ^ 30 := by
  simp only [packU, parseU, toNat_fld]
  omega

theorem packJ_reads {f : FmtJ} (hw : w = packJ op f + b * 2 ^ 30) (h : op < 128) (hn : w % 128 = n) (hl : f.lit = lit) :
    n = op ∧ parseJ w lit = f ∧ w / 128 % 64 = f.rd.toNat := by
  subst hl
  obtain ⟨off, rd, lit⟩ := f
  simp only [parseJ, packJ, FmtJ.mk.injEq, fld_eq_iff, and_true] at *
  omega
theorem packJ_parseJ (h : w % 128 = op) : packJ op (parseJ w lit) = w % 2 ^ 30 := by
  simp only [packJ, parseJ, toNat_fld]
  omega

theorem packB_reads {f : FmtB} (hw : w = packB op f + b * 2 ^ 30) (h : op < 128) (hn : w % 128 = n) (hl : f.lit = lit) :
    n = op ∧ parseB w lit = f := by
  subst hl
  obtain ⟨off, w2, w1, rs1, rs2, lit⟩ := f
  simp only [parseB, packB, FmtB.mk.injEq, fld_eq_iff, and_true] at *
  omega
theorem packB_parseB (h : w % 128 = op) : packB op (parseB w lit) = w % 2 ^ 30 := by
  simp only [packB, parseB, toNat_fld]
  omega

theorem packZ_reads {f : FmtZ} (hw : w = packZ op f + b * 2 ^ 30) (h : op < 128) (hn : w % 128 = n) (hl : f.lit = lit) :
    n = op ∧ parseZ w lit = f := by
  subst hl
  obtain ⟨off, ne, vec, w1, rs, lit⟩ := f
  simp only [parseZ, packZ, FmtZ.mk.injEq, fld_eq_iff, and_true] at *
  omega
theorem packZ_parseZ (h : w % 128 = op) : packZ op (parseZ w lit) = w % 2 ^ 30 := by
  simp only [packZ, parseZ, toNat_fld]
  omega

theorem packL_reads {f : FmtL} (hw : w = packL op f + b * 2 ^ 30) (h : op < 128) (hn : w % 128 = n) (hl : f.lit = lit) :
    n = op ∧ parseL w lit = f := by
  subst hl
  obtain ⟨off, sp, w1, rs1, rd, lit⟩ := f
  simp only [parseL, packL, FmtL.mk.injEq, fld_eq_iff, and_true] at *
  omega
theorem packL_parseL (h : w % 128 = op) : packL op (parseL w lit) = w % 2 ^ 30 := by
  simp only [packL, parseL, toNat_fld]
  omega

theorem packS_reads {f : FmtS} (hw : w = packS op f + b * 2 ^ 30) (h : op < 128) (hn : w % 128 = n) (hl : f.lit = lit) :
    n = op ∧ parseS w lit = f := by
  subst hl
  obtain ⟨off, sp, w2, w1, rs1, rs2, lit⟩ := f
  simp only [parseS, packS, FmtS.mk.injEq, fld_eq_iff, and_true] at *
  omega
theorem packS_parseS (h : w % 128 = op) : packS op (parseS w lit) = w % 2 ^ 30 := by
  simp only [packS, parseS, toNat_fld]
  omega

theorem packLA_reads {f : FmtLA} (hw : w = packLA op f + b * 2 ^ 30) (h : op < 128) (hn : w % 128 = n) (hl : f.lit = lit) :
    n = op ∧ parseLA w lit = f := by
  subst hl
  obtain ⟨off, scope, w1, rs1, rd, lit⟩ := f
  simp only [parseLA, packLA, FmtLA.mk.injEq, fld_eq_iff, and_true] at *
  omega
theorem packLA_parseLA (h : w % 128 = op) : packLA op (parseLA w lit) = w % 2 ^ 30 := by
  simp only [packLA, parseLA, toNat_fld]
  omega

theorem packSR_reads {f : FmtSR} (hw : w = packSR op f + b * 2 ^ 30) (h : op < 128) (hn : w % 128 = n) (hl : f.lit = lit) :
    n = op ∧ parseSR w lit = f := by
  subst hl
  obtain ⟨off, scope, w2, w1, rs1, rs2, lit⟩ := f
  simp only [parseSR, packSR, FmtSR.mk.injEq, fld_eq_iff, and_true] at *
  omega
theorem packSR_parseSR (h : w % 128 = op) : packSR op (parseSR w lit) = w % 2 ^ 30 := by
  simp only [packSR, parseSR, toNat_fld]
  omega

theorem packAM_reads {f : FmtAM} (hw : w = packAM op f + b * 2 ^ 30) (h : op < 128) (hn : w % 128 = n) (hl : f.lit = lit) :
    n = op ∧ parseAM w lit = f := by
  subst hl
  obtain ⟨scope, w2, w1, rs2, rs1, rd, lit⟩ := f
  simp only [parseAM, packAM, FmtAM.mk.injEq, fld_eq_iff, and_true] at *
  omega
theorem packAM_parseAM (h : w % 128 = op) : packAM op (parseAM w lit) = w % 2 ^ 30 := by
  simp only [packAM, parseAM, toNat_fld]
  omega

theorem packF_reads {f : FmtF} (hw : w = packF op f + b * 2 ^ 30) (h : op < 128) (hn : w % 128 = n) :
    n = op ∧ parseF w = f := by
  obtain ⟨zero, pt, scope, mask⟩ := f
  simp only [parseF, packF, FmtF.mk.injEq, fld_eq_iff] at *
  omega
theorem packF_parseF (h : w % 128 = op) : packF op (parseF w) = w % 2 ^ 30 := by
  simp only [packF, parseF, toNat_fld]
  omega

theorem packCR_reads {f : FmtCR} (hw : w = packCR op f + b * 2 ^ 30) (h : op < 128) (hn : w % 128 = n) :
    n = op ∧ parseCR w = f ∧ w / 67108864 % 2 = f.sc.toNat := by
  obtain ⟨zero, sc, w, crn, x⟩ := f
  simp only [parseCR, packCR, FmtCR.mk.injEq, fld_eq_iff] at *
  omega
theorem packCR_parseCR (h : w % 128 = op) : packCR op (parseCR w) = w % 2 ^ 30 := by
  simp only [packCR, parseCR, toNat_fld]
  omega

theorem packC_reads {f : FmtC} (hw : w = packC op f + b * 2 ^ 30) (h : op < 128) (hn : w % 128 = n) (hl : f.lit = lit) :
    n = op ∧ parseC w lit = f := by
  subst hl
  obtain ⟨h, sp, rlen, rsrc, rdst, lit⟩ := f
  simp only [parseC, packC, FmtC.mk.injEq, fld_eq_iff, and_true] at *
  omega
theorem packC_parseC (h : w % 128 = op) : packC op (parseC w lit) = w % 2 ^ 30 := by
  simp only [packC, parseC, toNat_fld]
  omega

theorem packT_reads {f : FmtT} (hw : w = packT op f + b * 2 ^ 30) (h : op < 128) (hn : w % 128 = n) :
    n = op ∧ parseT w = f := by
  obtain ⟨zero, body, rb, rl⟩ := f
  simp only [parseT, packT, FmtT.mk.injEq, fld_eq_iff] at *
  omega
theorem packT_parseT (h : w % 128 = op) : packT op (parseT w) = w % 2 ^ 30 := by
  simp only [packT, parseT, toNat_fld]
  omega

theorem packH_reads {f : FmtH} (hw : w = packH op f + b * 2 ^ 30) (h : op < 128) (hn : w % 128 = n) (hl : f.lit = lit) :
    n = op ∧ parseH w lit = f := by
  subst hl
  obtain ⟨zero, rt, rb, rl, lit⟩ := f
  simp only [parseH, packH, FmtH.mk.injEq, fld_eq_iff, and_true] at *
  omega
theorem packH_parseH (h : w % 128 = op) : packH op (parseH w lit) = w % 2 ^ 30 := by
  simp only [packH, parseH, toNat_fld]
  omega

theorem packTL_reads {f : FmtTL} (hw : w = packTL op f + b * 2 ^ 30) (h : op < 128) (hn : w % 128 = n) (hl : f.lit = lit) :
    n = op ∧ parseTL w lit = f := by
  subst hl
  obtain ⟨zero, group, rap, lit⟩ := f
  simp only [parseTL, packTL, FmtTL.mk.injEq, fld_eq_iff, and_true] at *
  omega
theorem packTL_parseTL (h : w % 128 = op) : packTL op (parseTL w lit) = w % 2 ^ 30 := by
  simp only [packTL, parseTL, toNat_fld]
  omega

theorem packG_reads {f : FmtG} (hw : w = packG op f + b * 2 ^ 30) (h : op < 128) (hn : w % 128 = n) :
    n = op ∧ parseG w = f ∧ w / 134217728 % 8 = f.func.toNat := by
  obtain ⟨func, zeroA, group, zeroB⟩ := f
  simp only [parseG, packG, FmtG.mk.injEq, fld_eq_iff] at *
  omega
theorem packG_parseG (h : w % 128 = op) : packG op (parseG w) = w % 2 ^ 30 := by
  simp only [packG, parseG, toNat_fld]
  omega

theorem packQ_reads {f : FmtQ} (hw : w = packQ op f + b * 2 ^ 30) (h : op < 128) (hn : w % 128 = n) :
    n = op ∧ parseQ w = f ∧ w / 134217728 % 8 = f.func.toNat := by
  obtain ⟨func, zero, sem, rd⟩ := f
  simp only [parseQ, packQ, FmtQ.mk.injEq, fld_eq_iff] at *
  omega
theorem packQ_parseQ (h : w % 128 = op) : packQ op (parseQ w) = w % 2 ^ 30 := by
  simp only [packQ, parseQ, toNat_fld]
  omega

theorem packSB_reads {f : FmtSB} (hw : w = packSB op f + b * 2 ^ 30) (h : op < 128) (hn : w % 128 = n) :
    n = op ∧ parseSB w = f := by
  obtain ⟨zero, eng, rs1, vd⟩ := f
  simp only [parseSB, packSB, FmtSB.mk.injEq, fld_eq_iff] at *
  omega
theorem packSB_parseSB (h : w % 128 = op) : packSB op (parseSB w) = w % 2 ^ 30 := by
  simp only [packSB, parseSB, toNat_fld]
  omega

end
end Sys2Proof

/-! ## The opcode maps (R92, R93) -/

namespace Sys2Proof
open Machine
section
variable {b w : Nat} {i : Instr}

/-- An instruction of the C class (R82): it has an encoding, and none of the A class. -/
def isC (i : Instr) : Bool := hasWord i && !isA i

theorem isC_iff : isC i = true ↔ hasWord i = true ∧ isA i = false := by simp [isC]

/-- The C-class map gives back the instruction whose body it is given, whatever stands above the body (R92). -/
theorem buildC_encodeBody (hC : isC i = true) (hfn : funcOk i = true) (hrsvd : rsvd i = false) (hshape : shapeOk i = true) :
    buildC (encodeBody i + b * 2 ^ 30) ((literal i).getD 0) = some i := by
  obtain ⟨w, hw⟩ : ∃ w, w = encodeBody i + b * 2 ^ 30 := ⟨_, rfl⟩
  rw [← hw]
  unfold buildC
  generalize hn : w % 128 = n
  generalize hm : w / 134217728 % 8 = m
  generalize hl : (literal i).getD 0 = lit
  cases i with
  | bcEq f | bcNe f | bcLt f | bcGe f | bcLtu f | bcGeu f =>
    obtain ⟨rfl, rfl⟩ := packB_reads hw (by decide) hn hl
    rfl
  | bcz f | loop f =>
    obtain ⟨rfl, rfl⟩ := packZ_reads hw (by decide) hn hl
    rfl
  | crrd f | crwr f =>
    obtain ⟨rfl, rfl, -⟩ := packCR_reads hw (by decide) hn
    rfl
  | waitf f | synci f | ldvx f | stvx f | pref f | invr f | wbr f | sigclr f | regset f | regclr f | retype f
  | wsclr f | publ f | send f | sendg f | unrope f | wfa f | mgath f | mldb f | npcfg f | npred f | ncheck f | tret f
  | upcret f | ctxsave f | ctxload f | xinv f | replayall f =>
    obtain ⟨rfl, rfl, -⟩ := packR_reads hw (by decide) hn
    rfl
  | ldb f | ldbu f | ldh f | ldhu f | ldw f | ldwu f | ldd f | ldv f =>
    obtain ⟨rfl, rfl⟩ := packL_reads hw (by decide) hn hl
    rfl
  | stb f | sth f | stw f | std f | stv f =>
    obtain ⟨rfl, rfl⟩ := packS_reads hw (by decide) hn hl
    rfl
  | ldaq f =>
    obtain ⟨rfl, rfl⟩ := packLA_reads hw (by decide) hn hl
    rfl
  | strl f =>
    obtain ⟨rfl, rfl⟩ := packSR_reads hw (by decide) hn hl
    rfl
  | amoadd f | amoand f | amoor f | amoxor f | amomin f | amomax f | amominu f | amomaxu f | amoswp f | amocas f
  | amofadd f | amoaddt f =>
    obtain ⟨rfl, rfl⟩ := packAM_reads hw (by decide) hn hl
    rfl
  | fence f =>
    obtain ⟨rfl, rfl⟩ := packF_reads hw (by decide) hn
    rfl
  | sbind f | sunbind f =>
    obtain ⟨rfl, rfl⟩ := packSB_reads hw (by decide) hn
    rfl
  | cpy f | cpy2 f | cpym f | cpyw f =>
    obtain ⟨rfl, rfl⟩ := packC_reads hw (by decide) hn hl
    rfl
  | cpyq f =>
    obtain ⟨rfl, rfl⟩ := packC_reads hw (by decide) hn ((eq_of_beq hshape).trans hl)
    rfl
  | spawn f =>
    obtain ⟨rfl, rfl⟩ := packT_reads hw (by decide) hn
    rfl
  | spawnh f =>
    obtain ⟨rfl, rfl⟩ := packH_reads hw (by decide) hn hl
    rfl
  | treel f =>
    obtain ⟨rfl, rfl⟩ := packTL_reads hw (by decide) hn hl
    rfl
  | prio f | rope f | ropeck f | belay f | trap f | dbrk f =>
    obtain ⟨rfl, rfl⟩ := packU_reads hw (by decide) hn ((eq_of_beq hshape).trans hl)
    rfl
  | take f | steal f | stealAny f | tend f | tabort f | qdepth f | qdepthIn f | unbelay f | mwait f | mstat f
  | mmul f | mmuls f | mscale f | mstore f | mclr f =>
    obtain ⟨rfl, rfl, hfunc⟩ := packR_reads hw (by decide) hn
    rw [eq_of_beq hfn, hm] at hfunc
    subst hfunc
    rfl
  | gjoin f | gleave f | gtag f | gbar f | garrive f | gwait f =>
    obtain ⟨rfl, rfl, hfunc⟩ := packG_reads hw (by decide) hn
    rw [eq_of_beq hfn, hm] at hfunc
    subst hfunc
    rfl
  | semp f | semv f | semtry f =>
    obtain ⟨rfl, rfl, hfunc⟩ := packQ_reads hw (by decide) hn
    rw [eq_of_beq hfn, hm] at hfunc
    subst hfunc
    rfl
  | br f =>
    obtain ⟨rfl, rfl, hrd⟩ := packJ_reads hw (by decide) hn hl
    have hzero := (Bool.or_eq_false_iff.mp hrsvd).1
    exact if_pos (by simpa [hrd, ← BitVec.toNat_inj] using hzero)
  | brl f =>
    obtain ⟨rfl, rfl, hrd⟩ := packJ_reads hw (by decide) hn hl
    have hne : (parseJ w lit).rd ≠ 0 := bne_iff_ne.mp hshape
    exact if_neg (by simpa [hrd, ← BitVec.toNat_inj] using hne)
  | jr f =>
    obtain ⟨rfl, rfl, hrd⟩ := packI_reads hw (by decide) hn hl
    have hzero := (Bool.or_eq_false_iff.mp hrsvd).1
    exact if_pos (by simpa [hrd, ← BitVec.toNat_inj] using hzero)
  | jrl f =>
    obtain ⟨rfl, rfl, hrd⟩ := packI_reads hw (by decide) hn hl
    have hne : (parseI w lit).rd ≠ 0 := bne_iff_ne.mp hshape
    exact if_neg (by simpa [hrd, ← BitVec.toNat_inj] using hne)
  | crsetb f =>
    obtain ⟨rfl, rfl, hsc⟩ := packCR_reads hw (by decide) hn
    exact if_pos (by rw [hsc, eq_of_beq hshape]; rfl)
  | crclrb f =>
    obtain ⟨rfl, rfl, hsc⟩ := packCR_reads hw (by decide) hn
    exact if_neg (by rw [hsc, eq_of_beq hshape]; decide)
  | _ => exact Bool.noConfusion hC

/-- The same for the A-class map, under the governing predicate (R93). -/
theorem buildA_encodeBody (hA : isA i = true) (hfn : funcOk i = true) (hshape : shapeOk i = true) :
    buildA (encodeBody i + b * 2 ^ 30) ((literal i).getD 0) (gpOf i) = some i := by
  obtain ⟨w, hw⟩ : ∃ w, w = encodeBody i + b * 2 ^ 30 := ⟨_, rfl⟩
  rw [← hw]
  unfold buildA
  generalize hn : w % 128 = n
  generalize hm : w / 134217728 % 8 = m
  generalize hl : (literal i).getD 0 = lit
  cases i with
  | addsh gp f | sel gp f | fadd gp f | fsub gp f | fmul gp f | fdiv gp f | fsqrt gp f | fma gp f | fmin gp f
  | fmax gp f | fcmp gp f | fclass gp f | fcvt gp f | vadd gp f | vsub gp f | vmul gp f | vfma gp f | vmac gp f
  | vmin gp f | vmax gp f | vabs gp f | vneg gp f | vand gp f | vor gp f | vxor gp f | vcmp gp f | vsel gp f
  | vbcast gp f | vext gp f | vred gp f | vperm gp f | vcvt gp f | vexp2 gp f | vrcp gp f | vrsq gp f | vlog2 gp f
  | vnzc gp f | vbmap gp f | vpackb gp f | vnar gp f | aclr gp f | pand gp f | por gp f | pxor gp f | pnot gp f
  | pcnt gp f | pfirst gp f | pset gp f =>
    obtain ⟨rfl, rfl, -⟩ := packR_reads hw (by decide) hn
    rfl
  | addi gp f | andi gp f | ori gp f | xori gp f | slti gp f | sltiu gp f =>
    obtain ⟨rfl, rfl, -⟩ := packI_reads hw (by decide) hn hl
    rfl
  | slli gp f | srli gp f | srai gp f =>
    obtain ⟨rfl, rfl, -⟩ := packI_reads hw (by decide) hn ((eq_of_beq hshape).trans hl)
    rfl
  | li gp f | lih gp f =>
    obtain ⟨rfl, rfl⟩ := packU_reads hw (by decide) hn hl
    rfl
  | add gp f | sub gp f | and gp f | or gp f | xor gp f | sll gp f | srl gp f | sra gp f | slt gp f | sltu gp f
  | min gp f | max gp f | minu gp f | maxu gp f | mul gp f | mulh gp f | mulhu gp f | div gp f | divu gp f | rem gp f
  | remu gp f | clz gp f | ctz gp f | popc gp f | bext gp f | bdep gp f | vsll gp f | vsllImm gp f | vsrl gp f
  | vsrlImm gp f | vsra gp f | vsraImm gp f | vidx gp f | vidxI32 gp f =>
    obtain ⟨rfl, rfl, hfunc⟩ := packR_reads hw (by decide) hn
    rw [eq_of_beq hfn, hm] at hfunc
    subst hfunc
    rfl
  | vunpkbZx8 gp f =>
    obtain ⟨rfl, rfl, hfunc⟩ := packR_reads hw (by decide) hn
    exact if_pos (by rw [← hm, hfunc, eq_of_beq hfn]; rfl)
  | vunpkb gp f =>
    obtain ⟨rfl, rfl, hfunc⟩ := packR_reads hw (by decide) hn
    have hlt : (parseR w).func.toNat < 4 := of_decide_eq_true hfn
    exact if_neg (by omega)
  | amovToAcc gp f =>
    obtain ⟨rfl, rfl, hfunc⟩ := packR_reads hw (by decide) hn
    have hlt : (parseR w).func.toNat < 4 := of_decide_eq_true hfn
    exact if_pos (by omega)
  | amovFromAcc gp f =>
    obtain ⟨rfl, rfl, hfunc⟩ := packR_reads hw (by decide) hn
    have hle : 6 ≤ (parseR w).func.toNat := of_decide_eq_true hfn
    exact if_neg (by omega)
  | _ => exact Bool.noConfusion hA

theorem parseJ_rd_ne_zero {lit : Word} (h : ¬ w / 128 % 64 = 0) : ((parseJ w lit).rd != 0) = true := by
  simpa [parseJ, fld_eq_iff] using h
theorem parseI_rd_ne_zero {lit : Word} (h : ¬ w / 128 % 64 = 0) : ((parseI w lit).rd != 0) = true := by
  simpa [parseI, fld_eq_iff] using h
theorem parseCR_sc_set (h : w / 67108864 % 2 = 1) : ((parseCR w).sc == 1) = true := by simpa [parseCR, fld_eq_iff] using h
theorem parseCR_sc_clear (h : ¬ w / 67108864 % 2 = 1) : ((parseCR w).sc == 0) = true := by
  simpa [parseCR, fld_eq_iff] using h

section
variable {lit : Word} (h : buildC w lit = some i)
include h

/-- The instruction holds the word's body, field for field (R86). -/
theorem buildC_body : encodeBody i = w % 2 ^ 30 := by
  unfold encodeBody
  unfold buildC at h
  split at h
  all_goals try split at h
  all_goals cases h
  all_goals simp only [*, packR_parseR, packI_parseI, packU_parseU, packJ_parseJ, packB_parseB, packZ_parseZ, packL_parseL,
    packS_parseS, packLA_parseLA, packSR_parseSR, packAM_parseAM, packF_parseF, packCR_parseCR, packC_parseC, packT_parseT,
    packH_parseH, packTL_parseTL, packG_parseG, packQ_parseQ, packSB_parseSB]

/-- What the C-class map names is of that class, no event, and holds the literal if it takes one. -/
theorem buildC_class : isC i = true ∧ eventOk i = true ∧ (literal i).getD lit = lit := by
  unfold buildC at h
  split at h
  all_goals try split at h
  all_goals cases h
  all_goals exact ⟨rfl, rfl, rfl⟩

/-- The map chooses between the instructions of one opcode as their shapes say (R86); a literal not taken is 0. -/
theorem buildC_shape (hlit : literal i = none → lit = 0) : shapeOk i = true := by
  unfold shapeOk
  unfold literal at hlit
  unfold buildC at h
  split at h
  all_goals try split at h
  all_goals cases h
  all_goals simp only [parseJ_rd_ne_zero, parseI_rd_ne_zero, parseCR_sc_set, parseCR_sc_clear, parseU, parseC,
    beq_self_eq_true, not_false_eq_true, *]

end

section
variable {lit : Word} {gp : BitVec 2} (h : buildA w lit gp = some i)
include h

/-- The instruction holds the word's body, field for field (R86). -/
theorem buildA_body : encodeBody i = w % 2 ^ 30 := by
  unfold encodeBody
  unfold buildA at h
  split at h
  all_goals try split at h
  all_goals cases h
  all_goals simp only [*, packR_parseR, packI_parseI, packU_parseU]

/-- What the A-class map names stands under the governing predicate, is no event, and holds the literal if it takes one. -/
theorem buildA_operands : gpOf i = gp ∧ eventOk i = true ∧ (literal i).getD lit = lit := by
  unfold buildA at h
  split at h
  all_goals try split at h
  all_goals cases h
  all_goals exact ⟨rfl, rfl, rfl⟩

theorem buildA_shape (hlit : literal i = none → lit = 0) : shapeOk i = true := by
  unfold shapeOk
  unfold literal at hlit
  unfold buildA at h
  split at h
  all_goals try split at h
  all_goals cases h
  all_goals simp only [parseI, beq_self_eq_true, *]

end

end
end Sys2Proof

/-! ## The checks after the opcode, and bundles (R82, R85, R90) -/

namespace Sys2Proof
open Machine
section
variable {home lone : Bool} {b w : Nat} {lit : Word} {gp : BitVec 2} {i j : Instr}

theorem wellFormed_iff : wellFormed home i = true ↔ funcOk i = true ∧ (home && farOnly i) = false ∧ rsvd i = false ∧
    operandBad home i = false ∧ literalHigh i = false ∧ shapeOk i = true ∧ eventOk i = true := by
  simp only [wellFormed, Bool.and_eq_true, Bool.not_eq_true', and_assoc]

/-- LONGW's two faults (R90): a long instruction in a pair, and a literal that the instruction does not take. -/
theorem longw_eq_false : ((literalOnly i && !lone) || (lit != 0 && (literal i).isNone)) = false ↔
    (literalOnly i = true → lone = true) ∧ (literal i = none → lit = 0) := by
  simp only [Bool.or_eq_false_iff, Bool.and_eq_false_imp, Bool.not_eq_false', bne_iff_ne, Option.isNone_eq_false_iff,
    Option.isSome_iff_ne_none]
  exact and_congr_right' not_imp_not

/-- The checks of R90 that let an instruction through. -/
theorem checkInstr_eq_ok : checkInstr home lone lit i = .ok i ↔ funcOk i = true ∧ (home && farOnly i) = false ∧
    (rsvd i || literalHigh i) = false ∧ operandBad home i = false ∧
    ((literalOnly i && !lone) || (lit != 0 && (literal i).isNone)) = false := by
  unfold checkInstr
  split_ifs <;> grind

theorem checkInstr_of_wellFormed (h : wellFormed home i = true) (hlone : literalOnly i = true → lone = true)
    (hlit : literal i = none → lit = 0) : checkInstr home lone lit i = .ok i := by
  obtain ⟨hfn, hfar, hrsvd, hop, hhigh, -, -⟩ := wellFormed_iff.mp h
  exact checkInstr_eq_ok.mpr ⟨hfn, hfar, by rw [hrsvd, hhigh]; rfl, hop, longw_eq_false.mpr ⟨hlone, hlit⟩⟩

theorem getD_literal_of_none (h : literal i = none) : (literal i).getD 0 = 0 := by rw [h]; rfl

theorem decodeC_encodeBody (h : wellFormed home i = true) (hC : isC i = true) (hlone : literalOnly i = true → lone = true) :
    decodeC home lone (encodeBody i + b * 2 ^ 30) ((literal i).getD 0) = .ok i := by
  obtain ⟨hfn, -, hrsvd, -, -, hshape, -⟩ := wellFormed_iff.mp h
  rw [decodeC, buildC_encodeBody hC hfn hrsvd hshape]
  exact checkInstr_of_wellFormed h hlone getD_literal_of_none

theorem decodeA_encodeBody (h : wellFormed home i = true) (hA : isA i = true) (hlone : literalOnly i = true → lone = true) :
    decodeA home lone (encodeBody i + b * 2 ^ 30) ((literal i).getD 0) (gpOf i) = .ok i := by
  obtain ⟨hfn, -, -, -, -, hshape, -⟩ := wellFormed_iff.mp h
  rw [decodeA, buildA_encodeBody hA hfn hshape]
  exact checkInstr_of_wellFormed h hlone getD_literal_of_none

theorem encodeBody_lt_of_isC (h : wellFormed home i = true) (hC : isC i = true) : encodeBody i < 2 ^ 30 := by
  obtain ⟨hfn, -, hrsvd, -, -, hshape, -⟩ := wellFormed_iff.mp h
  have := buildC_body (buildC_encodeBody (b := 0) hC hfn hrsvd hshape)
  omega

theorem encodeBody_lt_of_isA (h : wellFormed home i = true) (hA : isA i = true) : encodeBody i < 2 ^ 30 := by
  obtain ⟨hfn, -, -, -, -, hshape, -⟩ := wellFormed_iff.mp h
  have := buildA_body (buildA_encodeBody (b := 0) hA hfn hshape)
  omega

theorem wellFormed_of_checkInstr (h : checkInstr home lone lit i = .ok j)
    (hshape : (literal i = none → lit = 0) → shapeOk i = true) (hevent : eventOk i = true)
    (hlit : (literal i).getD lit = lit) :
    i = j ∧ wellFormed home j = true ∧ (literal j).getD 0 = lit := by
  obtain rfl := eq_of_checkInstr h
  obtain ⟨hfn, hfar, hzero, hop, hlong⟩ := checkInstr_eq_ok.mp h
  obtain ⟨hrsvd, hhigh⟩ := Bool.or_eq_false_iff.mp hzero
  have hnone := (longw_eq_false.mp hlong).2
  refine ⟨rfl, wellFormed_iff.mpr ⟨hfn, hfar, hrsvd, hop, hhigh, hshape hnone, hevent⟩, ?_⟩
  cases hl : literal i with
  | none => exact (hnone hl).symm
  | some l => rw [hl] at hlit; exact hlit

theorem of_decodeC (h : decodeC home lone w lit = .ok i) :
    wellFormed home i = true ∧ isC i = true ∧ encodeBody i = w % 2 ^ 30 ∧ (literal i).getD 0 = lit := by
  unfold decodeC at h
  split at h
  · cases h
  · next j hj =>
    obtain ⟨hC, hevent, hlit⟩ := buildC_class hj
    obtain ⟨rfl, hwf, hlit⟩ := wellFormed_of_checkInstr h (buildC_shape hj) hevent hlit
    exact ⟨hwf, hC, buildC_body hj, hlit⟩

theorem of_decodeA (h : decodeA home lone w lit gp = .ok i) :
    wellFormed home i = true ∧ isA i = true ∧ gpOf i = gp ∧ encodeBody i = w % 2 ^ 30 ∧ (literal i).getD 0 = lit := by
  unfold decodeA at h
  split at h
  · cases h
  · next j hj =>
    obtain ⟨hgp, hevent, hlit⟩ := buildA_operands hj
    obtain ⟨rfl, hwf, hlit⟩ := wellFormed_of_checkInstr h (buildA_shape hj) hevent hlit
    exact ⟨hwf, isA_of_buildA hj, hgp, buildA_body hj, hlit⟩

theorem literalOnly_of_isA (h : isA i = true) : literalOnly i = false := by
  unfold literalOnly
  split
  · exact Bool.noConfusion h
  · exact Bool.noConfusion h
  · rfl

theorem encode_fst_of_isC (h : isC i = true) : (encode i).1 = encodeBody i + 2 * 2 ^ 30 := by
  simp only [encode, (isC_iff.mp h).2, Bool.false_eq_true, if_false]; omega
theorem encode_fst_of_isA (h : isA i = true) : (encode i).1 = encodeBody i + 3 * 2 ^ 30 := by
  simp only [encode, h, if_true]; omega

theorem ofNat_encode_snd (i : Instr) : BitVec.ofNat 32 (encode i).2 = (literal i).getD 0 := BitVec.ofNat_toNat ..

theorem encodePair_snd (c a : Instr) : (encodePair c a).2 = encodeBody a + (gpOf a).toNat * 2 ^ 30 := by
  simp only [encodePair]; omega
theorem fld_gpOf {body : Nat} (h : body < 2 ^ 30) : fld 2 30 (body + gp.toNat * 2 ^ 30) = gp := fld_eq_iff.mpr (by omega)

theorem decodeBundle_pair {w0 w1 : Nat} {c a : Instr} (h : w0 < 2 ^ 30) (hc : decodeC home false w0 0 = .ok c)
    (ha : decodeA home false w1 0 (fld 2 30 w1) = .ok a) : decodeBundle home w0 w1 = .ok (.pair c a) := by
  rw [decodeBundle, if_pos (by omega), if_neg (by omega)]
  simp only [hc, ha]

theorem lone_of_decodeBundle {w0 w1 : Nat} (h : decodeBundle home w0 w1 = .ok (.lone i)) :
    w0 / 2 ^ 31 % 2 = 1 ∧
      (w0 / 2 ^ 30 % 2 = 0 ∧ decodeC home true w0 (BitVec.ofNat 32 w1) = .ok i ∨
        w0 / 2 ^ 30 % 2 = 1 ∧ decodeA home true w0 (BitVec.ofNat 32 w1) 0 = .ok i) := by
  unfold decodeBundle at h
  split_ifs at h with h31 h30 h30
  · split at h
    · cases h
    · split at h
      · cases h
      · cases h
  · split at h
    · cases h
    · next hdec =>
      obtain rfl := Bundle.lone.inj (Except.ok.inj h)
      exact ⟨by omega, .inl ⟨h30, hdec⟩⟩
  · split at h
    · cases h
    · next hdec =>
      obtain rfl := Bundle.lone.inj (Except.ok.inj h)
      exact ⟨by omega, .inr ⟨by omega, hdec⟩⟩

theorem pair_of_decodeBundle {w0 w1 : Nat} {c a : Instr} (h : decodeBundle home w0 w1 = .ok (.pair c a)) :
    w0 / 2 ^ 30 % 4 = 0 ∧ decodeC home false w0 0 = .ok c ∧ decodeA home false w1 0 (fld 2 30 w1) = .ok a := by
  unfold decodeBundle at h
  split_ifs at h with h31 h30 h30
  · split at h
    · cases h
    · next hc =>
      split at h
      · cases h
      · next ha =>
        obtain ⟨rfl, rfl⟩ := Bundle.pair.inj (Except.ok.inj h)
        exact ⟨by omega, hc, ha⟩
  · split at h
    · cases h
    · cases h
  · split at h
    · cases h
    · cases h

end

/-- Settles O1: the body stands below LONE and CLASS, its map gives the instruction back (`decodeC_encodeBody`,
`decodeA_encodeBody`), and the literal is word 1. -/
theorem loneBundleDecodesToItself : Obligations.LoneBundleDecodesToItself := by
  intro home i hwf hword hgp
  have hone : literalOnly i = true → true = true := fun _ => rfl
  cases hA : isA i with
  | false =>
    have hC := isC_iff.mpr ⟨hword, hA⟩
    have hlt := encodeBody_lt_of_isC hwf hC
    rw [decodeBundle, encode_fst_of_isC hC, ofNat_encode_snd, if_neg (by omega), if_pos (by omega),
      decodeC_encodeBody hwf hC hone]
  | true =>
    have hlt := encodeBody_lt_of_isA hwf hA
    rw [decodeBundle, encode_fst_of_isA hA, ofNat_encode_snd, if_neg (by omega), if_neg (by omega), ← hgp,
      decodeA_encodeBody hwf hA hone]

/-- Settles O2: the C-class body is word 0, the A-class body stands below its governing predicate in word 1, and each map
gives its instruction back. -/
theorem pairedBundleDecodesToItself : Obligations.PairedBundleDecodesToItself := by
  intro home c a hwc hwa hword hcC haA honly hlc hla
  have hC := isC_iff.mpr ⟨hword, hcC⟩
  have hdecC := decodeC_encodeBody (b := 0) (lone := false) hwc hC (by simp [honly])
  have hdecA := decodeA_encodeBody (b := (gpOf a).toNat) (lone := false) hwa haA (by simp [literalOnly_of_isA haA])
  rw [hlc, zero_mul, add_zero] at hdecC
  rw [hla] at hdecA
  rw [encodePair_snd]
  exact decodeBundle_pair (encodeBody_lt_of_isC hwc hC) hdecC
    (by rw [fld_gpOf (encodeBody_lt_of_isA hwa haA)]; exact hdecA)

/-- Settles O3: what the maps and the checks let through is well-formed and holds the body it was read from (`of_decodeC`,
`of_decodeA`), so that the encoder writes the words again. -/
theorem decodedBundleIsLegalAndUnique : Obligations.DecodedBundleIsLegalAndUnique := by
  intro home w0 w1 h0 h1
  refine ⟨fun i h => ?_, fun c a h => ?_⟩
  · obtain ⟨h31, ⟨h30, hdec⟩ | ⟨h30, hdec⟩⟩ := lone_of_decodeBundle h
    · obtain ⟨hwf, hC, hbody, hlit⟩ := of_decodeC hdec
      refine ⟨hwf, Prod.ext ?_ ?_⟩
      · simp only [encode, (isC_iff.mp hC).2, hbody, Bool.false_eq_true, if_false]; omega
      · simp only [encode, hlit, BitVec.toNat_ofNat]; omega
    · obtain ⟨hwf, hA, -, hbody, hlit⟩ := of_decodeA hdec
      refine ⟨hwf, Prod.ext ?_ ?_⟩
      · simp only [encode, hA, hbody, if_true]; omega
      · simp only [encode, hlit, BitVec.toNat_ofNat]; omega
  · obtain ⟨htop, hdecC, hdecA⟩ := pair_of_decodeBundle h
    obtain ⟨hwc, hC, hbodyC, -⟩ := of_decodeC hdecC
    obtain ⟨hwa, hA, hgp, hbodyA, -⟩ := of_decodeA hdecA
    refine ⟨hwc, hwa, (isC_iff.mp hC).2, hA, Prod.ext ?_ ?_⟩
    · simp only [encodePair, hbodyC]; omega
    · simp only [encodePair, hgp, hbodyA, toNat_fld]; omega

/-- Settles O4, by decoding each word. -/
theorem writtenWordsDecode : Obligations.WrittenWordsDecode := by
  unfold Obligations.WrittenWordsDecode
  decide +kernel

end Sys2Proof

/-! # Fetch traps (R91, R94, R97) -/

namespace Sys2Proof.Machine
section
variable {s : State}

/-- A context that is no second fetches nothing at or above the boundary. -/
theorem fetchNext_of_overlay (hsecond : isSecond (cur s) = false) (hpc : boundary s s.core ≤ (cur s).pc) :
    fetchNext s = (.overlay, s) := by
  unfold fetchNext
  split
  · next hrope _ => simp [isSecond, hrope] at hsecond
  · exact if_pos hpc
theorem bundleOf_ill {d : Nat} (hd : d < 2 ^ 64) {home : Bool} {e : IllInfo}
    (h : decodeBundle home (d % 2 ^ 32) (d / 2 ^ 32) = .error e) : bundleOf home (dn d) = .ill e := by
  simp only [bundleOf, (words_of_dword hd).1, (words_of_dword hd).2, h]
/-- What is done for a context depends on the state in which it is done alone. -/
theorem within_congr {n k : Nat} {f g : State → State}
    (h : f { s with core := n, ctx := k, latch := none, tail := none } =
      g { s with core := n, ctx := k, latch := none, tail := none }) :
    within s n k f = within s n k g := by
  unfold within
  rw [h]

end
end Sys2Proof.Machine

namespace Sys2Proof
open Machine

/-- Settles O7: at or above the boundary the fetch is an overlay (`fetchNext_of_overlay`); below it the dword that the TCM
holds decodes to no bundle (`bundleOf_ill`). -/
theorem fetchTrapsAreTaken : Obligations.FetchTrapsAreTaken := by
  intro s n k hctx u hattempts hsecond
  refine ⟨fun hpc => ?_, fun e hpc hnew hdecode => ?_⟩
  · show execOverlayFetch n k s = _
    rw [execOverlayFetch, if_neg (by rw [hctx]; decide)]
    refine congrArg _ (within_congr ?_)
    have hfetch : fetchNext u = (.overlay, u) := fetchNext_of_overlay hsecond hpc
    exact if_pos (by rw [hattempts, hfetch]; rfl)
  · show execUnassignedBundle n k s = _
    rw [execUnassignedBundle, if_neg (by rw [hctx]; decide)]
    refine congrArg _ (within_congr ?_)
    have hfetch : fetchNext u = (.ill e, noteFetch u n (cur u).pc) :=
      (fetchNext_of_new hsecond hpc hnew).trans (congrArg (·, _) (bundleOf_ill (tcmDword_lt u n (cur u).pc) hdecode))
    refine (if_pos hattempts).trans ?_
    rw [hfetch]
    show takeTrapAt _ n k (illTrap (cur (noteFetch u n (cur u).pc)).pc e) = _
    rw [cur_noteFetch, illTrap, Nat.mul_comm]
    rfl

end Sys2Proof

/-! # Empty sources (R88 to R90) -/

namespace Sys2Proof.Machine
section
variable {s : State} {pc : Nat} {r : Regs}

/-! ### No entry lays down EMPTY -/

/-- A check does not trap EMPTY. -/
structure NoEmpty (o : Option TrapReq) : Prop where
  cause : ∀ t, o = some t → t.cause ≠ 2

@[simp] theorem noEmpty_none : NoEmpty none := ⟨nofun⟩
@[simp] theorem noEmpty_illState (v : Dword) : NoEmpty (illState pc v) := ⟨by rintro _ ⟨⟩; exact (by decide : (1 : Nat) ≠ 2)⟩
@[simp] theorem noEmpty_trapAt {c : Nat} (h : c ≠ 2) (v : Dword) : NoEmpty (trapAt pc c v) := ⟨by rintro _ ⟨⟩; exact h⟩
@[simp] theorem noEmpty_trapIf {b : Bool} {o : Option TrapReq} (h : NoEmpty o) : NoEmpty (trapIf b o) := by
  cases b
  · exact noEmpty_none
  · exact h
theorem noEmpty_firstTrap {l : List (Option TrapReq)} (h : ∀ o ∈ l, NoEmpty o) : NoEmpty (firstTrap l) := by
  induction l with
  | nil => exact noEmpty_none
  | cons o l ih =>
    obtain ⟨ho, hl⟩ := List.forall_mem_cons.mp h
    cases o with
    | none => exact ih hl
    | some t => exact ho
@[simp] theorem noEmpty_findSome {α : Type} {f : α → Option TrapReq} (h : ∀ a, NoEmpty (f a)) (l : List α) :
    NoEmpty (l.findSome? f) := by
  refine ⟨fun t ht => ?_⟩
  obtain ⟨a, -, ha⟩ := List.exists_of_findSome?_eq_some ht
  exact (h a).cause t ha

theorem tcmFault_ne_two {n a size c : Nat} (h : tcmFault s n a size = some c) : c ≠ 2 := by
  unfold tcmFault at h
  split_ifs at h <;> cases h <;> decide
theorem spmFault_ne_two {n a size c : Nat} (h : spmFault n a size = some c) : c ≠ 2 := by
  unfold spmFault at h
  split_ifs at h <;> cases h <;> decide

@[simp] theorem noEmpty_accessTrap (s : State) (pc space : Nat) (a : Dword) (size align : Nat) :
    NoEmpty (accessTrap s pc space a size align) := by
  unfold accessTrap
  dsimp only
  split
  · next c hc =>
    refine noEmpty_trapAt ?_ a
    split at hc
    · split_ifs at hc
      cases hc
      decide
    · exact tcmFault_ne_two hc
    · exact spmFault_ne_two hc
  · exact noEmpty_trapIf (noEmpty_trapAt (by decide) a)
@[simp] theorem noEmpty_boundTrap (s : State) (pc v : Nat) : NoEmpty (boundTrap s pc v) := noEmpty_trapIf (noEmpty_illState _)
@[simp] theorem noEmpty_elementTrap (s : State) (pc : Nat) (r : Regs) (f : FmtR) : NoEmpty (elementTrap s pc r f) :=
  noEmpty_findSome (fun _ => noEmpty_accessTrap ..) _
theorem noEmpty_amoTrap (pc : Nat) (r : Regs) (f : FmtAM) (template : Bool) : NoEmpty (amoTrap pc r f template) :=
  noEmpty_firstTrap (by simp)
theorem noEmpty_entryTraps (s : State) (pc : Nat) (q : Record) (e : Dword) : NoEmpty (entryTraps s pc q e) :=
  noEmpty_firstTrap (by simp)
theorem noEmpty_recordTrap (s : State) (pc : Nat) (q : Record) : NoEmpty (recordTrap s pc q) := by
  refine noEmpty_firstTrap ?_
  simp only [List.forall_mem_cons, List.not_mem_nil, false_implies, implies_true, and_true]
  refine ⟨by simp, ?_, by simp, ?_⟩
  · split <;> simp
  · split
    · exact noEmpty_entryTraps ..
    · simp
@[simp] theorem noEmpty_matrixTrap (s : State) (pc : Nat) (l : List Dword) : NoEmpty (matrixTrap s pc l) :=
  noEmpty_firstTrap (by simp)
@[simp] theorem noEmpty_copyDstTrap (s : State) (pc sp size : Nat) (a : Dword) (n : Nat) :
    NoEmpty (copyDstTrap s pc sp size a n) := by
  unfold copyDstTrap
  split
  · simp
  · simp
  · split
    · next hc => exact noEmpty_trapAt (spmFault_ne_two hc) _
    · simp
@[simp] theorem noEmpty_copySrcTrap (pc : Nat) (a : Dword) (n : Nat) : NoEmpty (copySrcTrap pc a n) :=
  noEmpty_trapIf (noEmpty_trapAt (by decide) a)
theorem noEmpty_copyTrap (s : State) (pc : Nat) (r : Regs) (f : FmtC) (kind : Nat) : NoEmpty (copyTrap s pc r f kind) :=
  noEmpty_firstTrap (by simp)
theorem noEmpty_zx8Trap (pc : Nat) (r : Regs) (f : FmtR) : NoEmpty (zx8Trap pc r f) := by
  unfold zx8Trap
  split <;> simp

/-- Every entry's traps are of other causes: EMPTY alone is taken before them (R90). -/
theorem noEmpty_ownTrap (s : State) (pc : Nat) (r : Regs) (i : Instr) : NoEmpty (ownTrap s pc r i) := by
  cases i <;> rw [ownTrap]
  case ldb | ldbu | ldh | ldhu | ldw | ldwu | ldd | stb | sth | stw | std | stv | ldaq | strl | publ | ctxload =>
    exact noEmpty_accessTrap ..
  case amoadd | amoand | amoor | amoxor | amomin | amomax | amominu | amomaxu | amoswp | amocas | amofadd | amoaddt =>
    exact noEmpty_amoTrap ..
  case cpy | cpy2 | cpym | cpyw => exact noEmpty_copyTrap ..
  case spawn | spawnh | send | sendg => exact noEmpty_recordTrap ..
  case mgath | mldb | mmul | mclr | mmuls | mstore => exact noEmpty_matrixTrap ..
  case stvx => exact noEmpty_elementTrap ..
  case jr | jrl | pref | invr | wbr | sigclr | retype | qdepth | npcfg | ncheck =>
    exact noEmpty_trapIf (noEmpty_trapAt (by decide) _)
  case gleave | gtag | gbar | garrive | gwait | regclr | sunbind | take | stealAny | tend | tabort | gjoin | rope | belay |
    upcret | semv | vext | vmac | vidx => exact noEmpty_trapIf (noEmpty_illState _)
  case ldv | ldvx | regset | wsclr | steal | mscale | npred | ctxsave | xinv => exact noEmpty_firstTrap (by simp [loadTrap])
  case sbind =>
    refine noEmpty_firstTrap (List.forall_mem_cons.mpr ⟨?_, by simp⟩)
    split <;> simp
  case tret =>
    refine noEmpty_firstTrap ?_
    simp only [List.forall_mem_cons, List.not_mem_nil, false_implies, implies_true, and_true]
    refine ⟨by simp, by simp, ?_⟩
    split <;> simp
  case crwr | crsetb | crclrb | unrope | ropeck => split <;> simp
  case vunpkbZx8 => exact noEmpty_zx8Trap ..
  all_goals exact noEmpty_none

theorem noEmpty_streamTrap (s : State) (pc : Nat) (i : Instr) : NoEmpty (streamTrap s pc i) := by
  refine noEmpty_firstTrap ?_
  simp only [List.forall_mem_cons, List.not_mem_nil, false_implies, implies_true, and_true]
  refine ⟨noEmpty_findSome (fun v => ?_) _, noEmpty_findSome (fun v => ?_) _⟩
  · split
    · split <;> simp
    · simp
  · split
    · split <;> simp
    · simp
theorem noEmpty_entryTrapOf (s : State) (pc : Nat) (is : List Instr) : NoEmpty (entryTrapOf s pc is) :=
  noEmpty_findSome (fun i => noEmpty_firstTrap (by
    simp only [List.forall_mem_cons, List.not_mem_nil, false_implies, implies_true, and_true]
    exact ⟨noEmpty_streamTrap s pc i, by simp, noEmpty_ownTrap ..⟩)) is

/-! ### What an empty source does to a bundle -/

/-- EMPTY is taken without the release that SEMV makes before its own trap (R138). -/
theorem trapIssue_of_empty {is : List Instr} {t : TrapReq} (h : t.cause = 2) : trapIssue s is t = takeTrap s t := by
  have hne : (entryTrapOf s (cur s).pc is == some t) = false := by
    rw [beq_eq_false_iff_ne]
    exact fun hsome => (noEmpty_entryTrapOf s (cur s).pc is).cause t hsome h
  rw [trapIssue, hne, Bool.and_false]
  rfl

/-- The first source of an instruction that is empty and has w = 0 (R89). -/
def firstEmpty (s : State) (i : Instr) : Option Src := (srcs i).find? fun x => !x.w && srcEmpty s x
def emptyReq (s : State) (x : Src) (word : Nat) : TrapReq :=
  { cause := 2, val := regCode x word, tpc := (cur s).pc }

variable {is : List (Instr × Nat)} {i : Instr} {x : Src} {w : Nat}

theorem emptyTrap_of_firstEmpty (h : firstEmpty s i = some x) (w : Nat) (l : List (Instr × Nat)) :
    emptyTrap s (cur s).pc ((i, w) :: l) = some (emptyReq s x w) := by
  rw [emptyTrap, show (srcs i).find? _ = _ from h]
  rfl
theorem emptyTrap_of_firstEmpty_none (h : firstEmpty s i = none) (w : Nat) (l : List (Instr × Nat)) :
    emptyTrap s (cur s).pc ((i, w) :: l) = emptyTrap s (cur s).pc l := by
  rw [emptyTrap, show (srcs i).find? _ = _ from h]
theorem check_of_emptyTrap {t : TrapReq} (hbusy : busy s = false) (h : emptyTrap s (cur s).pc is = some t) :
    check s is = .trap t := by
  simp [check, hbusy, h]
theorem check_of_srcEmpty (hbusy : busy s = false) (h : emptyTrap s (cur s).pc is = none)
    (hempty : ∃ e ∈ is, ∃ x ∈ srcs e.1, srcEmpty s x = true) : check s is = .wait := by
  obtain ⟨e, he, x, hx, hempty⟩ := hempty
  have hready : ready s (is.map (·.1)) = false := by
    have : ((is.map (·.1)).any fun i => (srcs i).any (srcEmpty s)) = true := by
      simp only [List.any_map, List.any_eq_true]
      exact ⟨e, he, List.any_eq_true.mpr ⟨x, hx, hempty⟩⟩
    simp [ready, this]
  simp [check, hbusy, h, hready]
/-- A bundle that EMPTY or an empty source stops reads no body's entry (R23). -/
theorem readEntry_of_emptyTrap {t : TrapReq} (h : emptyTrap s (cur s).pc is = some t) : readEntry s is = s := by
  have hmissed : missed s is = none := by
    unfold missed
    split
    · split <;> simp [h]
    · rfl
  rw [readEntry, hmissed]
theorem readEntry_of_wait (h : check s is = .wait) : readEntry s is = s := by
  have hmissed : missed s is = none := by
    unfold missed
    split
    · split <;> simp [h]
    · rfl
  rw [readEntry, hmissed]

end
end Sys2Proof.Machine

namespace Sys2Proof.Machine
section
variable {s : State} {is : List (Instr × Nat)} {i c a : Instr} {x : Src} {w : Nat} {t : TrapReq}

/-- Every instruction with an encoding issues, a spawn after its body's entry is read (R23, R90). -/
theorem exec_eq_issue {i : Instr} (h : hasWord i = true) (s : State) :
    ∃ eff, exec i s = issue (readEntry s [(i, 0)]) i eff := by
  cases i
  case spawn | spawnh | send | sendg => exact ⟨_, rfl⟩
  all_goals try exact Bool.noConfusion h
  all_goals
    rw [readEntry_of_no_spawn s rfl]
    exact ⟨_, rfl⟩

theorem exec_of_emptyTrap (hword : hasWord i = true) (hlatch : s.latch = none) (hbusy : busy s = false)
    (h : emptyTrap s (cur s).pc [(i, 0)] = some t) (ht : t.cause = 2) : exec i s = .next (takeTrap s t) := by
  obtain ⟨eff, hexec⟩ := exec_eq_issue hword s
  rw [hexec, readEntry_of_emptyTrap h, issue, hlatch]
  simp only [check_of_emptyTrap hbusy h, trapIssue_of_empty ht]
theorem exec_of_wait (hword : hasWord i = true) (hlatch : s.latch = none) (h : check s [(i, 0)] = .wait) :
    exec i s = .next s := by
  obtain ⟨eff, hexec⟩ := exec_eq_issue hword s
  rw [hexec, readEntry_of_wait h, issue, hlatch]
  simp only [h]
theorem runBundle_of_emptyTrap (hbusy : busy s = false) (h : emptyTrap s (cur s).pc [(c, 0), (a, 1)] = some t)
    (ht : t.cause = 2) : runBundle s [(c, 0), (a, 1)] = .next (takeTrap s t) := by
  simp only [runBundle, readEntry_of_emptyTrap h, check_of_emptyTrap hbusy h, trapIssue_of_empty ht]
theorem runBundle_of_wait (h : check s [(c, 0), (a, 1)] = .wait) : runBundle s [(c, 0), (a, 1)] = .next s := by
  simp only [runBundle, readEntry_of_wait h, h]

theorem takeTrap_emptyReq (s : State) (x : Src) (w : Nat) : takeTrap s (emptyReq s x w) = takeTrapAt s s.core s.ctx
    { cause := 0x02, val := BitVec.ofNat 64 (x.reg + 2 ^ 8 * x.file + 2 ^ 16 * w), tpc := (cur s).pc } := by
  rw [emptyReq, regCode, Nat.mul_comm x.file, Nat.mul_comm w]
  rfl

/-- A register that no stream is bound to is empty as its file says (R88). -/
theorem srcEmpty_of_unbound (h : ∀ e ∈ (cur s).streams, e.2.vd ≠ x.reg) :
    srcEmpty s x = if x.file = 0 then !xFull (cur s).regs x.reg else !vFull (cur s).regs x.reg := by
  have hbound : boundTo (cur s) x.reg = none := List.find?_eq_none.mpr fun e he => by simpa using h e he
  simp only [srcEmpty, hbound]

end
end Sys2Proof.Machine

namespace Sys2Proof
open Machine

/-- Settles O32: the first empty source with w = 0 is the bundle's trap (`emptyTrap_of_firstEmpty`), which neither the read
of a body's entry nor SEMV's release comes before; where there is none, an empty source holds it (`check_of_srcEmpty`). -/
theorem emptySourcesTrapOrHold : Obligations.EmptySourcesTrapOrHold := by
  intro s hlatch _ hbusy
  extract_lets first traps
  have htraps (x : Src) (w : Nat) : traps x w = .next (takeTrap s (emptyReq s x w)) := by rw [takeTrap_emptyReq]
  refine ⟨fun i hword => ⟨fun x hx => ?_, fun hnone hempty => ?_⟩, fun c a => ?_, fun x => srcEmpty_of_unbound⟩
  · rw [htraps]
    exact exec_of_emptyTrap hword hlatch hbusy (emptyTrap_of_firstEmpty hx 0 []) rfl
  · refine exec_of_wait hword hlatch (check_of_srcEmpty hbusy (emptyTrap_of_firstEmpty_none hnone 0 []) ?_)
    exact ⟨(i, 0), List.mem_singleton_self _, hempty⟩
  refine ⟨fun x hx => ?_, fun x hc hx => ?_, fun hc ha hempty => ?_⟩
  · rw [htraps]
    exact runBundle_of_emptyTrap hbusy (emptyTrap_of_firstEmpty hx 0 _) rfl
  · rw [htraps]
    exact runBundle_of_emptyTrap hbusy ((emptyTrap_of_firstEmpty_none hc 0 _).trans (emptyTrap_of_firstEmpty hx 1 [])) rfl
  · refine runBundle_of_wait (check_of_srcEmpty hbusy
      ((emptyTrap_of_firstEmpty_none hc 0 _).trans (emptyTrap_of_firstEmpty_none ha 1 [])) ?_)
    obtain ⟨x, hx, hempty⟩ := hempty
    rcases List.mem_append.mp hx with hx | hx
    · exact ⟨(c, 0), by simp, x, hx, hempty⟩
    · exact ⟨(a, 1), by simp, x, hx, hempty⟩

end Sys2Proof

/-! # Bad addresses (R97, R151, R200, R201) -/

namespace Sys2Proof.Machine
section
variable {s : State} {i : Instr} {pc space a size : Nat}

/-! ### The addresses of scalar accesses (R199) -/

theorem offset_eq {n : Nat} (lit : Word) (off : BitVec n) (unit : Nat) :
    offset lit off unit = if lit = 0 then off.signExtend 64 * BitVec.ofNat 64 unit else lit.signExtend 64 := by
  unfold offset
  split
  · rw [BitVec.ofInt_mul, BitVec.ofInt_natCast]
    rfl
  · rfl
theorem toNat_addrL (r : Regs) (f : FmtL) (unit : Nat) : (addrL r f unit).toNat = loadAddr r f unit := by
  rw [addrL, offset_eq]
  rfl
theorem toNat_addrS (r : Regs) (f : FmtS) (unit : Nat) : (addrS r f unit).toNat = storeAddr r f unit := by
  rw [addrS, offset_eq]
  rfl

/-- A scalar load or store checks its one access alone (R201). -/
theorem ownTrap_of_scalarAccess (h : scalarAccess (cur s).regs i = some (space, a, size)) :
    ∃ d : Dword, d.toNat = a ∧ ownTrap s pc (snapshot s) i = accessTrap s pc space d size size := by
  have hL (f : FmtL) (n : Nat) : (addrL (snapshot s) f n).toNat = loadAddr (cur s).regs f n := by
    rw [addrL, rx_snapshot]
    exact toNat_addrL (cur s).regs f n
  have hS (f : FmtS) (n : Nat) : (addrS (snapshot s) f n).toNat = storeAddr (cur s).regs f n := by
    rw [addrS, rx_snapshot]
    exact toNat_addrS (cur s).regs f n
  cases i with
  | ldb f | ldbu f | ldh f | ldhu f | ldw f | ldwu f | ldd f =>
    cases h
    exact ⟨_, hL f _, rfl⟩
  | stb f | sth f | stw f | std f =>
    cases h
    exact ⟨_, hS f _, rfl⟩
  | _ => nomatch h

/-- It names no vector register, writes no predicate and is no SEMV. -/
theorem entryTrapOf_of_scalarAccess (h : scalarAccess (cur s).regs i = some (space, a, size)) :
    entryTrapOf s pc [i] = ownTrap s pc (snapshot s) i ∧ semvFull s pc [i] = false := by
  have hparts : streamTrap s pc i = none ∧ writesP15 i = false ∧ semvFull s pc [i] = false := by
    cases i with
    | ldb f | ldbu f | ldh f | ldhu f | ldw f | ldwu f | ldd f | stb f | sth f | stw f | std f => exact ⟨rfl, rfl, rfl⟩
    | _ => nomatch h
  obtain ⟨hstream, hwrites, hsemv⟩ := hparts
  refine ⟨?_, hsemv⟩
  simp only [entryTrapOf, entryTrap, hstream, hwrites, List.findSome?_cons, List.findSome?_nil, Bool.and_false]
  cases ownTrap s pc (snapshot s) i <;> rfl
theorem exec_of_scalarAccess (h : scalarAccess (cur s).regs i = some (space, a, size)) : ∃ eff, exec i s = issue s i eff := by
  cases i with
  | ldb f | ldbu f | ldh f | ldhu f | ldw f | ldwu f | ldd f | stb f | sth f | stw f | std f => exact ⟨_, rfl⟩
  | _ => nomatch h
theorem scalarAccess_size_pos (h : scalarAccess (cur s).regs i = some (space, a, size)) : 0 < size := by
  cases i with
  | ldb f | ldbu f | ldh f | ldhu f | ldw f | ldwu f | ldd f | stb f | sth f | stw f | std f => cases h; decide
  | _ => nomatch h

/-! ### The range checks (R97, R151, R200, R201) -/

/-- The fault of an access's range (R201), which its alignment comes after. -/
def rangeFault (s : State) (space a size : Nat) : Option Nat :=
  match space with
  | 0 => if badVa a size then some 0x19 else none
  | 1 => tcmFault s s.core a size
  | _ => spmFault s.core a size
theorem accessTrap_eq (s : State) (pc space : Nat) (d : Dword) (size align : Nat) :
    accessTrap s pc space d size align =
      (rangeFault s space d.toNat size).elim (trapIf (d.toNat % align != 0) (trapAt pc 3 d)) (trapAt pc · d) := by
  show (match rangeFault s space d.toNat size with | some c => _ | none => _) = _
  cases rangeFault s space d.toNat size <;> rfl
theorem accessTrap_of_fault {d : Dword} {c : Nat} (h : rangeFault s space d.toNat size = some c) :
    accessTrap s pc space d size size = trapAt pc c d := by
  rw [accessTrap_eq, h]
  rfl
theorem accessTrap_of_misaligned {d : Dword} (h : rangeFault s space d.toNat size = none) (halign : d.toNat % size ≠ 0) :
    accessTrap s pc space d size size = trapAt pc 3 d := by
  rw [accessTrap_eq, h]
  exact if_pos (bne_iff_ne.mpr halign)

theorem rangeFault_virtual : rangeFault s 0 a size = if 2 ^ 57 < a + size ∨ 2 ^ 57 ≤ a then some 0x19 else none := by
  simp [rangeFault, badVa]
theorem rangeFault_tcm : rangeFault s 1 a size =
    if a < boundary s s.core then some 4 else if Config.tcmSize s.core < a + size then some 6 else none := rfl
theorem rangeFault_spm : rangeFault s 2 a size =
    if 0x600000 < a + size then some 6 else if 512 ≤ s.core then some 7 else none := by
  simp [rangeFault, spmFault, Config.spmSize, Config.isHome]

theorem exec_of_accessTrap {d : Dword} {c : Nat} (h : scalarAccess (cur s).regs i = some (space, d.toNat, size))
    (hr : Reaches s i) (hown : ownTrap s (cur s).pc (snapshot s) i = trapAt (cur s).pc c d) :
    exec i s = .next (takeTrapAt s s.core s.ctx { cause := c, val := BitVec.ofNat 64 d.toNat, tpc := (cur s).pc }) := by
  obtain ⟨hentry, hsemv⟩ := entryTrapOf_of_scalarAccess (pc := (cur s).pc) h
  obtain ⟨eff, hexec⟩ := exec_of_scalarAccess h
  rw [BitVec.ofNat_toNat, BitVec.setWidth_eq]
  exact exec_of_trap hr hexec (hentry.trans hown) hsemv

end
end Sys2Proof.Machine

namespace Sys2Proof
open Machine

/-- Settles O31: the access's checks are the instruction's only ones (`ownTrap_of_scalarAccess`), its range before its
alignment (`accessTrap_of_fault`, `accessTrap_of_misaligned`). -/
theorem badAddressesTrap : Obligations.BadAddressesTrap := by
  intro s i space a size h hr _
  obtain ⟨d, rfl, hown⟩ := ownTrap_of_scalarAccess (pc := (cur s).pc) h
  have hsize := scalarAccess_size_pos h
  have hfault (c : Nat) (hc : rangeFault s space d.toNat size = some c) :=
    exec_of_accessTrap h hr (hown.trans (accessTrap_of_fault hc))
  refine ⟨?_, ?_, ?_, ?_, ?_, fun halign hrange => ?_⟩
  · rintro rfl hbad
    exact hfault _ (rangeFault_virtual.trans (if_pos (.inl hbad)))
  · rintro rfl hlow
    exact hfault _ (rangeFault_tcm.trans (if_pos hlow))
  · rintro rfl hlow hhigh
    exact hfault _ (rangeFault_tcm.trans ((if_neg (by omega)).trans (if_pos hhigh)))
  · rintro rfl hhigh
    exact hfault _ (rangeFault_spm.trans (if_pos hhigh))
  · rintro rfl hhigh hcore
    exact hfault _ (rangeFault_spm.trans ((if_neg (by omega)).trans (if_pos hcore)))
  · have hnone : rangeFault s space d.toNat size = none := by
      obtain ⟨rfl, hlow⟩ | ⟨rfl, hlow, hhigh⟩ | ⟨rfl, hhigh, hcore⟩ := hrange
      · exact rangeFault_virtual.trans (if_neg (by omega))
      · exact rangeFault_tcm.trans ((if_neg (by omega)).trans (if_neg (by omega)))
      · exact rangeFault_spm.trans ((if_neg (by omega)).trans (if_neg (by omega)))
    exact exec_of_accessTrap h hr (hown.trans (accessTrap_of_misaligned hnone halign))

end Sys2Proof

/-! # Lanes (R273 to R292) -/

namespace Sys2Proof.Machine
section

/-! ### Fields packed into a number -/

theorem pack_lt (w : Nat) (f : Nat → Nat) (k : Nat) : pack w f k < 2 ^ (w * k) := by
  induction k with
  | zero => simp [pack]
  | succ k ih =>
    have hf : f k % 2 ^ w < 2 ^ w := Nat.mod_lt _ (Nat.two_pow_pos w)
    rw [pack, Nat.mul_succ, pow_add, Nat.mul_comm (2 ^ (w * k))]
    nlinarith
/-- The fields read back. -/
theorem bits_pack (w : Nat) (f : Nat → Nat) (k j : Nat) :
    bits (pack w f k) (w * j) w = if j < k then f j % 2 ^ w else 0 := by
  induction k with
  | zero => simp [pack, bits]
  | succ k ih =>
    rcases Nat.lt_trichotomy j k with hlt | rfl | hgt
    · rw [if_pos (by omega), ← if_pos hlt (t := f j % 2 ^ w) (e := 0), ← ih, pack, bits, bits]
      obtain ⟨d, rfl⟩ := Nat.exists_eq_add_of_lt hlt
      rw [show w * (j + d + 1) = w * j + w * (d + 1) by ring, pow_add, ← Nat.mul_assoc, Nat.mul_right_comm,
        Nat.add_mul_div_right _ _ (Nat.two_pow_pos _), show w * (d + 1) = w * d + w by ring, pow_add, ← Nat.mul_assoc,
        Nat.add_mul_mod_self_right]
    · rw [if_pos (by omega), pack, bits, Nat.add_mul_div_right _ _ (Nat.two_pow_pos _), Nat.div_eq_of_lt (pack_lt w f j),
        Nat.zero_add, Nat.mod_mod]
    · rw [if_neg (by omega), bits, Nat.div_eq_of_lt, Nat.zero_mod]
      exact (pack_lt w f (k + 1)).trans_le (Nat.pow_le_pow_right (by omega) (Nat.mul_le_mul_left w hgt))
/-- A field bit by bit. -/
theorem bits_eq_sum (v lo n : Nat) : bits v lo n = ((List.range n).map fun q => v / 2 ^ (lo + q) % 2 * 2 ^ q).sum := by
  induction n with
  | zero => simp [bits, Nat.mod_one]
  | succ n ih =>
    rw [List.range_succ, List.map_append, List.sum_append, ← ih, bits, bits, Nat.pow_succ, Nat.mod_mul,
      Nat.div_div_eq_div_mul, ← pow_add]
    simp [Nat.mul_comm]

variable {f : Nat → Word} {l : Nat}

theorem lane_vecOf (h : l < 256) : lane (vecOf f) l = f l := by
  have hbits := bits_pack 32 (fun i => (f i).toNat) 256 l
  rw [if_pos h, Nat.mod_eq_of_lt (f l).isLt] at hbits
  apply BitVec.eq_of_getLsbD_eq
  intro j hj
  have hbit := congrArg (Nat.testBit · j) hbits
  simp only [bits, Nat.testBit_mod_two_pow, Nat.testBit_div_two_pow, hj, decide_true, Bool.true_and] at hbit
  rw [lane, vecOf, BitVec.getLsbD_extractLsb', BitVec.getLsbD_ofNat, decide_eq_true hj,
    decide_eq_true (show 32 * l + j < 8192 by omega), Bool.true_and, Bool.true_and, Nat.add_comm (32 * l), hbit,
    BitVec.testBit_toNat]
theorem lane_merge {m : Pred} {old : Vec} (h : l < 256) : lane (merge m old f) l = if m.getLsbD l then f l else lane old l :=
  lane_vecOf h

end
end Sys2Proof.Machine

/-! ## Arithmetic of one lane (R279, R280) -/

namespace Sys2Proof.Machine
section
variable (a b d : Word) (n : Nat)

theorem word_mul_eq : a * b = BitVec.ofInt 32 (a.toInt * b.toInt) := by
  rw [BitVec.ofInt_mul, BitVec.ofInt_toInt, BitVec.ofInt_toInt]
theorem word_fma_eq : a * b + d = BitVec.ofInt 32 (a.toInt * b.toInt + d.toInt) := by
  rw [BitVec.ofInt_add, ← word_mul_eq, BitVec.ofInt_toInt]
theorem minI_eq : minI a b = BitVec.ofInt 32 (min a.toInt b.toInt) := by
  unfold minI
  split
  · next h => rw [min_eq_right h.le, BitVec.ofInt_toInt]
  · next h => rw [min_eq_left (not_lt.mp h), BitVec.ofInt_toInt]
theorem maxI_eq : maxI a b = BitVec.ofInt 32 (max a.toInt b.toInt) := by
  unfold maxI
  split
  · next h => rw [max_eq_right h.le, BitVec.ofInt_toInt]
  · next h => rw [max_eq_left (not_lt.mp h), BitVec.ofInt_toInt]
theorem absLane_int : absLane true a = BitVec.ofNat 32 a.toInt.natAbs := by
  have hofNat (k : Nat) : BitVec.ofNat 32 k = BitVec.ofInt 32 k := (BitVec.ofInt_natCast ..).symm
  rw [hofNat]
  simp only [absLane, if_true]
  split
  · next h => rw [Int.ofNat_natAbs_of_nonpos h.le, BitVec.ofInt_neg, BitVec.ofInt_toInt]
  · next h => rw [Int.natAbs_of_nonneg (not_lt.mp h), BitVec.ofInt_toInt]
theorem absLane_float : absLane false a = BitVec.ofNat 32 (a.toNat % 2 ^ 31) := by
  apply BitVec.eq_of_toNat_eq
  have hand : a.toNat &&& (2 ^ 31 - 1) = a.toNat % 2 ^ 31 := Nat.and_two_pow_sub_one_eq_mod a.toNat 31
  rw [absLane, if_neg (by decide), BitVec.toNat_and, BitVec.toNat_ofNat]
  exact hand.trans (Nat.mod_eq_of_lt (by omega)).symm
theorem negLane_int : negLane true a = 0 - a := (BitVec.zero_sub a).symm
theorem negLane_float : negLane false a = a + 0x80000000 := by
  apply BitVec.eq_of_getLsbD_eq
  intro i hi
  have hlow : 2 ^ 31 % 2 ^ i = 0 := Nat.mod_eq_zero_of_dvd (Nat.pow_dvd_pow 2 (by omega))
  have hcarry : BitVec.carry i a 0x80000000 false = false := by
    have := Nat.mod_lt a.toNat (Nat.two_pow_pos i)
    rw [BitVec.carry, show (0x80000000 : Word).toNat = 2 ^ 31 from rfl, hlow]
    simpa using this
  rw [BitVec.getLsbD_add hi, hcarry, negLane, if_neg (by decide), BitVec.getLsbD_xor, Bool.xor_false]
theorem vShl_eq : vShl a n = BitVec.ofNat 32 (a.toNat * 2 ^ n) := by
  apply BitVec.eq_of_toNat_eq
  rw [vShl, BitVec.toNat_shiftLeft, BitVec.toNat_ofNat, Nat.shiftLeft_eq]
theorem vShr_eq : vShr a n = BitVec.ofNat 32 (a.toNat / 2 ^ n) := by
  apply BitVec.eq_of_toNat_eq
  rw [vShr, BitVec.toNat_ushiftRight, BitVec.toNat_ofNat, Nat.shiftRight_eq_div_pow,
    Nat.mod_eq_of_lt ((Nat.div_le_self ..).trans_lt a.isLt)]
theorem vSar_eq : vSar a n = BitVec.ofInt 32 (a.toInt / 2 ^ n) := by
  rw [vSar, BitVec.sshiftRight, Int.shiftRight_eq_div_pow]
  norm_cast
end
end Sys2Proof.Machine

/-! ## Images (R237, R289, R290) -/

namespace Sys2Proof.Machine
section
variable (img l : Nat)

theorem bit01_bitAt (v k : Nat) : bit01 (bitAt v k) = v / 2 ^ k % 2 := by
  rcases Nat.mod_two_eq_zero_or_one (v / 2 ^ k) with h | h <;> simp [bitAt, bit01, h]

/-- A bit of a plane of an image of w planes (R237). -/
def planeBit (w img l p : Nat) : Nat := img / 2 ^ (64 * (w * (l / 64) + p) + l % 64) % 2
theorem planeBit_lt (w img l p : Nat) : planeBit w img l p < 2 := Nat.mod_lt _ (by omega)
theorem planeCode_eq (w img l : Nat) : planeCode w img l = pack 1 (planeBit w img l) w := by
  rw [planeCode]
  exact congrArg (pack 1 · w) (funext fun p => bit01_bitAt _ _)

/-- Four, two and one planes as signed elements (R237). -/
theorem unpackLane_four : unpackLane 0 img l = BitVec.ofInt 32
    ((planeBit 4 img l 0 + 2 * planeBit 4 img l 1 + 4 * planeBit 4 img l 2 : Nat) - (8 * planeBit 4 img l 3 : Nat)) := by
  have h0 := planeBit_lt 4 img l 0
  have h1 := planeBit_lt 4 img l 1
  have h2 := planeBit_lt 4 img l 2
  have h3 := planeBit_lt 4 img l 3
  rw [unpackLane, planeCode_eq]
  simp only [pack, intVal, sext]
  congr 1
  split_ifs <;> omega
theorem unpackLane_two : unpackLane 1 img l = BitVec.ofInt 32
    ((planeBit 2 img l 0 : Nat) - (2 * planeBit 2 img l 1 : Nat)) := by
  have h0 := planeBit_lt 2 img l 0
  have h1 := planeBit_lt 2 img l 1
  rw [unpackLane, planeCode_eq]
  simp only [pack, intVal, sext]
  congr 1
  split_ifs <;> omega
theorem unpackLane_one : unpackLane 2 img l = if planeBit 1 img l 0 = 1 then 1 else BitVec.ofInt 32 (-1) := by
  have h0 := planeBit_lt 1 img l 0
  have hcode : planeCode 1 img l = planeBit 1 img l 0 := by
    rw [planeCode_eq]
    simp only [pack]
    omega
  rw [unpackLane, intVal, hcode]
  split <;> rfl

/-- VPACKB's image bit by bit (R289). -/
theorem imageLane_packImage (func : Nat) (a : Vec) : imageLane (packImage func a) l = BitVec.ofNat 32
    (((List.range 32).map fun q =>
      (if 256 * packPlanes func ≤ 32 * l + q then 0
       else packCode func (lane a (64 * ((32 * l + q) / (64 * packPlanes func)) + (32 * l + q) % 64)) /
         2 ^ ((32 * l + q) / 64 % packPlanes func) % 2) * 2 ^ q).sum) := by
  rw [imageLane, bits_eq_sum]
  congr 2
  refine List.map_congr_left fun q _ => ?_
  have hbit := bits_pack 1 (fun b => packCode func (lane a (64 * (b / 64 / packPlanes func) + b % 64)) /
    2 ^ (b / 64 % packPlanes func) % 2) (256 * packPlanes func) (32 * l + q)
  rw [bits, Nat.one_mul, pow_one, Nat.mod_mod, Nat.div_div_eq_div_mul] at hbit
  rw [packImage, hbit]
  congr 1
  split
  · rw [if_neg (by omega)]
  · rw [if_pos (by omega)]
/-- A field in two parts. -/
theorem bits_add (v lo m n : Nat) : bits v lo (m + n) = bits v lo m + 2 ^ m * bits v (lo + m) n := by
  rw [bits, bits, bits, pow_add, Nat.mod_mul, Nat.div_div_eq_div_mul, ← pow_add]
/-- A 16-bit field of the index vector of R290 above its count. -/
def indexHalf (ones : List Nat) (b j : Nat) : Nat := match ones[j]? with | some i => (b + i) % 2 ^ 16 | none => 0
theorem bits_indices (ones : List Nat) (b j : Nat) :
    bits (pack 16 (fun k => b + ones.getD k 0) ones.length) (16 * j) 16 = indexHalf ones b j := by
  rw [bits_pack, indexHalf]
  split
  · next hj => rw [List.getD_eq_getElem _ _ hj, List.getElem?_eq_getElem hj]
  · next hj => rw [List.getElem?_eq_none (not_lt.mp hj)]
theorem imageLane_indexImage {ones : List Nat} (b : Nat) (hlen : ones.length ≤ 256) :
    imageLane (indexImage ones b) l =
      if l = 0 then BitVec.ofNat 32 ones.length
      else if l = 1 then 0
      else BitVec.ofNat 32 (indexHalf ones b (2 * l - 4) + 2 ^ 16 * indexHalf ones b (2 * l - 3)) := by
  rw [← bits_indices, ← bits_indices, imageLane, indexImage]
  generalize pack 16 (fun k => b + ones.getD k 0) ones.length = v
  rcases l with _ | _ | l
  · rw [if_pos rfl]
    congr 1
    simp only [bits]
    omega
  · rw [if_neg (by omega), if_pos rfl]
    have hzero : bits (ones.length + 2 ^ 64 * v) (32 * (0 + 1)) 32 = 0 := by
      simp only [bits]
      omega
    rw [hzero]
    rfl
  · rw [if_neg (by omega), if_neg (by omega), show 2 * (l + 1 + 1) - 4 = 2 * l by omega,
      show 2 * (l + 1 + 1) - 3 = 2 * l + 1 by omega, show 16 * (2 * l + 1) = 16 * (2 * l) + 16 by ring, ← bits_add]
    have hhigh : (ones.length + 2 ^ 64 * v) / 2 ^ 64 = v := by omega
    congr 1
    rw [bits, bits, show 32 * (l + 1 + 1) = 64 + 16 * (2 * l) by ring, pow_add, ← Nat.div_div_eq_div_mul, hhigh]
end
end Sys2Proof.Machine

/-! ## What the rows of lanes write (R279 to R292) -/

namespace Sys2Proof.Machine
section
variable {i : Instr} {gp gp' : BitVec 2} {rd : BitVec 6} {f : FmtR} {g : Regs → Nat → Word}

theorem isI32_of_one (h : f.func = 1) : isI32 f = true := by rw [isI32, h]; rfl
theorem isI32_of_zero (h : f.func = 0) : isI32 f = false := by rw [isI32, h]; rfl

/-- The instruction issues, and its effect writes lanes of v[rd] that are those of g on the operands read (R275). -/
def WritesLanes (i : Instr) (gp : BitVec 2) (rd : BitVec 6) (g : Regs → Nat → Word) : Prop :=
  ∀ s, ∃ w : Regs → Nat → Word, exec i s = issue s i (fun u => putV u gp rd (w (ops u))) ∧
    ∀ r l, l < 256 → w r l = g r l

section
variable (e : State → Host.Outcome State Fault Refusal) (hexec : ∀ s, exec i s = e s)
include hexec

theorem writesLanes_of_issue (w : Regs → Nat → Word) (hop : ∀ s, e s = issue s i (fun u => putV u gp rd (w (ops u))))
    (heq : ∀ r l, l < 256 → w r l = g r l) : WritesLanes i gp rd g := fun s => ⟨w, (hexec s).trans (hop s), heq⟩
/-- A typed operation on integer lanes. -/
theorem writesLanes_of_laneOp {fl : Env → FVal → FVal → FVal → Nat × Flags} {int row : Word → Word → Word → Word}
    (hop : ∀ s, e s = laneOp s i gp' f fl int) (heq : ∀ a b d, int a b d = row a b d)
    (h : (if f.func = 1 then lane2 gp' f row else none) = some (gp, rd, g)) : WritesLanes i gp rd g := by
  split at h
  · next hfunc =>
    cases h
    refine writesLanes_of_issue e hexec (fun r l =>
      int (lane (rv r f.rs1.toNat) l) (lane (rv r f.rs2.toNat) l) (lane (rv r f.rd.toNat) l)) (fun s => ?_)
      fun _ _ _ => heq _ _ _
    rw [hop, laneOp]
    simp only [isI32_of_one hfunc, if_true]
  · cases h
/-- An operation on two lanes. -/
theorem writesLanes_of_bitsOp {op : Word → Word → Word} {row : Word → Word → Word → Word}
    (hop : ∀ s, e s = bitsOp s i gp f op) (heq : ∀ a b d, op a b = row a b d) :
    WritesLanes i gp f.rd fun r l =>
      row (lane (rv r f.rs1.toNat) l) (lane (rv r f.rs2.toNat) l) (lane (rv r f.rd.toNat) l) :=
  writesLanes_of_issue e hexec (fun r l => op (lane (rv r f.rs1.toNat) l) (lane (rv r f.rs2.toNat) l)) hop
    fun _ _ _ => heq _ _ _
/-- A shift by a constant. -/
theorem writesLanes_of_shiftImm {op : Word → Nat → Word} {row : Word → Word → Word → Word}
    (hop : ∀ s, e s = shiftImm s i gp f op) (heq : ∀ a b d, op a f.rs2.toNat = row a b d) :
    WritesLanes i gp f.rd fun r l =>
      row (lane (rv r f.rs1.toNat) l) (lane (rv r f.rs2.toNat) l) (lane (rv r f.rd.toNat) l) :=
  writesLanes_of_issue e hexec (fun r l => op (lane (rv r f.rs1.toNat) l) f.rs2.toNat) hop fun _ _ _ => heq _ _ _

end

/-- VABS and VNEG act on the sign of either type (R279). -/
theorem writesLanes_of_sign {op : Bool → Word → Word} {int flt : Word → Word}
    (e : State → Host.Outcome State Fault Refusal) (hexec : ∀ s, exec i s = e s)
    (hop : ∀ s, e s = bitsOp s i gp' f fun a _ => op (isI32 f) a)
    (hint : ∀ a, op true a = int a) (hflt : ∀ a, op false a = flt a)
    (h : (if f.func = 1 then lane2 gp' f fun a _ _ => int a
      else if f.func = 0 then lane2 gp' f fun a _ _ => flt a else none) = some (gp, rd, g)) : WritesLanes i gp rd g := by
  split at h
  · next hfunc =>
    cases h
    exact writesLanes_of_bitsOp e hexec (row := fun a _ _ => int a) hop fun a _ _ => by rw [isI32_of_one hfunc, hint]
  · split at h
    · next hfunc =>
      cases h
      exact writesLanes_of_bitsOp e hexec (row := fun a _ _ => flt a) hop fun a _ _ => by rw [isI32_of_zero hfunc, hflt]
    · cases h

theorem packPlanes_eq : ∀ func : BitVec 3,
    packPlanes func.toNat = if func = 0 then 4 else if func = 1 then 2 else 1 := by decide
theorem packCode_eq (func : BitVec 3) (w : Word) :
    packCode func.toNat w = if func = 2 then (if 0 < w.toInt then 1 else 0) else w.toNat := by
  have hfunc : func.toNat = 2 ↔ func = 2 := BitVec.toNat_inj (y := 2)
  simp [packCode, hfunc, bit01]
/-- VUNPKB's forms 0 to 3 (R289). -/
theorem unpackLane_eq (func : BitVec 3) (img l : Nat) : unpackLane func.toNat img l =
    if func = 0 then BitVec.ofInt 32 ((planeBit 4 img l 0 + 2 * planeBit 4 img l 1 + 4 * planeBit 4 img l 2 : Nat) -
      (8 * planeBit 4 img l 3 : Nat))
    else if func = 1 then BitVec.ofInt 32 ((planeBit 2 img l 0 : Nat) - (2 * planeBit 2 img l 1 : Nat))
    else if func = 2 then (if planeBit 1 img l 0 = 1 then 1 else BitVec.ofInt 32 (-1))
    else BitVec.ofNat 32 (asF32 f16 (cb4Code img l)) := by
  split
  · next h => rw [h]; exact unpackLane_four img l
  split
  · next h => rw [h]; exact unpackLane_two img l
  split
  · next h => rw [h]; exact unpackLane_one img l
  · next h0 h1 h2 =>
    have hne (n : Nat) (h : func ≠ BitVec.ofNat 3 n) : func.toNat ≠ n := fun hf =>
      h (by rw [← hf, BitVec.ofNat_toNat, BitVec.setWidth_eq])
    rw [unpackLane]
    · exact hne 0 h0
    · exact hne 1 h1
    · exact hne 2 h2

theorem length_setBits_le (p : Pred) : (setBits p).length ≤ 256 := (List.length_filter_le ..).trans_eq List.length_range

/-- A lane of VIDX.i32 (R290). -/
def indexLane (ones : List Nat) (b l : Nat) : Word :=
  if l < ones.length then BitVec.ofNat 32 (b + ones.getD l 0) else BitVec.allOnes 32
theorem indexLane_eq (ones : List Nat) (b l : Nat) :
    indexLane ones b l = match ones[l]? with | some i => BitVec.ofNat 32 (b + i) | none => 0xFFFFFFFF := by
  unfold indexLane
  split
  · next h => rw [List.getD_eq_getElem _ _ h, List.getElem?_eq_getElem h]
  · next h => rw [List.getElem?_eq_none (not_lt.mp h)]; rfl
/-- A word of an accumulator's lane (R292). -/
theorem accWord_eq (a : Acc) (l h : Nat) : BitVec.ofNat 32 (bits (accRead a l).toNat (32 * h) 32) =
    if a.kind = .zero then 0 else BitVec.ofNat 32 ((accLane a.lanes l).toNat / 2 ^ (32 * h)) := by
  rw [accRead]
  split
  · rw [bits, show (0 : Dword).toNat = 0 from rfl, Nat.zero_div]
    rfl
  · exact BitVec.eq_of_toNat_eq (by rw [BitVec.toNat_ofNat, BitVec.toNat_ofNat, bits, Nat.mod_mod])

/-- Each row of R279 to R292 without flags is what its instruction writes. -/
theorem writesLanes_of_laneRow (h : laneRow i = some (gp, rd, g)) : WritesLanes i gp rd g := by
  cases i with
  | vadd gp f => exact writesLanes_of_laneOp (execVadd gp f) (fun _ => rfl) (fun _ => rfl) (fun _ _ _ => rfl) h
  | vsub gp f => exact writesLanes_of_laneOp (execVsub gp f) (fun _ => rfl) (fun _ => rfl) (fun _ _ _ => rfl) h
  | vmul gp f => exact writesLanes_of_laneOp (execVmul gp f) (fun _ => rfl) (fun _ => rfl) (fun a b _ => word_mul_eq a b) h
  | vfma gp f => exact writesLanes_of_laneOp (execVfma gp f) (fun _ => rfl) (fun _ => rfl) word_fma_eq h
  | vmin gp f => exact writesLanes_of_laneOp (execVmin gp f) (fun _ => rfl) (fun _ => rfl) (fun a b _ => minI_eq a b) h
  | vmax gp f => exact writesLanes_of_laneOp (execVmax gp f) (fun _ => rfl) (fun _ => rfl) (fun a b _ => maxI_eq a b) h
  | vabs gp f => exact writesLanes_of_sign (execVabs gp f) (fun _ => rfl) (fun _ => rfl) absLane_int absLane_float h
  | vneg gp f => exact writesLanes_of_sign (execVneg gp f) (fun _ => rfl) (fun _ => rfl) negLane_int negLane_float h
  | vand gp f =>
    cases h
    exact writesLanes_of_bitsOp (execVand gp f) (fun _ => rfl) (fun _ => rfl) fun _ _ _ => rfl
  | vor gp f =>
    cases h
    exact writesLanes_of_bitsOp (execVor gp f) (fun _ => rfl) (fun _ => rfl) fun _ _ _ => rfl
  | vxor gp f =>
    cases h
    exact writesLanes_of_bitsOp (execVxor gp f) (fun _ => rfl) (fun _ => rfl) fun _ _ _ => rfl
  | vsll gp f =>
    cases h
    exact writesLanes_of_bitsOp (execVsll gp f) (fun _ => rfl) (fun _ => rfl) fun a b _ => vShl_eq a _
  | vsrl gp f =>
    cases h
    exact writesLanes_of_bitsOp (execVsrl gp f) (fun _ => rfl) (fun _ => rfl) fun a b _ => vShr_eq a _
  | vsra gp f =>
    cases h
    exact writesLanes_of_bitsOp (execVsra gp f) (fun _ => rfl) (fun _ => rfl) fun a b _ => vSar_eq a _
  | vsllImm gp f =>
    cases h
    exact writesLanes_of_shiftImm (execVsllImm gp f) (fun _ => rfl) (fun _ => rfl) fun a _ _ => vShl_eq a _
  | vsrlImm gp f =>
    cases h
    exact writesLanes_of_shiftImm (execVsrlImm gp f) (fun _ => rfl) (fun _ => rfl) fun a _ _ => vShr_eq a _
  | vsraImm gp f =>
    cases h
    exact writesLanes_of_shiftImm (execVsraImm gp f) (fun _ => rfl) (fun _ => rfl) fun a _ _ => vSar_eq a _
  | vsel gp f =>
    cases h
    exact writesLanes_of_issue (execVsel gp f) (fun _ => rfl) (fun r l => if (rp r f.func.toNat).getLsbD l then
      lane (rv r f.rs1.toNat) l else lane (rv r f.rs2.toNat) l) (fun _ => rfl) fun _ _ _ => rfl
  | vperm gp f =>
    cases h
    exact writesLanes_of_issue (execVperm gp f) (fun _ => rfl) (fun r l =>
      lane (rv r f.rs1.toNat) ((lane (rv r f.rs2.toNat) l).toNat % 256)) (fun _ => rfl) fun _ _ _ => rfl
  | vbcast gp f =>
    cases h
    exact writesLanes_of_issue (execVbcast gp f) (fun _ => rfl) (fun r _ => (rx r f.rs1.toNat).setWidth 32) (fun _ => rfl)
      fun _ _ _ => (BitVec.ofNat_toNat ..).symm
  | vpackb gp f =>
    cases h
    exact writesLanes_of_issue (execVpackb gp f) (fun _ => rfl)
      (fun r => imageLane (packImage f.func.toNat (rv r f.rs1.toNat))) (fun _ => rfl) fun r l _ => by
        simp only [imageLane_packImage, packPlanes_eq, packCode_eq]
  | vunpkb gp f =>
    cases h
    exact writesLanes_of_issue (execVunpkb gp f) (fun _ => rfl)
      (fun r => unpackLane f.func.toNat (rv r f.rs1.toNat).toNat) (fun _ => rfl) fun _ _ _ => unpackLane_eq ..
  | vidx gp f =>
    cases h
    exact writesLanes_of_issue (execVidx gp f) (fun _ => rfl)
      (fun r => imageLane (indexImage (setBits (rp r f.rs1.toNat)) (rx r f.rs2.toNat).toNat)) (fun _ => rfl) fun _ _ _ =>
        imageLane_indexImage _ _ (length_setBits_le _)
  | vidxI32 gp f =>
    cases h
    exact writesLanes_of_issue (execVidxI32 gp f) (fun _ => rfl)
      (fun r l => indexLane (setBits (rp r f.rs1.toNat)) (rx r f.rs2.toNat).toNat l) (fun _ => rfl)
      fun _ _ _ => indexLane_eq ..
  | amovFromAcc gp f =>
    cases h
    exact writesLanes_of_issue (execAmovFromAcc gp f) (fun _ => rfl)
      (fun r l => BitVec.ofNat 32 (bits (accRead (racc r f.rs1.toNat) l).toNat (32 * f.rs2.toNat) 32)) (fun _ => rfl)
      fun _ _ _ => accWord_eq ..
  | vunpkbZx8 gp f =>
    cases h
    exact writesLanes_of_issue (execVunpkbZx8 gp f) (fun _ => rfl)
      (fun r l => BitVec.ofNat 32 (asF32 e4m3
        ((zxBlocks (bits (rv r f.rs2.toNat).toNat 0 1024) (rv r f.rs1.toNat).toNat 8 0).1.getD l 0))) (fun _ => rfl)
      fun _ _ _ => by rw [bits, pow_zero, Nat.div_one]
  | _ => nomatch h
end
end Sys2Proof.Machine

namespace Sys2Proof.Machine
section
variable {s u : State} {i : Instr} {gp : BitVec 2} {rd : BitVec 6} {g : Regs → Nat → Word} {eng : Nat} {st : Stream}

/-! ### The end of a bundle -/

theorem clr32_bit (w : Word) {n m : Nat} (hm : m < 32) : (clr32 w n).getLsbD m = (w.getLsbD m && decide (m ≠ n)) := by
  have h := Nat.testBit_two_pow (n := n) (m := m)
  simp only [clr32, BitVec.getLsbD_and, BitVec.getLsbD_not, BitVec.getLsbD_ofNat, h, hm, decide_true, Bool.true_and]
  by_cases e : n = m <;> simp [e, eq_comm]
theorem rv_writeV (c : Ctx) (n m : Nat) (v : Vec) : rv (writeV c n v).regs m = if m = n then v else rv c.regs m := by
  simp only [writeV, rv, fget_fset]
theorem vFull_writeV (c : Ctx) {n m : Nat} (v : Vec) (hm : m < 32) :
    vFull (writeV c n v).regs m = if m = n then true else vFull c.regs m := by
  simp only [writeV, vFull, clr32_bit _ hm]
  by_cases h : m = n <;> simp [h]
theorem rp_writeP (c : Ctx) (n m : Nat) (v : Pred) :
    rp (writeP c n v).regs m = if m = n ∧ m ≠ 0 then v else rp c.regs m := by
  by_cases hn : n = 0
  · subst hn
    rw [if_neg (by omega)]; simp [writeP]
  · simp only [writeP, if_neg hn, rp]
    by_cases hm : m = 0
    · simp [hm]
    · simp [hm, fget_fset]

theorem cur_begin (s : State) (i : Instr) : ∃ w, cur (begin s [i]) = { cur s with npc := (cur s).pc + 8, fwd := w } := by
  obtain ⟨-, -, -, w, hown⟩ := begin_kept s i
  exact ⟨w, by rw [← hown, cur, begin_core, begin_ctx]⟩

/-- The end of a bundle changes the issuing context alone. -/
theorem endBundle_kept (u : State) :
    { endBundle u with cores := u.cores, latch := u.latch, tail := u.tail } = u ∧ KeptCores u (endBundle u) ∧
    (∀ n k, (n, k) ≠ (u.core, u.ctx) → ctxAt (endBundle u) n k = ctxAt u n k) ∧
    ctxAt (endBundle u) u.core u.ctx = endCtx u.tail (cur u) := by
  obtain ⟨-, hcores, hothers⟩ := modCur_kept u (endCtx u.tail)
  exact ⟨rfl, hcores, hothers, ctxAt_modCtx_same ..⟩

/-- A bundle whose beats and whose instruction change its own context by F alone. -/
theorem issue_modCur_reading {F : Ctx → Ctx} {eff : State → State} (h : Issues s i) (hu : Unwatched s i)
    (he : eff (reading s i) = modCur (begin s [i]) F) :
    ∃ t, issue s i eff = .next t ∧
      (∃ w, now s t = endCtx (tailOf s [i]) (F { cur s with npc := (cur s).pc + 8, fwd := w })) ∧
      t.latch = none ∧ t.tail = none ∧ KeptUnits s t ∧ KeptCores s t ∧ KeptOthers s t := by
  obtain ⟨hunits, hcores, hothers, w, hown⟩ := begin_kept s i
  obtain ⟨-, mcores, mothers⟩ := modCur_kept (begin s [i]) F
  obtain ⟨-, ecores, eothers, eown⟩ := endBundle_kept (modCur (begin s [i]) F)
  have hcore := begin_core s i
  have hctx := begin_ctx s i
  have hcur : cur (modCur (begin s [i]) F) = F { cur s with npc := (cur s).pc + 8, fwd := w } := by
    rw [cur_modCur, ← hown, cur, hcore, hctx]
  rw [hcur] at eown
  refine ⟨endBundle (modCur (begin s [i]) F), ?_, ⟨w, ?_⟩, rfl, rfl, ?_, fun n => ?_, fun n k hne => ?_⟩
  · rw [issue_of_issues h, watch_of_unwatched hu, he]
  · rw [now, ← hcore, ← hctx]
    exact eown
  · exact hunits
  · exact (ecores n).trans ((mcores n).trans (hcores n))
  · have hne' : (n, k) ≠ ((begin s [i]).core, (begin s [i]).ctx) := by rw [hcore, hctx]; exact hne
    rw [eothers n k hne', mothers n k hne']
    exact hothers n k hne

/-! ### Beats of a local stream (R218, R252 to R254) -/

theorem bytesAt_tcm (s : State) (n a k : Nat) : bytesAt s (.tcm n) a k = readBytes (coreAt s n).tcm a k := by
  induction k generalizing a with
  | zero => rfl
  | succ k ih => rw [bytesAt, readBytes, ih]; rfl
theorem beatNow_of_done (h : streamDone st = true) (s : State) (n : Nat) : beatNow s n st = some (0, 0, none) := by
  rw [beatNow, if_pos h]
theorem beatNow_of_ready {b : Vec × Pred × Option VaFault} (hdone : streamDone st = false)
    (h : ffind st.ready st.count = some b) (s : State) (n : Nat) : beatNow s n st = some b := by
  simp [beatNow, hdone, h]
/-- A TCM stream's next beat is read when it is popped. -/
theorem beatNow_of_tcm (hspace : st.space = 1) (hdone : streamDone st = false) (hready : ffind st.ready st.count = none)
    (hfault : beatFault s s.core st st.count = none) :
    beatNow s s.core st = some (vecOf (beatOf s st (.tcm s.core)), beatMask st.bound st.count, none) := by
  simp only [beatNow, hdone, hready, hspace, beatRead, hfault, if_true, Bool.false_eq_true, if_false]
  congr 3
  funext l
  rw [beatOf]
  simp only [bytesAt_tcm]
  rfl
/-- An element's fault rests on the core's boundary. -/
theorem elemFault_congr {n : Nat} (hxb : (coreAt u n).xb = (coreAt s n).xb) (st : Stream) (a : Nat) :
    elemFault u n st a = elemFault s n st a := by
  have hlocal (k : Nat) : tcmFault u n a k = tcmFault s n a k := by
    rw [tcmFault, tcmFault, boundary, boundary, hxb]
  unfold elemFault
  split
  · rfl
  · simp only [hlocal]
  · rfl
/-- A beat rests on the core's TCM and boundary. -/
theorem beatNow_congr (h : KeptCores s u) (n : Nat) (st : Stream) : beatNow u n st = beatNow s n st := by
  have htcm : (coreAt u n).tcm = (coreAt s n).tcm := (congrArg Core.tcm (h n) :)
  have hxb : (coreAt u n).xb = (coreAt s n).xb := (congrArg Core.xb (h n) :)
  simp only [beatNow, beatRead, beatFault, elemFault_congr hxb, tcmRead, htcm]

end
end Sys2Proof.Machine

/-! ## Reads of a bound register (R83, R254) -/

namespace Sys2Proof.Machine
section
variable {s u : State} {i : Instr} {gp : BitVec 2} {rd : BitVec 6} {g : Regs → Nat → Word} {eng : Nat} {st : Stream}

theorem isA_of_laneRow (h : laneRow i = some (gp, rd, g)) : isA i = true := by
  cases i with
  | vadd | vsub | vmul | vfma | vmin | vmax | vabs | vneg | vand | vor | vxor | vsll | vsrl | vsra | vsllImm | vsrlImm
  | vsraImm | vsel | vbcast | vperm | vpackb | vunpkb | vidx | vidxI32 | amovFromAcc | vunpkbZx8 => rfl
  | _ => nomatch h
theorem unwatched_of_laneRow (h : laneRow i = some (gp, rd, g)) : Unwatched s i :=
  unwatched_of_span (by rw [watchSpan_of_isA (isA_of_laneRow h)])
theorem popReads_of_isA (h : isA i = true) : popReads i = vReads i := by
  unfold popReads
  split
  · exact Bool.noConfusion h
  · rfl

/-- A change of the issuing context is what it makes of that context. -/
theorem modCur_congr {f g : Ctx → Ctx} (h : f (cur u) = g (cur u)) : modCur u f = modCur u g :=
  congrArg (fun c => modCore u u.core fun x => { x with ctxs := fset x.ctxs u.ctx c }) h

/-- A stream after a bundle that reads it (R254). -/
def poppedStream (st : Stream) : Stream :=
  { st with
    count := if streamDone st then st.count else st.count + 1
    mask := if streamDone st then 0 else beatMask st.bound st.count
    ready := if streamDone st then st.ready else fdel st.ready st.count }
theorem readAhead_of_local (hst : (cur u).streams = [(eng, st)]) (hspace : st.space ≠ 0) : readAhead u eng = u := by
  have hfind : ffind (cur u).streams eng = some st := by rw [hst]; simp [ffind]
  simp only [readAhead, hfind, hspace, if_false]
/-- A beat without a fault is popped from its stream alone; a local stream reads no further ahead (R218, R254). -/
theorem popBeat_eq {beat : Vec} {mask : Pred} (hst : (cur u).streams = [(eng, st)]) (hspace : st.space ≠ 0)
    (hbeat : beatNow u u.core st = some (beat, mask, none)) :
    popBeat u eng = modCur u fun c => { c with streams := [(eng, poppedStream st)] } := by
  have hfind : ffind (cur u).streams eng = some st := by rw [hst]; simp [ffind]
  have hset (st' : Stream) : fset (cur u).streams eng st' = [(eng, st')] := by rw [hst]; simp [fset]
  unfold popBeat
  cases hdone : streamDone st with
  | true =>
    simp only [hfind, hdone, if_true]
    refine modCur_congr ?_
    simp only [hset, poppedStream, hdone, if_true]
  | false =>
    simp only [hfind, hdone, hbeat, Bool.false_eq_true, if_false]
    have hmod : (modCur u fun c => { c with
        streams := fset c.streams eng { st with
          count := st.count + 1, ready := fdel st.ready st.count, mask := beatMask st.bound st.count }
        refusals := c.refusals }) = modCur u fun c => { c with streams := [(eng, poppedStream st)] } :=
      modCur_congr (by simp only [hset, poppedStream, hdone, Bool.false_eq_true, if_false])
    rw [hmod]
    exact readAhead_of_local (st := poppedStream st) (by rw [cur_modCur]) hspace

section
variable (hst : (cur s).streams = [(eng, st)])
include hst

theorem popped_of_read (hA : isA i = true) (hwrite : st.write = false) (hread : st.vd ∈ vReads i) : popped s [i] = [eng] := by
  simp [popped, hst, hwrite, popReads_of_isA hA, hread]
theorem popped_of_write (hwrite : st.write = true) : popped s [i] = [] := by
  simp [popped, hst, hwrite]

/-- A register bound to a read stream reads the beat (R83). -/
theorem snapshot_of_read {beat : Vec} {mask : Pred} (hwrite : st.write = false)
    (hbeat : beatNow s s.core st = some (beat, mask, none)) :
    snapshot s = { (cur s).regs with v := fset (cur s).regs.v st.vd beat } := by
  simp [snapshot, hst, hwrite, hbeat]
theorem snapshot_of_write (hwrite : st.write = true) : snapshot s = (cur s).regs := by
  simp [snapshot, hst, hwrite]
theorem tailOf_of_read {beat : Vec} {mask : Pred} (hpop : popped s [i] = [eng])
    (hbeat : beatNow s s.core st = some (beat, mask, none)) : tailOf s [i] = some mask := by
  have hfind : ffind (cur s).streams eng = some st := by rw [hst]; simp [ffind]
  simp [tailOf, hpop, hfind, hbeat, -BitVec.reduceAllOnes]

/-- The state in which an instruction that reads the stream performs its effect. -/
theorem reading_of_read {beat : Vec} {mask : Pred} (hpop : popped s [i] = [eng]) (hspace : st.space ≠ 0)
    (hbeat : beatNow s s.core st = some (beat, mask, none)) :
    reading s i = modCur (begin s [i]) fun c => { c with streams := [(eng, poppedStream st)] } := by
  obtain ⟨-, hcores, -⟩ := begin_kept s i
  obtain ⟨w, hcur⟩ := cur_begin s i
  have hpop' : popped (begin s [i]) [i] = [eng] := by rw [← hpop, popped, popped, hcur]
  rw [reading, popAll, hpop']
  exact popBeat_eq (by rw [hcur]; exact hst) hspace (by rw [begin_core, beatNow_congr hcores]; exact hbeat)

end

/-- Lanes of a register that no stream is bound to merge into it (R83, R276). -/
theorem putV_of_unbound {f : Nat → Word} (h : boundTo (cur u) rd.toNat = none) :
    putV u gp rd f = modCur u fun c => writeV c rd.toNat (merge (gpOf u gp) (rv c.regs rd.toNat) f) := by
  simp only [putV, putLanes, h]

end
end Sys2Proof.Machine

namespace Sys2Proof.Machine
section
variable {s u : State} {i : Instr} {gp : BitVec 2} {rd : BitVec 6} {g : Regs → Nat → Word} {eng : Nat} {st : Stream}

theorem vFull_endCtx (tail : Option Pred) (c : Ctx) (n : Nat) : vFull (endCtx tail c).regs n = vFull c.regs n := by
  cases tail <;> rfl
theorem rv_endCtx (tail : Option Pred) (c : Ctx) (n : Nat) : rv (endCtx tail c).regs n = rv c.regs n := by
  cases tail <;> rfl
theorem rp_endCtx (m : Pred) (c : Ctx) (n : Nat) : rp (endCtx (some m) c).regs n = if n = 15 then m else rp c.regs n := by
  refine (rp_writeP c 15 n m).trans (if_congr ?_ rfl rfl)
  omega

/-- The context of a bundle that pops a beat and writes lanes of v[rd]. -/
def readCtx (eng : Nat) (st : Stream) (m : Pred) (rd : BitVec 6) (f : Nat → Word) (c : Ctx) : Ctx :=
  writeV { c with streams := [(eng, poppedStream st)] } rd.toNat (merge m (rv c.regs rd.toNat) f)

/-- What a bundle does that reads one bound register and writes lanes of another. -/
theorem issue_read {beat : Vec} {mask : Pred} (hrow : laneRow i = some (gp, rd, g)) (h : Issues s i)
    (hst : (cur s).streams = [(eng, st)]) (hwrite : st.write = false) (hspace : st.space ≠ 0) (hread : st.vd ∈ vReads i)
    (hrd : st.vd ≠ rd.toNat) (hbeat : beatNow s s.core st = some (beat, mask, none)) :
    ∃ t f w, exec i s = .next t ∧ (∀ l, l < 256 → f l = g { (cur s).regs with v := fset (cur s).regs.v st.vd beat } l) ∧
      now s t = endCtx (some mask) (readCtx eng st (rp (cur s).regs gp.toNat) rd f
        { cur s with npc := (cur s).pc + 8, fwd := w }) ∧
      t.latch = none ∧ t.tail = none ∧ KeptUnits s t ∧ KeptCores s t ∧ KeptOthers s t := by
  have hpop : popped s [i] = [eng] := popped_of_read hst (isA_of_laneRow hrow) hwrite hread
  obtain ⟨lanes, hexec, heq⟩ := writesLanes_of_laneRow hrow s
  have hreading := reading_of_read hst hpop hspace hbeat
  have hops : ops (reading s i) = snapshot s := by rw [hreading]; rfl
  have hgp : gpOf (reading s i) gp = rp (cur s).regs gp.toNat := by rw [gpOf, hops, rp_snapshot]
  have hbound : boundTo (cur (reading s i)) rd.toNat = none := by
    rw [hreading, cur_modCur]
    simp [boundTo, poppedStream, hrd]
  have heff : putV (reading s i) gp rd (lanes (ops (reading s i))) =
      modCur (begin s [i]) (readCtx eng st (rp (cur s).regs gp.toNat) rd (lanes (snapshot s))) := by
    rw [putV_of_unbound hbound, hgp, hops, hreading, modCur_modCur]
    rfl
  obtain ⟨t, ht, ⟨w, hnow⟩, hrest⟩ := issue_modCur_reading (eff := fun u => putV u gp rd (lanes (ops u))) h
    (unwatched_of_laneRow hrow) heff
  rw [tailOf_of_read hst hpop hbeat] at hnow
  refine ⟨t, lanes (snapshot s), w, hexec.trans ht, fun l hl => ?_, hnow, hrest⟩
  rw [heq _ l hl, snapshot_of_read hst hwrite hbeat]

end
end Sys2Proof.Machine

namespace Sys2Proof
open Machine

/-- Settles O21: each case names the beat that stands ready (`beatNow_of_done`, `beatNow_of_ready`, `beatNow_of_tcm`); the
bundle reads it in place of the register, pops it and takes its mask (`issue_read`). -/
theorem boundReadsPopOneBeat : Obligations.BoundReadsPopOneBeat := by
  intro s i gp rd g eng st hrow h hst hwrite hspace hread hrd beat mask hcase r
  have hbeat : beatNow s s.core st = some (beat, mask, none) := by
    obtain ⟨hdone, rfl, rfl⟩ | ⟨hdone, hready⟩ | ⟨htcm, hdone, hready, -, hfault, rfl, rfl⟩ := hcase
    · exact beatNow_of_done hdone s s.core
    · exact beatNow_of_ready hdone hready s s.core
    · exact beatNow_of_tcm htcm hdone hready hfault
  obtain ⟨t, f, w, hexec, hlanes, hnow, hlatch, htail, hunits, hcores, hothers⟩ :=
    issue_read hrow h hst hwrite (by omega) hread hrd hbeat
  refine ⟨t, hexec, ⟨?_, ?_, hlatch, htail⟩, fun n hn => ⟨?_, fun l hl => ?_⟩, ?_, ?_, fun n _ => ?_, fun n _ => ?_, ?_, ?_, ?_,
    ⟨hunits, hcores, hothers, ?_⟩, keptMemory_of_kept hunits hcores⟩
  · rw [hnow]; rfl
  · rw [hnow]; rfl
  · rw [hnow, vFull_endCtx, readCtx, vFull_writeV _ _ hn]
  · rw [hnow, rv_endCtx, readCtx, rv_writeV]
    by_cases hn : n = rd.toNat
    · subst hn
      simp only [if_true, true_and, lane_merge hl, hlanes l hl]
      rfl
    · simp only [hn, if_false, false_and]
  · rw [Flagged, hnow]
    rfl
  · rw [hnow, rp_endCtx, if_pos rfl]
  · by_cases hn : n = 15
    · exact .inl ⟨rfl, hn⟩
    · refine .inr ?_
      rw [hnow, rp_endCtx, if_neg hn]
      rfl
  · rw [hnow]
    exact ⟨rfl, rfl⟩
  · rw [KeptAcc, hnow]
    rfl
  · rw [KeptCr, hnow]
    exact ⟨rfl, rfl, rfl, rfl, rfl, rfl, rfl⟩
  · rw [hnow]
    rfl
  · rw [KeptCtx, hnow]
    rfl

end Sys2Proof

/-! ## Writes of a bound register (R253, R254) -/

namespace Sys2Proof.Machine
section
variable {s u : State} {i : Instr} {gp : BitVec 2} {rd : BitVec 6} {g : Regs → Nat → Word} {eng : Nat} {st : Stream}

/-- `t` is `s` but for the bytes of TCMs. -/
structure SameButTcm (s t : State) : Prop where
  units : { t with cores := s.cores } = s
  cores : ∀ n, { coreAt t n with tcm := [] } = { coreAt s n with tcm := [] }

namespace SameButTcm
variable {t : State}

protected theorem refl (s : State) : SameButTcm s s := ⟨rfl, fun _ => rfl⟩
protected theorem trans (h : SameButTcm s t) (k : SameButTcm t u) : SameButTcm s u where
  units := (congrArg (fun x : State => { x with cores := s.cores }) k.units).trans h.units
  cores n := (k.cores n).trans (h.cores n)
theorem tcmWrite (s : State) (m a n v : Nat) : SameButTcm s (tcmWrite s m a n v) where
  units := rfl
  cores n := by
    rw [Machine.tcmWrite, coreAt_modCore]
    split
    · next h => rw [h]
    · rfl
theorem core (h : SameButTcm s t) : t.core = s.core := (congrArg State.core h.units :)
theorem ctx (h : SameButTcm s t) : t.ctx = s.ctx := (congrArg State.ctx h.units :)
theorem tail (h : SameButTcm s t) : t.tail = s.tail := (congrArg State.tail h.units :)
theorem ctxAt (h : SameButTcm s t) (n k : Nat) : ctxAt t n k = ctxAt s n k :=
  (congrArg (fun c : Core => fget {} c.ctxs k) (h.cores n) :)
theorem xb (h : SameButTcm s t) (n : Nat) : (coreAt t n).xb = (coreAt s n).xb := (congrArg Core.xb (h.cores n) :)

end SameButTcm

theorem tcm_tcmWrite (s : State) (n a k v : Nat) :
    (coreAt (tcmWrite s n a k v) n).tcm = writeBytes (coreAt s n).tcm a k v := by
  rw [tcmWrite, coreAt_modCore_same]

/-- A pushed beat whose elements have no fault is stored element after element (R254). -/
theorem pushLocal_stores (ps : List (Nat × Nat × Nat × Flags)) (u : State)
    (h : ∀ p ∈ ps, elemFault u u.core st p.2.1 = none) :
    SameButTcm u (pushLocal u st ps) ∧ (coreAt (pushLocal u st ps) u.core).tcm =
      ps.foldl (fun m p => writeBytes m p.2.1 (elemSize st.elem) p.2.2.1) (coreAt u u.core).tcm := by
  induction ps generalizing u with
  | nil => exact ⟨.refl u, rfl⟩
  | cons p ps ih =>
    obtain ⟨l, a, w, fl⟩ := p
    obtain ⟨hp, hps⟩ := List.forall_mem_cons.mp h
    have hwrite := SameButTcm.tcmWrite u u.core a (elemSize st.elem) w
    obtain ⟨hsame, htcm⟩ := ih (tcmWrite u u.core a (elemSize st.elem) w) fun p hmem =>
      (elemFault_congr (hwrite.xb u.core) st p.2.1).trans (hps p hmem)
    have hpush : pushLocal u st ((l, a, w, fl) :: ps) = pushLocal (tcmWrite u u.core a (elemSize st.elem) w) st ps := by
      rw [pushLocal, hp]
    rw [hpush]
    refine ⟨hwrite.trans hsame, htcm.trans ?_⟩
    rw [hwrite.core, tcm_tcmWrite]
    rfl

/-- The lanes of a beat that a predicate enables, with the addresses of their elements. -/
def pushedLanes (st : Stream) (m : Pred) : List (Nat × Nat) := (beatElems st st.count).filter fun e => m.getLsbD e.1
/-- The element that a lane becomes (R253). -/
def pushedElem (s : State) (st : Stream) (f : Nat → Word) (l : Nat) : Nat × Flags :=
  elemWrite st.elem ((cur s).regs.frm.toNat % 8) (random s l) (f l)
def pushedFlags (s : State) (st : Stream) (m : Pred) (f : Nat → Word) : Flags :=
  (pushedLanes st m).foldl (fun a e => a ||| (pushedElem s st f e.1).2) 0
/-- The context of a bundle that pushes a beat. -/
def pushCtx (s : State) (eng : Nat) (st : Stream) (m : Pred) (f : Nat → Word) (c : Ctx) : Ctx :=
  orFlags { c with streams := [(eng, { st with count := st.count + 1 })] } (pushedFlags s st m f)

theorem lt_of_mem_beatElems {b : Nat} {e : Nat × Nat} (h : e ∈ beatElems st b) : e.1 < 256 := by
  obtain ⟨l, hl, rfl⟩ := List.mem_map.mp h
  exact List.mem_range.mp (List.mem_filter.mp hl).1
theorem elemFault_of_beatFault {n b : Nat} (h : beatFault s n st b = none) {e : Nat × Nat} (he : e ∈ beatElems st b) :
    elemFault s n st e.2 = none := by
  have hnone := List.findSome?_eq_none_iff.mp h e he
  cases hf : elemFault s n st e.2 with
  | none => rfl
  | some c => simp [hf] at hnone

section
variable (hst : (cur s).streams = [(eng, st)]) (hwrite : st.write = true)
include hst hwrite

theorem pushParts_begin (m : Pred) {w f : Nat → Word} (hw : ∀ l, l < 256 → w l = f l) :
    pushParts (begin s [i]) st m (vecOf w) = (pushedLanes st m).map fun e => (e.1, e.2, pushedElem s st f e.1) := by
  obtain ⟨_, hcur⟩ := cur_begin s i
  have hlatch : (begin s [i]).latch = some (cur s).regs := congrArg some (snapshot_of_write hst hwrite)
  have hsr (l : Nat) : srLane (begin s [i]) 0 l = random s l := by
    rw [srLane, hcur, begin_core, begin_ctx]
    rfl
  unfold pushParts
  simp only [hlatch]
  refine List.map_congr_left fun e he => ?_
  have hl := lt_of_mem_beatElems (List.mem_filter.mp he).1
  have hlane : lane (vecOf w) e.1 = f e.1 := (lane_vecOf hl).trans (hw e.1 hl)
  rw [hsr, hlane, rmOf, bits, pow_zero, Nat.div_one]
  rfl
/-- Lanes of a register bound to a TCM write stream are pushed (R254). -/
theorem putV_begin_of_write (hspace : st.space = 1) (hvd : st.vd = rd.toNat) {w f : Nat → Word}
    (hw : ∀ l, l < 256 → w l = f l) : putV (begin s [i]) gp rd w =
      pushLocal (modCur (begin s [i]) (pushCtx s eng st (rp (cur s).regs gp.toNat) f)) st
        ((pushedLanes st (rp (cur s).regs gp.toNat)).map fun e => (e.1, e.2, pushedElem s st f e.1)) := by
  obtain ⟨_, hcur⟩ := cur_begin s i
  have hbound : boundTo (cur (begin s [i])) rd.toNat = some (eng, st) := by rw [hcur]; simp [boundTo, hst, hvd]
  have hgp : gpOf (begin s [i]) gp = rp (cur s).regs gp.toNat := by rw [gpOf, ops_begin, rp_snapshot]
  have hctx (fl : Flags) : modCur (begin s [i]) (fun c =>
      orFlags { c with streams := fset c.streams eng { st with count := st.count + 1 } } fl) =
      modCur (begin s [i]) fun c => orFlags { c with streams := [(eng, { st with count := st.count + 1 })] } fl :=
    modCur_congr (by rw [hcur]; simp [hst, fset])
  rw [putV, putLanes, hbound]
  dsimp only
  rw [if_pos hwrite, pushBeat]
  dsimp only
  rw [if_pos hspace, hgp, pushParts_begin hst hwrite _ hw, List.foldl_map, hctx]
  rfl

end
end
end Sys2Proof.Machine

namespace Sys2Proof.Machine
section
variable {s u : State} {i : Instr} {gp : BitVec 2} {rd : BitVec 6} {g : Regs → Nat → Word} {eng : Nat} {st : Stream}

/-- What a bundle does that writes lanes of a register bound to a TCM write stream. -/
theorem issue_write (hrow : laneRow i = some (gp, rd, g)) (h : Issues s i) (hst : (cur s).streams = [(eng, st)])
    (hwrite : st.write = true) (hspace : st.space = 1) (hvd : st.vd = rd.toNat)
    (hfault : beatFault s s.core st st.count = none) :
    let m := rp (cur s).regs gp.toNat
    ∃ u w, exec i s = .next (endBundle u) ∧ SameButTcm (modCur (begin s [i]) (pushCtx s eng st m (g (cur s).regs))) u ∧
      u.tail = none ∧
      cur u = pushCtx s eng st m (g (cur s).regs) { cur s with npc := (cur s).pc + 8, fwd := w } ∧
      (coreAt u s.core).tcm = (pushedLanes st m).foldl (fun a e =>
        writeBytes a e.2 (elemSize st.elem) (pushedElem s st (g (cur s).regs) e.1).1) (coreAt s s.core).tcm := by
  intro m
  obtain ⟨-, hcores, -⟩ := begin_kept s i
  obtain ⟨w, hcur⟩ := cur_begin s i
  obtain ⟨lanes, hexec, heq⟩ := writesLanes_of_laneRow hrow s
  have hpop : popped s [i] = [] := popped_of_write hst hwrite
  have hops : ops (begin s [i]) = (cur s).regs := by rw [ops_begin, snapshot_of_write hst hwrite]
  obtain ⟨-, mcores, -⟩ := modCur_kept (begin s [i]) (pushCtx s eng st m (g (cur s).regs))
  have hkept : KeptCores s (modCur (begin s [i]) (pushCtx s eng st m (g (cur s).regs))) := fun n =>
    (mcores n).trans (hcores n)
  obtain ⟨hsame, htcm⟩ := pushLocal_stores (st := st)
    ((pushedLanes st m).map fun e => (e.1, e.2, pushedElem s st (g (cur s).regs) e.1))
    (modCur (begin s [i]) (pushCtx s eng st m (g (cur s).regs))) fun p hp => by
      obtain ⟨e, he, rfl⟩ := List.mem_map.mp hp
      rw [elemFault_congr (congrArg Core.xb (hkept _) :), modCur_core, begin_core]
      exact elemFault_of_beatFault hfault (List.mem_filter.mp he).1
  refine ⟨_, w, ?_, hsame, ?_, ?_, ?_⟩
  · rw [hexec, issue_of_issues h, watch_of_unwatched (unwatched_of_laneRow hrow), reading_of_unpopped hpop, hops,
      putV_begin_of_write hst hwrite hspace hvd (heq (cur s).regs)]
  · rw [hsame.tail]
    show tailOf s [i] = none
    simp [tailOf, hpop]
  · rw [cur, hsame.core, hsame.ctx, hsame.ctxAt]
    exact (cur_modCur ..).trans (by rw [hcur])
  · rw [modCur_core, begin_core, List.foldl_map, (congrArg Core.tcm (hkept s.core) :)] at htcm
    exact htcm

end
end Sys2Proof.Machine

namespace Sys2Proof
open Machine

/-- Settles O22: the pushed beat is stored element after element, none of which has a fault (`pushLocal_stores`), and its
stream's count and FRM's flags are all else that changes (`issue_write`). -/
theorem boundWritesPushOneBeat : Obligations.BoundWritesPushOneBeat := by
  intro s i gp rd g eng st hrow h hst hwrite hspace hvd hfault out x
  obtain ⟨u, w, hexec, hsame, htail, hcur, htcm⟩ := issue_write hrow h hst hwrite hspace hvd hfault
  obtain ⟨-, ecores, eothers, eown⟩ := endBundle_kept u
  obtain ⟨hunits, hcores, hothers, -⟩ := begin_kept s i
  obtain ⟨-, mcores, mothers⟩ := modCur_kept (begin s [i]) (pushCtx s eng st (rp (cur s).regs gp.toNat) (g (cur s).regs))
  have hclusters : u.clusters = s.clusters :=
    (congrArg State.clusters hsame.units :).trans (congrArg State.clusters hunits :)
  have hcore : u.core = s.core := hsame.core.trans (begin_core s i)
  have hctx : u.ctx = s.ctx := hsame.ctx.trans (begin_ctx s i)
  have hnow : now s (endBundle u) = endCtx none (pushCtx s eng st (rp (cur s).regs gp.toNat) (g (cur s).regs)
      { cur s with npc := (cur s).pc + 8, fwd := w }) := by
    rw [now, ← hcore, ← hctx, eown, htail, hcur]
  refine ⟨endBundle u, hexec, ⟨?_, ?_, rfl, rfl⟩, ?_, ?_, ?_, fun n _ => ?_, ?_, fun n _ => .inr ?_, ?_, ?_, ?_, fun n => ?_,
    fun n => ?_, fun n k hne => ?_, ?_⟩
  · rw [hnow]; rfl
  · rw [hnow]; rfl
  · exact (congrArg Core.tcm (ecores s.core) :).trans htcm
  · rw [hnow]; rfl
  · rw [Flagged, hnow]; rfl
  · rw [hnow]; exact ⟨rfl, rfl⟩
  · rw [KeptV, hnow]; exact ⟨rfl, rfl⟩
  · rw [hnow]; rfl
  · rw [KeptAcc, hnow]; rfl
  · rw [KeptCr, hnow]; exact ⟨rfl, rfl, rfl, rfl, rfl, rfl, rfl⟩
  · exact (congrArg (fun x : State =>
      { x with cores := s.cores, clusters := s.clusters, latch := s.latch, tail := s.tail }) hsame.units :).trans
      (congrArg (fun x : State => { x with clusters := s.clusters }) hunits :)
  · exact (congrArg (fun c : Core => { c with tcm := [] }) (ecores n) :).trans
      ((congrArg (fun c : Core => { c with ctxs := [] }) (hsame.cores n) :).trans
        (congrArg (fun c : Core => { c with tcm := [] }) ((mcores n).trans (hcores n)) :))
  · rw [cluAt, show (endBundle u).clusters = s.clusters from hclusters]
    rfl
  · rw [eothers n k (by rw [hcore, hctx]; exact hne), hsame.ctxAt, mothers n k (by rw [begin_core, begin_ctx]; exact hne)]
    exact hothers n k hne
  · rw [KeptCtx, hnow]; rfl

end Sys2Proof

/-! # Integer instructions (R99 to R105) -/

/-! ## Results of two registers (R100 to R102) -/

namespace Sys2Proof.Machine
section
variable (a b : Dword) (n : Nat)

theorem shl_eq : shl a n = BitVec.ofNat 64 (a.toNat * 2 ^ n) := by
  apply BitVec.eq_of_toNat_eq
  rw [shl, BitVec.toNat_shiftLeft, BitVec.toNat_ofNat, Nat.shiftLeft_eq]
theorem shr_eq : shr a n = BitVec.ofNat 64 (a.toNat / 2 ^ n) := by
  apply BitVec.eq_of_toNat_eq
  rw [shr, BitVec.toNat_ushiftRight, BitVec.toNat_ofNat, Nat.shiftRight_eq_div_pow,
    Nat.mod_eq_of_lt ((Nat.div_le_self ..).trans_lt a.isLt)]
theorem sar_eq : sar a n = BitVec.ofInt 64 (a.toInt / 2 ^ n) := by
  rw [sar, BitVec.sshiftRight, Int.shiftRight_eq_div_pow]
  norm_cast
theorem truth_sLess : truth (sLess a b) = if a.toInt < b.toInt then 1 else 0 := by simp only [truth, sLess, decide_eq_true_eq]
theorem truth_uLess : truth (uLess a b) = if a.toNat < b.toNat then 1 else 0 := by simp only [truth, uLess, decide_eq_true_eq]
theorem sMin_eq : (if sLess b a then b else a) = BitVec.ofInt 64 (min a.toInt b.toInt) := by
  simp only [sLess, decide_eq_true_eq]
  split
  · next h => rw [min_eq_right h.le, BitVec.ofInt_toInt]
  · next h => rw [min_eq_left (not_lt.mp h), BitVec.ofInt_toInt]
theorem sMax_eq : (if sLess a b then b else a) = BitVec.ofInt 64 (max a.toInt b.toInt) := by
  simp only [sLess, decide_eq_true_eq]
  split
  · next h => rw [max_eq_right h.le, BitVec.ofInt_toInt]
  · next h => rw [max_eq_left (not_lt.mp h), BitVec.ofInt_toInt]
theorem uMin_eq : (if uLess b a then b else a) = BitVec.ofNat 64 (min a.toNat b.toNat) := by
  simp only [uLess, decide_eq_true_eq]
  split
  · next h => rw [min_eq_right h.le, BitVec.ofNat_toNat, BitVec.setWidth_eq]
  · next h => rw [min_eq_left (not_lt.mp h), BitVec.ofNat_toNat, BitVec.setWidth_eq]
theorem uMax_eq : (if uLess a b then b else a) = BitVec.ofNat 64 (max a.toNat b.toNat) := by
  simp only [uLess, decide_eq_true_eq]
  split
  · next h => rw [max_eq_right h.le, BitVec.ofNat_toNat, BitVec.setWidth_eq]
  · next h => rw [max_eq_left (not_lt.mp h), BitVec.ofNat_toNat, BitVec.setWidth_eq]
theorem mul_eq_ofNat : a * b = BitVec.ofNat 64 (a.toNat * b.toNat) := by
  rw [BitVec.ofNat_mul, BitVec.ofNat_toNat, BitVec.ofNat_toNat, BitVec.setWidth_eq, BitVec.setWidth_eq]
theorem mulHighU_eq : mulHighU a b = BitVec.extractLsb' 64 64 (BitVec.ofNat 128 (a.toNat * b.toNat)) := by
  apply BitVec.eq_of_toNat_eq
  have hprod : a.toNat * b.toNat < 2 ^ 64 * 2 ^ 64 := Nat.mul_lt_mul'' a.isLt b.isLt
  rw [mulHighU, dn, BitVec.extractLsb'_toNat, BitVec.toNat_ofNat, BitVec.toNat_ofNat, Nat.shiftRight_eq_div_pow,
    Nat.mod_eq_of_lt (hprod.trans_eq (by norm_num))]
theorem mulHigh_eq : mulHigh a b = BitVec.extractLsb' 64 64 (BitVec.ofInt 128 (a.toInt * b.toInt)) := by
  apply BitVec.eq_of_toNat_eq
  rw [mulHigh, dw, BitVec.extractLsb'_toNat, BitVec.toNat_ofInt, BitVec.toNat_ofInt, Nat.shiftRight_eq_div_pow]
  generalize a.toInt * b.toInt = p
  omega
theorem addsh_eq : a + shl b n = BitVec.ofNat 64 (a.toNat + b.toNat * 2 ^ n) := by
  rw [shl_eq, BitVec.ofNat_add, BitVec.ofNat_toNat, BitVec.setWidth_eq]
end

/-! ### Division (R101) -/

/-- Magnitudes and signs give the division that rounds toward zero (R101). -/
theorem quotient_eq_tdiv (x y : Int) : quotient x y = x.tdiv y := by
  have hneg (n : Nat) : Int.negSucc n < 0 := Int.negSucc_lt_zero n
  have hpos (n : Nat) : ¬ Int.ofNat n < 0 := not_lt.mpr (Int.natCast_nonneg n)
  unfold quotient
  cases x <;> cases y
  case ofNat.ofNat | negSucc.negSucc => exact if_pos (by simp only [hneg, hpos])
  case ofNat.negSucc | negSucc.ofNat =>
    exact if_neg (by simp only [hneg, hpos, eq_iff_iff, iff_true, iff_false, not_true, not_false_iff])
/-- Its remainder. -/
theorem remainder_eq_tmod (x y : Int) : remainder x y = x.tmod y := by
  have hneg (n : Nat) : Int.negSucc n < 0 := Int.negSucc_lt_zero n
  have hpos (n : Nat) : ¬ Int.ofNat n < 0 := not_lt.mpr (Int.natCast_nonneg n)
  unfold remainder
  cases x <;> cases y
  case ofNat.ofNat | ofNat.negSucc => exact if_neg (hpos _)
  case negSucc.ofNat | negSucc.negSucc => exact if_pos (hneg _)

theorem divS_eq (a b : Dword) : divS a b = if b = 0 then 0xFFFFFFFFFFFFFFFF
    else if a = 0x8000000000000000 ∧ b = 0xFFFFFFFFFFFFFFFF then 0x8000000000000000
    else BitVec.ofInt 64 (quotient a.toInt b.toInt) := by
  unfold divS
  split
  · rfl
  · split
    · next h => rw [h.1, h.2]; rfl
    · rw [quotient_eq_tdiv, dw]
theorem remS_eq (a b : Dword) : remS a b = if b = 0 then a
    else if a = 0x8000000000000000 ∧ b = 0xFFFFFFFFFFFFFFFF then 0
    else BitVec.ofInt 64 (remainder a.toInt b.toInt) := by
  unfold remS
  split
  · rfl
  · split
    · next h => rw [h.1, h.2]; rfl
    · rw [remainder_eq_tmod, dw]

end Sys2Proof.Machine

/-! ## Bits by place (R103) -/

namespace Sys2Proof.Machine

theorem leastBit_of_none {p : Nat → Bool} {n : Nat} (h : ∀ j < n, p j = false) : leastBit p n = n := by
  induction n with
  | zero => rfl
  | succ n ih => simp [leastBit, ih fun j hj => h j (by omega), h n (by omega)]
theorem leastBit_eq {p : Nat → Bool} {n k : Nat} (hk : k < n) (hp : p k = true) (hlow : ∀ j < k, p j = false) :
    leastBit p n = k := by
  induction n with
  | zero => omega
  | succ n ih =>
    rcases Nat.lt_succ_iff_lt_or_eq.mp hk with hlt | rfl
    · simp [leastBit, ih hlt, hlt]
    · simp [leastBit, leastBit_of_none hlow, hp]
theorem leastBit_eq_headD (p : Nat → Bool) (n : Nat) : leastBit p n = ((List.range n).filter p).headD n := by
  induction n with
  | zero => rfl
  | succ n ih =>
    rw [leastBit, ih, List.range_succ, List.filter_append]
    cases hl : (List.range n).filter p with
    | nil => by_cases hp : p n = true <;> simp [hp]
    | cons k l =>
      have hk : k < n := List.mem_range.mp (List.mem_of_mem_filter (hl ▸ List.mem_cons_self))
      simp [hk]
theorem ctz_eq (a : Dword) : ctz a = BitVec.ofNat 64 ((onesOf a).headD 64) := congrArg dn (leastBit_eq_headD ..)
theorem clz_eq (a : Dword) : clz a = if a = 0 then 64 else BitVec.ofNat 64 (63 - Nat.log2 a.toNat) := by
  split
  · next h => exact congrArg dn (leastBit_of_none fun j _ => by rw [h]; exact BitVec.getLsbD_zero)
  · next h =>
    have h0 : a.toNat ≠ 0 := fun h0 => h (BitVec.eq_of_toNat_eq h0)
    have hlog : Nat.log2 a.toNat < 64 := (Nat.log2_lt h0).mpr a.isLt
    refine congrArg dn (leastBit_eq (by omega) ?_ fun j hj => ?_)
    · rw [show 63 - (63 - Nat.log2 a.toNat) = Nat.log2 a.toNat by omega]
      exact Nat.testBit_log2 h0
    · exact Nat.testBit_lt_two_pow (((Nat.log2_lt h0).mp (by omega) : a.toNat < 2 ^ (63 - j)))

/-- The places of the 1 bits of a mask below n, ascending. -/
def onesBelow (b : Dword) (n : Nat) : List Nat := (List.range n).filter b.getLsbD
theorem onesBelow_succ (b : Dword) (n : Nat) :
    onesBelow b (n + 1) = onesBelow b n ++ if b.getLsbD n then [n] else [] := by
  rw [onesBelow, List.range_succ, List.filter_append, List.filter_cons, List.filter_nil]
  rfl
theorem filter_lt_onesOf (b : Dword) {i : Nat} (hi : i ≤ 64) : (onesOf b).filter (· < i) = onesBelow b i := by
  have hrange : (List.range 64).filter (· < i) = List.range i := by
    obtain ⟨n, hn⟩ := Nat.exists_eq_add_of_le hi
    rw [hn, List.range_add, List.filter_append, List.filter_eq_self.mpr (by simp), List.filter_eq_nil_iff.mpr (by simp),
      List.append_nil]
  rw [onesOf, List.filter_comm, hrange]
  rfl
theorem popcount_eq (a : Dword) (n : Nat) : popcount a.toNat n = (onesBelow a n).length := by
  induction n with
  | zero => rfl
  | succ n ih =>
    rw [popcount, onesBelow_succ, List.length_append, ih, BitVec.getLsbD, Nat.testBit_eq_decide_div_mod_eq]
    rcases Nat.mod_two_eq_zero_or_one (a.toNat / 2 ^ n) with h | h <;> simp [h]
theorem popc_eq (a : Dword) : popc a = BitVec.ofNat 64 (onesOf a).length := congrArg dn (popcount_eq a 64)

/-- A bit put above the bits of a number. -/
theorem testBit_add_bit {v n : Nat} (hv : v < 2 ^ n) (b : Bool) (k : Nat) :
    (v + bit01 b * 2 ^ n).testBit k = if k = n then b else v.testBit k := by
  rw [Nat.add_comm, Nat.mul_comm, Nat.testBit_two_pow_mul_add _ hv]
  rcases Nat.lt_trichotomy k n with hlt | rfl | hgt
  · rw [if_pos hlt, if_neg hlt.ne]
  · cases b <;> simp [bit01]
  · have hbit : (bit01 b).testBit (k - n) = false := by
      refine Nat.testBit_lt_two_pow ?_
      have : 2 ^ 1 ≤ 2 ^ (k - n) := Nat.pow_le_pow_right (by omega) (by omega)
      cases b <;> simp only [bit01, Bool.false_eq_true, if_true, if_false] <;> omega
    rw [if_neg (by omega), if_neg hgt.ne', hbit, Nat.testBit_lt_two_pow (hv.trans (Nat.pow_lt_pow_right (by omega) hgt))]
theorem add_bit_lt {v n : Nat} (hv : v < 2 ^ n) (b : Bool) : v + bit01 b * 2 ^ n < 2 ^ (n + 1) := by
  rw [pow_succ]
  cases b <;> simp [bit01] <;> omega
/-- The number whose bit i is f i, below n. -/
theorem testBit_sum_bits (f : Nat → Bool) (n : Nat) : ((List.range n).map fun i => if f i then 2 ^ i else 0).sum < 2 ^ n ∧
      ∀ k < n, (((List.range n).map fun i => if f i then 2 ^ i else 0).sum).testBit k = f k := by
  induction n with
  | zero => exact ⟨Nat.one_pos, nofun⟩
  | succ n ih =>
    obtain ⟨hlt, hbits⟩ := ih
    have hsum : ((List.range (n + 1)).map fun i => if f i then 2 ^ i else 0).sum =
        ((List.range n).map fun i => if f i then 2 ^ i else 0).sum + bit01 (f n) * 2 ^ n := by
      rw [List.range_succ, List.map_append, List.sum_append, List.map_cons, List.map_nil, List.sum_singleton]
      cases f n <;> simp [bit01]
    rw [hsum]
    refine ⟨add_bit_lt hlt _, fun k hk => ?_⟩
    rw [testBit_add_bit hlt]
    split
    · next h => rw [h]
    · next h => exact hbits k (by omega)
theorem getLsbD_dwordOf (f : Nat → Bool) {k : Nat} (hk : k < 64) : (dwordOf f).getLsbD k = f k := by
  rw [dwordOf, BitVec.getLsbD_ofNat, decide_eq_true hk, Bool.true_and, (testBit_sum_bits f 64).2 k hk]
/-- BEXT's bits below n of the mask: as many as the mask has there, in its order (R103). -/
theorem extractBits_eq (a b : Dword) (n : Nat) :
    (extractBits a b n).2 = (onesBelow b n).length ∧ (extractBits a b n).1 < 2 ^ (onesBelow b n).length ∧
    ∀ k, (extractBits a b n).1.testBit k = match (onesBelow b n)[k]? with | some i => a.getLsbD i | none => false := by
  induction n with
  | zero => exact ⟨rfl, Nat.one_pos, fun k => Nat.zero_testBit k⟩
  | succ n ih =>
    obtain ⟨hlen, hlt, hbits⟩ := ih
    rw [extractBits, onesBelow_succ]
    split
    · rw [List.length_append, hlen]
      refine ⟨rfl, add_bit_lt hlt _, fun k => ?_⟩
      rw [testBit_add_bit hlt, hbits]
      rcases Nat.lt_trichotomy k (onesBelow b n).length with hk | rfl | hk
      · rw [if_neg hk.ne, List.getElem?_append_left hk]
      · simp
      · rw [if_neg hk.ne', List.getElem?_eq_none hk.le, List.getElem?_eq_none (by rw [List.length_append]; exact hk)]
    · simpa using ⟨hlen, hlt, hbits⟩
/-- BDEP's bits below n: each at a place of the mask, taken in order from the low end (R103). -/
theorem depositBits_eq (a b : Dword) (n : Nat) :
    (depositBits a b n).2 = (onesBelow b n).length ∧ (depositBits a b n).1 < 2 ^ n ∧
    ∀ k < n, (depositBits a b n).1.testBit k = (b.getLsbD k && a.getLsbD (onesBelow b k).length) := by
  induction n with
  | zero => exact ⟨rfl, Nat.one_pos, nofun⟩
  | succ n ih =>
    obtain ⟨hlen, hlt, hbits⟩ := ih
    rw [depositBits, onesBelow_succ]
    split
    · next hn =>
      refine ⟨by simp [hlen], add_bit_lt hlt _, fun k hk => ?_⟩
      rw [testBit_add_bit hlt, hlen]
      split
      · next h => rw [h, hn, Bool.true_and]
      · next h => exact hbits k (by omega)
    · next hn =>
      refine ⟨by simp [hlen], hlt.trans (Nat.pow_lt_pow_right (by omega) (by omega)), fun k hk => ?_⟩
      rcases Nat.lt_succ_iff_lt_or_eq.mp hk with h | rfl
      · exact hbits k h
      · rw [Nat.testBit_lt_two_pow hlt, Bool.eq_false_iff.mpr hn, Bool.false_and]
theorem bext_eq (a b : Dword) : bext a b =
    dwordOf fun k => match (onesOf b)[k]? with | some i => a.getLsbD i | none => false := by
  apply BitVec.eq_of_getLsbD_eq
  intro k hk
  obtain ⟨-, -, hbits⟩ := extractBits_eq a b 64
  rw [getLsbD_dwordOf _ hk, bext, dn, BitVec.getLsbD_ofNat, decide_eq_true hk, Bool.true_and, hbits]
  rfl
theorem bdep_eq (a b : Dword) : bdep a b =
    dwordOf fun i => b.getLsbD i && a.getLsbD ((onesOf b).filter (· < i)).length := by
  apply BitVec.eq_of_getLsbD_eq
  intro k hk
  obtain ⟨-, -, hbits⟩ := depositBits_eq a b 64
  rw [getLsbD_dwordOf _ hk, bdep, dn, BitVec.getLsbD_ofNat, decide_eq_true hk, Bool.true_and, hbits k hk, filter_lt_onesOf b hk.le]

end Sys2Proof.Machine

/-! ## Immediates (R104, R105) -/

namespace Sys2Proof.Machine

theorem immI_eq (f : FmtI) : immI f = if f.lit = 0 then f.imm.signExtend 64 else f.lit.signExtend 64 := by
  rw [immI, offset_eq, BitVec.ofNat_eq_ofNat, BitVec.mul_one]
theorem immU_eq (f : FmtU) : immU f = if f.lit = 0 then f.imm.signExtend 64 else f.lit.signExtend 64 := by
  rw [immU, offset_eq, BitVec.ofNat_eq_ofNat, BitVec.mul_one]
/-- LIH keeps the low half of rd (R105). -/
theorem lih_eq (x : Dword) (h : Word) : dn (x.toNat % 2 ^ 32 + h.toNat * 2 ^ 32) = h ++ x.setWidth 32 := by
  apply BitVec.eq_of_toNat_eq
  have hx : x.toNat % 2 ^ 32 < 2 ^ 32 := Nat.mod_lt _ (by omega)
  rw [dn, BitVec.toNat_ofNat, BitVec.toNat_append, BitVec.toNat_setWidth, ← Nat.shiftLeft_add_eq_or_of_lt hx,
    Nat.shiftLeft_eq, Nat.add_comm]
  omega

end Sys2Proof.Machine

/-! ## What the rows write (R99) -/

namespace Sys2Proof.Machine
section
variable {s : State} {i : Instr} {gp gp' : BitVec 2} {rd : BitVec 6} {f : FmtR} {fi : FmtI} {g : Regs → Dword}

/-- The instruction issues, and its effect writes x[rd] with the value of g on the x and predicate registers read; it
reads no v register and accesses no memory (R99). -/
structure WritesX (i : Instr) (gp : BitVec 2) (rd : BitVec 6) (g : Regs → Dword) : Prop where
  exec     : ∀ s, exec i s = issue s i fun u => putX u gp rd (g (ops u))
  lanes    : ∀ r v, g { r with v := v } = g r
  noVector : vReads i = []
  noSpan   : ∀ r, (watchSpan r i).1 = []

/-- A value of x and predicate registers is that of the operands read (R83). -/
theorem eq_of_lanes {α : Type} {g : Regs → α} (h : ∀ r v, g { r with v := v } = g r) (s : State) :
    g (snapshot s) = g (cur s).regs := by
  rw [← h (snapshot s) (cur s).regs.v, snapshot_regs]
theorem WritesX.issues (h : WritesX i gp rd g) (hi : Issues s i) :
    ∃ t, Machine.exec i s = .next t ∧ WroteX s t (onBit s gp) rd (g (cur s).regs) ∧ Flagged s t false 0 ∧ OnlyX s t := by
  rw [h.exec]
  exact issue_putX hi (h.noSpan _) (popped_of_no_vector h.noVector) gp rd _ _
    (by rw [ops_begin, eq_of_lanes h.lanes])

/-- An operation on two registers that agrees with its row's; callers name `op` where it is no constant, so that Lean need
not search for it. -/
theorem writesX_of_intRR {op row : Dword → Dword → Dword} (hexec : ∀ s, exec i s = intRR s i gp f op)
    (heq : ∀ a b, op a b = row a b) (h : rowR gp f row = some (gp', rd, g)) (hvec : vReads i = [] := by exact rfl)
    (hspan : ∀ r, (watchSpan r i).1 = [] := by exact fun _ => rfl) : WritesX i gp' rd g := by
  obtain rfl : op = row := funext₂ heq
  cases h
  exact ⟨hexec, fun _ _ => rfl, hvec, hspan⟩
/-- An operation on a register and an immediate. -/
theorem writesX_of_intRI {op row : Dword → Dword → Dword} (hexec : ∀ s, exec i s = intRI s i gp fi op)
    (heq : ∀ a b, op a b = row a b) (h : rowI gp fi row = some (gp', rd, g)) (hvec : vReads i = [] := by exact rfl)
    (hspan : ∀ r, (watchSpan r i).1 = [] := by exact fun _ => rfl) : WritesX i gp' rd g := by
  obtain rfl : op = row := funext₂ heq
  cases h
  refine ⟨fun s => ?_, fun _ _ => rfl, hvec, hspan⟩
  simp only [hexec, intRI, immI_eq]
/-- A shift by a constant. -/
theorem writesX_of_intShift {op row : Dword → Nat → Dword} (hexec : ∀ s, exec i s = intShift s i gp fi op)
    (heq : ∀ a n, op a n = row a n) (hvec : vReads i = [] := by exact rfl)
    (hspan : ∀ r, (watchSpan r i).1 = [] := by exact fun _ => rfl) :
    WritesX i gp fi.rd fun r => row (rx r fi.rs1.toNat) fi.imm.toNat := by
  obtain rfl : op = row := funext₂ heq
  exact ⟨hexec, fun _ _ => rfl, hvec, hspan⟩

theorem writesX_of_integerRow (h : integerRow i = some (gp, rd, g)) : WritesX i gp rd g := by
  cases i with
  | add | sub | and | or | xor => exact writesX_of_intRR (fun _ => rfl) (fun _ _ => rfl) h
  | sll => exact writesX_of_intRR (op := fun a b => shl a (shiftCount b)) (fun _ => rfl) (fun a b => shl_eq a (b.toNat % 64)) h
  | srl => exact writesX_of_intRR (op := fun a b => shr a (shiftCount b)) (fun _ => rfl) (fun a b => shr_eq a (b.toNat % 64)) h
  | sra => exact writesX_of_intRR (op := fun a b => sar a (shiftCount b)) (fun _ => rfl) (fun a b => sar_eq a (b.toNat % 64)) h
  | slt => exact writesX_of_intRR (op := fun a b => truth (sLess a b)) (fun _ => rfl) truth_sLess h
  | sltu => exact writesX_of_intRR (op := fun a b => truth (uLess a b)) (fun _ => rfl) truth_uLess h
  | min => exact writesX_of_intRR (op := fun a b => if sLess b a then b else a) (fun _ => rfl) sMin_eq h
  | max => exact writesX_of_intRR (op := fun a b => if sLess a b then b else a) (fun _ => rfl) sMax_eq h
  | minu => exact writesX_of_intRR (op := fun a b => if uLess b a then b else a) (fun _ => rfl) uMin_eq h
  | maxu => exact writesX_of_intRR (op := fun a b => if uLess a b then b else a) (fun _ => rfl) uMax_eq h
  | mul => exact writesX_of_intRR (fun _ => rfl) mul_eq_ofNat h
  | mulh => exact writesX_of_intRR (fun _ => rfl) mulHigh_eq h
  | mulhu => exact writesX_of_intRR (fun _ => rfl) mulHighU_eq h
  | _ => nomatch h
theorem writesX_of_divisionRow (h : divisionRow i = some (gp, rd, g)) : WritesX i gp rd g := by
  cases i with
  | div => exact writesX_of_intRR (fun _ => rfl) divS_eq h
  | rem => exact writesX_of_intRR (fun _ => rfl) remS_eq h
  | divu | remu => exact writesX_of_intRR (fun _ => rfl) (fun _ _ => rfl) h
  | _ => nomatch h
theorem writesX_of_bitRow (h : bitRow i = some (gp, rd, g)) : WritesX i gp rd g := by
  cases i with
  | addsh _ f =>
    exact writesX_of_intRR (op := fun a b => a + shl b f.func.toNat) (fun _ => rfl) (fun a b => addsh_eq a b f.func.toNat) h
  | sel => cases h; exact ⟨fun _ => rfl, fun _ _ => rfl, rfl, fun _ => rfl⟩
  | clz => exact writesX_of_intRR (op := fun a _ => clz a) (fun _ => rfl) (fun a _ => clz_eq a) h
  | ctz => exact writesX_of_intRR (op := fun a _ => ctz a) (fun _ => rfl) (fun a _ => ctz_eq a) h
  | popc => exact writesX_of_intRR (op := fun a _ => popc a) (fun _ => rfl) (fun a _ => popc_eq a) h
  | bext => exact writesX_of_intRR (fun _ => rfl) bext_eq h
  | bdep => exact writesX_of_intRR (fun _ => rfl) bdep_eq h
  | _ => nomatch h
theorem writesX_of_immediateRow (h : immediateRow i = some (gp, rd, g)) : WritesX i gp rd g := by
  cases i with
  | addi | andi | ori | xori => exact writesX_of_intRI (fun _ => rfl) (fun _ _ => rfl) h
  | slti => exact writesX_of_intRI (op := fun a b => truth (sLess a b)) (fun _ => rfl) truth_sLess h
  | sltiu => exact writesX_of_intRI (op := fun a b => truth (uLess a b)) (fun _ => rfl) truth_uLess h
  | slli => cases h; exact writesX_of_intShift (fun _ => rfl) shl_eq
  | srli => cases h; exact writesX_of_intShift (fun _ => rfl) shr_eq
  | srai => cases h; exact writesX_of_intShift (fun _ => rfl) sar_eq
  | li => cases h; exact ⟨fun _ => by rw [← immU_eq]; rfl, fun _ _ => rfl, rfl, fun _ => rfl⟩
  | lih _ f =>
    cases h
    refine ⟨fun _ => ?_, fun _ _ => rfl, rfl, fun _ => rfl⟩
    simp only [← lih_eq]
    rfl
  | _ => nomatch h

end
end Sys2Proof.Machine

namespace Sys2Proof
open Machine

/-- Settles O8, by the one rule for an instruction whose effect writes an x register (`WritesX.issues`), which the
instructions of each table meet. -/
theorem integerInstructionsGiveTheirRows : Obligations.IntegerInstructionsGiveTheirRows := by
  rintro s i gp rd g (hrow | hrow | hrow | hrow) h
  · exact (writesX_of_integerRow hrow).issues h
  · exact (writesX_of_divisionRow hrow).issues h
  · exact (writesX_of_bitRow hrow).issues h
  · exact (writesX_of_immediateRow hrow).issues h

end Sys2Proof

/-! # Values of floating arithmetic (R109, R111) -/

namespace Sys2Proof.Machine
section
variable {s t a b : Bool} {m n : Nat} {e g lo : Int}

/-- A finite number's signed multiple of 2^lo. -/
def signedMan (s : Bool) (m : Nat) (e lo : Int) : Int :=
  if s then -(m * 2 ^ (e - lo).toNat : Nat) else (m * 2 ^ (e - lo).toNat : Nat)
theorem realOf_fin (h : lo ≤ e) : realOf (.fin s m e a) = (signedMan s m e lo : Rat) * 2 ^ lo := by
  have hpow : (2 : Rat) ^ e = 2 ^ (e - lo).toNat * 2 ^ lo := by
    rw [← zpow_natCast, ← zpow_add₀ (by norm_num), Int.toNat_of_nonneg (by omega)]
    congr 1
    omega
  rw [realOf, hpow, signedMan]
  cases s <;> simp <;> ring

/-! ### Sums, products, quotients and roots (R109) -/

theorem abs_realOf (s : Bool) (m : Nat) (e : Int) (a : Bool) : (realOf (.fin s m e a)).abs = (m : Rat) * 2 ^ e := by
  have hnn : (0 : Rat) ≤ (m : Rat) * 2 ^ e := by positivity
  rw [Rat.abs, realOf]
  cases s
  · rw [if_neg Bool.false_ne_true, one_mul, if_pos hnn]
  · rw [if_pos rfl, neg_one_mul, neg_mul, neg_neg]
    split
    · next h => linarith
    · rfl

theorem realOf_addF (rdn : Bool) :
    realOf (addF rdn (.exact s m e) (.exact t n g)) = realOf (.exact s m e) + realOf (.exact t n g) := by
  unfold FVal.exact
  rw [realOf_fin (min_le_left e g), realOf_fin (min_le_right e g), ← add_mul, ← Int.cast_add]
  have hsum : addF rdn (.fin s m e false) (.fin t n g false) =
      if signedMan s m e (min e g) + signedMan t n g (min e g) = 0 then .exact (if s = t then s else rdn) 0 0
      else .fin (decide (signedMan s m e (min e g) + signedMan t n g (min e g) < 0))
        (signedMan s m e (min e g) + signedMan t n g (min e g)).natAbs (min e g) false := by
    simp [addF, signedMan]
  rw [hsum]
  generalize signedMan s m e (min e g) + signedMan t n g (min e g) = z
  split
  · next h => simp [h, FVal.exact, realOf]
  · rw [realOf_fin le_rfl, signedMan, Int.sub_self]
    congr 2
    simp only [Int.toNat_zero, pow_zero, mul_one, decide_eq_true_eq]
    omega
theorem realOf_mulF : realOf (mulF (.exact s m e) (.exact t n g)) = realOf (.exact s m e) * realOf (.exact t n g) := by
  simp only [FVal.exact, mulF, realOf, zpow_add₀ (two_ne_zero (α := Rat)), Nat.cast_mul]
  cases s <;> cases t <;> simp <;> ring

/-- A quotient of numbers and a power of two lies at or above its whole part, by less than a step (R109). -/
theorem divFin_brackets (h : n ≠ 0) : ∃ q k up, divFin s m e n g = .fin s q k up ∧
    (q : Rat) * 2 ^ k ≤ (m * 2 ^ e) / (n * 2 ^ g) ∧ (m * 2 ^ e) / (n * 2 ^ g) < ((q : Rat) + 1) * 2 ^ k ∧
    (up = true ↔ (q : Rat) * 2 ^ k ≠ (m * 2 ^ e) / (n * 2 ^ g)) := by
  have hn : (0 : Rat) < n := by exact_mod_cast Nat.pos_of_ne_zero h
  by_cases hm : m = 0
  · exact ⟨0, 0, false, by simp [divFin, hm, FVal.exact], by simp [hm], by simp [hm], by simp [hm]⟩
  · generalize hK : 96 + ilog2 n = K
    generalize hx : m * 2 ^ K = x
    refine ⟨x / n, e - g - K, x / n * n != x, by simp only [divFin, if_neg hm, hK, hx], ?_⟩
    have hstep : (0 : Rat) < 2 ^ (e - g - K) := by positivity
    have hval : (m * 2 ^ e : Rat) / (n * 2 ^ g) = x / n * 2 ^ (e - g - K) := by
      have hpow : (2 : Rat) ^ e = 2 ^ K * 2 ^ (e - g - K) * 2 ^ g := by
        rw [← zpow_natCast, ← zpow_add₀ (by norm_num), ← zpow_add₀ (by norm_num)]
        congr 1
        omega
      rw [hpow, ← hx]
      push_cast
      field_simp
    have hle : ((x / n : Nat) : Rat) * n ≤ x := by exact_mod_cast Nat.div_mul_le_self x n
    have hlt : (x : Rat) < ((x / n : Nat) + 1) * n := by
      have := Nat.lt_div_mul_add (a := x) (Nat.pos_of_ne_zero h)
      rw [add_mul, one_mul]
      exact_mod_cast this
    rw [hval]
    refine ⟨mul_le_mul_of_nonneg_right ((le_div_iff₀ hn).mpr hle) hstep.le,
      mul_lt_mul_of_pos_right ((div_lt_iff₀ hn).mpr hlt) hstep, ?_⟩
    rw [bne_iff_ne, ne_eq, ne_eq, mul_left_inj' hstep.ne', eq_div_iff hn.ne']
    norm_cast

/-- `isqrt` is the whole root of a number below 4^k. -/
theorem isqrt_spec (k : Nat) : ∀ n, n < 4 ^ k → isqrt n k * isqrt n k ≤ n ∧ n < (isqrt n k + 1) * (isqrt n k + 1) := by
  induction k with
  | zero =>
    intro n h
    rw [pow_zero, Nat.lt_one_iff] at h
    rw [h]
    decide
  | succ k ih =>
    intro n h
    obtain ⟨hle, hlt⟩ := ih (n / 4) (by rw [pow_succ] at h; omega)
    have hdiv : 4 * (n / 4) ≤ n ∧ n < 4 * (n / 4) + 4 := by omega
    simp only [isqrt]
    generalize isqrt (n / 4) k = r at hle hlt
    split
    · next hr => exact ⟨hr, by nlinarith⟩
    · next hr =>
      rw [Nat.add_sub_cancel]
      exact ⟨by nlinarith, not_le.mp hr⟩
theorem isqrt_brackets (n : Nat) : let r := isqrt n (ilog2 n / 2 + 1)
    r * r ≤ n ∧ n < (r + 1) * (r + 1) := by
  refine isqrt_spec _ n ?_
  calc n < 2 ^ (ilog2 n + 1) := Nat.lt_log2_self
    _ ≤ 2 ^ (2 * (ilog2 n / 2 + 1)) := Nat.pow_le_pow_right (by omega) (by omega)
    _ = 4 ^ (ilog2 n / 2 + 1) := by rw [pow_mul]; norm_num

/-- The root of a number and an even power of two, by the number's whole root. -/
theorem root_brackets {n r : Nat} (hr : r * r ≤ n ∧ n < (r + 1) * (r + 1)) {k : Int} {v : Rat} (hv : v = n * (2 ^ k) ^ 2) :
    ((r : Rat) * 2 ^ k) ^ 2 ≤ v ∧ v < (((r : Rat) + 1) * 2 ^ k) ^ 2 ∧ ((r * r != n) = true ↔ ((r : Rat) * 2 ^ k) ^ 2 ≠ v) := by
  obtain ⟨hle, hlt⟩ := hr
  have hstep : (0 : Rat) < (2 ^ k) ^ 2 := by positivity
  rw [hv, mul_pow, mul_pow, mul_le_mul_iff_left₀ hstep, mul_lt_mul_iff_left₀ hstep, ne_eq, mul_left_inj' hstep.ne',
    bne_iff_ne, sq, sq]
  exact ⟨by exact_mod_cast hle, by exact_mod_cast hlt, by norm_cast⟩
theorem two_zpow_of_even {e' : Int} (he : e' % 2 = 0) : (2 : Rat) ^ e' = 2 ^ 192 * (2 ^ (e' / 2 - 96)) ^ 2 := by
  rw [← zpow_natCast (2 ^ (e' / 2 - 96)), ← zpow_mul, ← zpow_natCast 2 192, ← zpow_add₀ (by norm_num)]
  congr 1
  push_cast
  omega
/-- A root of a number and a power of two lies at or above its whole part, by less than a step (R109). -/
theorem sqrtFin_brackets (m : Nat) (e : Int) : ∃ q k up, sqrtFin m e = .fin false q k up ∧
    ((q : Rat) * 2 ^ k) ^ 2 ≤ m * 2 ^ e ∧ (m * 2 ^ e : Rat) < (((q : Rat) + 1) * 2 ^ k) ^ 2 ∧
    (up = true ↔ ((q : Rat) * 2 ^ k) ^ 2 ≠ m * 2 ^ e) := by
  by_cases hm : m = 0
  · exact ⟨0, 0, false, by simp [sqrtFin, hm, FVal.exact], by simp [hm], by simp [hm], by simp [hm]⟩
  · by_cases he : e % 2 = 0
    · refine ⟨_, e / 2 - 96, _, by simp only [sqrtFin, if_neg hm, if_pos he],
        root_brackets (isqrt_brackets (m * 2 ^ 192)) ?_⟩
      rw [two_zpow_of_even he]
      push_cast
      ring
    · refine ⟨_, (e - 1) / 2 - 96, _, by simp only [sqrtFin, if_neg hm, if_neg he],
        root_brackets (isqrt_brackets (2 * m * 2 ^ 192)) ?_⟩
      rw [← sub_add_cancel e 1, zpow_add₀ (by norm_num), two_zpow_of_even (e' := e - 1) (by omega), zpow_one, add_sub_cancel_right]
      push_cast
      ring

/-! ### Comparison (R111) -/

theorem ltFin_iff : ltFin s m e t n g = true ↔ realOf (.fin s m e a) < realOf (.fin t n g b) := by
  rw [realOf_fin (min_le_left e g), realOf_fin (min_le_right e g), mul_lt_mul_iff_left₀ (by positivity), Int.cast_lt]
  exact decide_eq_true_iff

theorem fcmp_of_fin {a b : FVal} (ha : isFin a = true) (hb : isFin b = true) :
    fcmp a b = (if realOf a < realOf b then 1 else if realOf a = realOf b then 2 else 4, 0) := by
  cases a with
  | fin s m e u =>
    cases b with
    | fin t n g v =>
      have hlt : ltF (.fin s m e u) (.fin t n g v) = true ↔ realOf (.fin s m e u) < realOf (.fin t n g v) := ltFin_iff
      have hgt : ltF (.fin t n g v) (.fin s m e u) = true ↔ realOf (.fin t n g v) < realOf (.fin s m e u) := ltFin_iff
      simp only [fcmp, FVal.isNan, FVal.isSnan, hlt, hgt, Bool.or_false, Bool.false_eq_true, if_false, fIf]
      rcases lt_trichotomy (realOf (.fin s m e u)) (realOf (.fin t n g v)) with h | h | h
      · simp only [h, if_true]
      · simp only [h, lt_irrefl, if_true, if_false]
      · simp only [h, h.not_gt, h.ne', if_true, if_false]
    | _ => cases hb
  | _ => cases ha

end
end Sys2Proof.Machine

namespace Sys2Proof
open Machine

/-- Settles O11: the sum is one of multiples of the lesser power of two (`realOf_addF`), the product that of magnitudes
and exponents, and a quotient's or root's whole part brackets it (`divFin_brackets`, `sqrtFin_brackets`). -/
theorem arithmeticIsExactBeforeRounding : Obligations.ArithmeticIsExactBeforeRounding := by
  intro s t rdn m n e g
  refine ⟨realOf_addF rdn, realOf_mulF, fun hn => ?_, ?_⟩
  · simp only [FVal.exact, abs_realOf]
    exact divFin_brackets hn
  · simp only [FVal.exact, abs_realOf]
    exact sqrtFin_brackets m e

/-- Settles O12: the order of finite operands is that of their values (`fcmp_of_fin`), every other pair is one of a few. -/
theorem compareMasksFollowTheValues : Obligations.CompareMasksFollowTheValues := by
  intro f x y _
  refine ⟨fcmp_of_fin, fun h => ?_, fun s ha hb => ?_, fun s hb ha => ?_, fun s t ha hb => ?_⟩
  · simp only [fcmp, Bool.or_eq_true, h, if_true, fIf]
  · rw [ha]
    cases hb' : decodeF f y with
    | fin => cases s <;> rfl
    | _ => simp [hb', isFin] at hb
  · rw [hb]
    cases ha' : decodeF f x with
    | fin => cases s <;> rfl
    | _ => simp [ha', isFin] at ha
  · rw [ha, hb]
    cases s <;> cases t <;> rfl

end Sys2Proof

/-! # A bundle that changes its own context alone (R83, R90, R114) -/

namespace Sys2Proof.Machine
section
variable {s t u v w : State} {i : Instr} {F G : Ctx → Ctx}

/-- `v` is `u` with the issuing context changed by F. -/
structure ActsOn (F : Ctx → Ctx) (u v : State) : Prop where
  units  : { v with cores := u.cores } = u
  cores  : KeptCores u v
  others : ∀ n k, (n, k) ≠ (u.core, u.ctx) → ctxAt v n k = ctxAt u n k
  own    : cur v = F (cur u)

namespace ActsOn

theorem core (h : ActsOn F u v) : v.core = u.core := (congrArg State.core h.units :)
theorem ctx (h : ActsOn F u v) : v.ctx = u.ctx := (congrArg State.ctx h.units :)
protected theorem refl (u : State) : ActsOn id u u := ⟨rfl, fun _ => rfl, fun _ _ _ => rfl, rfl⟩
protected theorem modCur (F : Ctx → Ctx) (u : State) : ActsOn F u (modCur u F) := by
  obtain ⟨hunits, hcores, hothers⟩ := modCur_kept u F
  exact ⟨hunits, hcores, hothers, cur_modCur u F⟩
protected theorem trans (h : ActsOn F u v) (g : ActsOn G v w) : ActsOn (G ∘ F) u w where
  units := (congrArg (fun x : State => { x with cores := u.cores }) g.units).trans h.units
  cores n := (g.cores n).trans (h.cores n)
  others n k hne := (g.others n k (by rw [h.core, h.ctx]; exact hne)).trans (h.others n k hne)
  own := g.own.trans (congrArg G h.own)
protected theorem ite {c : Prop} [Decidable c] (h : c → ActsOn F u v) (g : ¬ c → ActsOn F u w) :
    ActsOn F u (if c then v else w) := by
  split
  · next hc => exact h hc
  · next hc => exact g hc

end ActsOn

/-- The bundle has ended in `t`, its instruction having changed by F the issuing context, the next bundle of which stood
after this one, and nothing else. -/
structure Performed (F : Ctx → Ctx) (s t : State) : Prop where
  own    : ∃ w, now s t = endCtx none (F { cur s with npc := (cur s).pc + 8, fwd := w })
  latch  : t.latch = none
  tail   : t.tail = none
  units  : KeptUnits s t
  cores  : KeptCores s t
  others : KeptOthers s t

/-- An instruction that pops no beat, accesses no memory and acts on its own context (R83). -/
theorem Issues.performed (h : Issues s i) (hspan : ∀ r, (watchSpan r i).1 = []) (hp : popped s [i] = [])
    {eff : State → State} (he : ActsOn F (begin s [i]) (eff (begin s [i]))) : ∃ t, issue s i eff = .next t ∧ Performed F s t := by
  have hown : ctxAt (eff (begin s [i])) s.core s.ctx = F (ctxAt (begin s [i]) s.core s.ctx) := by
    rw [← begin_core s i, ← begin_ctx s i, ← he.core, ← he.ctx]
    exact he.own.trans (by rw [he.core, he.ctx]; rfl)
  obtain ⟨t, ht, hnow, hlatch, htail, hunits, hcores, hothers⟩ := issue_kept h (unwatched_of_span (hspan _)) hp F eff
    (congrArg (fun x : State => { x with cores := s.cores }) he.units :) he.cores
    (fun n k hne => congrArg bare (he.others n k (by rw [begin_core, begin_ctx]; exact hne))) hown
  exact ⟨t, ht, hnow, hlatch, htail, hunits, hcores, hothers⟩

/-- A context without what a scalar instruction may change of it: x registers, FRM, the next pc and values on their way. -/
def xless (c : Ctx) : Ctx :=
  { c with xp := 0, npc := 0, pend := [], regs := { c.regs with x := [], xe := 0, frm := 0 } }

namespace Performed
variable (h : Performed F s t)
include h

theorem keptMemory : KeptMemory s t := keptMemory_of_kept h.units h.cores
theorem flagged {on : Bool} {fl : Flags} (hfrm : ∀ c, (F c).regs.frm =
    if on then c.regs.frm ||| BitVec.ofNat 64 (fl.toNat * 256) else c.regs.frm) : Flagged s t on fl := by
  obtain ⟨w, hnow⟩ := h.own
  rw [Flagged, hnow]
  exact hfrm _
theorem wroteX {on : Bool} {rd : BitVec 6} {v : Dword} (hF : ∀ c n, n < 64 →
    rx (F c).regs n = (if n = rd.toNat ∧ n ≠ 0 ∧ on = true then v else rx c.regs n) ∧
    xFull (F c).regs n = (if n = rd.toNat ∧ on = true then true else xFull c.regs n)) : WroteX s t on rd v := by
  obtain ⟨w, hnow⟩ := h.own
  intro n hn
  rw [hnow]
  exact hF _ n hn
theorem keptX (hF : ∀ c, (F c).regs.x = c.regs.x ∧ (F c).regs.xe = c.regs.xe) : KeptX s t := by
  obtain ⟨w, hnow⟩ := h.own
  intro n _
  rw [hnow]
  obtain ⟨hx, hxe⟩ := hF { cur s with npc := (cur s).pc + 8, fwd := w }
  exact ⟨by rw [rx, rx, endCtx, hx], by rw [xFull, xFull, endCtx, hxe]⟩

variable (hF : ∀ c, xless (F c) = xless c)
include hF

/-- What such a bundle leaves, wherever it goes. -/
theorem frame : KeptV s t ∧ KeptP s t false ∧ KeptAcc s t ∧ KeptCr s t ∧ RegsOnly s t := by
  obtain ⟨w, hnow⟩ := h.own
  have hless := hF { cur s with npc := (cur s).pc + 8, fwd := w }
  have hregs := congrArg Ctx.regs hless
  refine ⟨?_, fun n _ => .inr ?_, ?_, ?_, h.units, h.cores, h.others, ?_⟩
  all_goals simp only [KeptV, KeptAcc, KeptCr, KeptCtx, hnow]
  · exact ⟨(congrArg Regs.v hregs :), (congrArg Regs.ve hregs :)⟩
  · exact (congrArg (fun r : Regs => rp r n) hregs :)
  · exact (congrArg Regs.acc hregs :)
  · exact ⟨(congrArg Regs.fmta hregs :), (congrArg Regs.fmtb hregs :), (congrArg Regs.fmto hregs :),
      (congrArg Regs.scla hregs :), (congrArg Regs.sclb hregs :), (congrArg Regs.mround hregs :), (congrArg Regs.npeps hregs :)⟩
  · exact (congrArg (fun c : Ctx =>
      { c with regs := {}, xp := 0, vp := 0, pc := 0, npc := 0, icount := 0, streams := [], fwd := [], pend := [] }) hless :)
theorem wentTo {pc : Nat} (hpc : ∀ w, (F { cur s with npc := (cur s).pc + 8, fwd := w }).npc = pc) : WentTo s t pc := by
  obtain ⟨w, hnow⟩ := h.own
  refine ⟨?_, ?_, h.latch, h.tail⟩
  · rw [hnow]
    exact hpc w
  · rw [hnow]
    exact (congrArg (fun c : Ctx => c.icount + 1) (hF _) :)
theorem onlyX (hpc : ∀ c, (F c).npc = c.npc) : OnlyX s t := by
  obtain ⟨hv, hp, hacc, hcr, honly⟩ := h.frame hF
  exact ⟨h.wentTo hF fun _ => hpc _, hv, hp, hacc, hcr, honly, h.keptMemory⟩

end Performed

end
end Sys2Proof.Machine

/-! # Float instructions (R107 to R114) -/

namespace Sys2Proof.Machine
section
variable {s u : State} {i : Instr} {gp gp' : BitVec 2} {rd : BitVec 6} {f : FmtR} {g : Regs → Nat → Nat × Flags}

theorem xless_writeX (c : Ctx) (n : Nat) (v : Dword) : xless (writeX c n v) = xless c := by
  unfold writeX
  split <;> rfl
theorem npc_writeX (c : Ctx) (n : Nat) (v : Dword) : (writeX c n v).npc = c.npc := by
  unfold writeX
  split <;> rfl
theorem frm_writeX (c : Ctx) (n : Nat) (v : Dword) : (writeX c n v).regs.frm = c.regs.frm := by
  unfold writeX
  split <;> rfl

/-- The x registers after an unconditional write of one (R84, R88). -/
theorem x_writeX (rd : BitVec 6) (v : Dword) (c : Ctx) {n : Nat} (hn : n < 64) :
    rx (writeX c rd.toNat v).regs n = (if n = rd.toNat ∧ n ≠ 0 ∧ true = true then v else rx c.regs n) ∧
    xFull (writeX c rd.toNat v).regs n = (if n = rd.toNat ∧ true = true then true else xFull c.regs n) := by
  simp only [and_true]
  exact ⟨rx_writeX c rd.toNat n v, xFull_writeX c v hn⟩

/-- A result and its flags written to a context where its governing predicate enables them (R114). -/
def putFloat (on : Bool) (rd : BitVec 6) (v : Nat × Flags) (c : Ctx) : Ctx :=
  if on then orFlags (writeX c rd.toNat (BitVec.ofNat 64 v.1)) v.2 else c
theorem xless_putFloat (on : Bool) (rd : BitVec 6) (v : Nat × Flags) (c : Ctx) : xless (putFloat on rd v c) = xless c := by
  unfold putFloat
  split
  · exact xless_writeX c rd.toNat _
  · rfl
theorem npc_putFloat (on : Bool) (rd : BitVec 6) (v : Nat × Flags) (c : Ctx) : (putFloat on rd v c).npc = c.npc := by
  unfold putFloat
  split
  · exact npc_writeX c rd.toNat _
  · rfl
theorem frm_putFloat (on : Bool) (rd : BitVec 6) (v : Nat × Flags) (c : Ctx) : (putFloat on rd v c).regs.frm =
    if on then c.regs.frm ||| BitVec.ofNat 64 (v.2.toNat * 256) else c.regs.frm := by
  unfold putFloat
  split
  · exact congrArg (· ||| dn (v.2.toNat * 256)) (frm_writeX c rd.toNat _)
  · rfl
theorem x_putFloat (on : Bool) (rd : BitVec 6) (v : Nat × Flags) (c : Ctx) {n : Nat} (hn : n < 64) :
    rx (putFloat on rd v c).regs n = (if n = rd.toNat ∧ n ≠ 0 ∧ on = true then BitVec.ofNat 64 v.1 else rx c.regs n) ∧
    xFull (putFloat on rd v c).regs n = (if n = rd.toNat ∧ on = true then true else xFull c.regs n) := by
  unfold putFloat
  split
  · next hon =>
    rw [hon]
    exact x_writeX rd _ c hn
  · next hon => simp [hon]
theorem putXF_eq (u : State) (gp : BitVec 2) (rd : BitVec 6) (v : Nat × Flags) :
    putXF u gp rd v = if gpOn u gp then modCur u (putFloat true rd v) else u := rfl
theorem actsOn_putXF (u : State) (gp : BitVec 2) (rd : BitVec 6) (v : Nat × Flags) :
    ActsOn (putFloat (gpOn u gp) rd v) u (putXF u gp rd v) := by
  rw [putXF_eq]
  refine .ite (fun hon => ?_) fun hoff => ?_
  · rw [hon]
    exact .modCur _ u
  · rw [Bool.eq_false_iff.mpr hoff]
    exact .refl u
/-- A result without flags. -/
theorem putXF_zero (u : State) (gp : BitVec 2) (rd : BitVec 6) (v : Nat) : putXF u gp rd (v, 0) = putX u gp rd (dn v) := by
  have hflags (c : Ctx) : orFlags c 0 = c :=
    congrArg (fun w : Dword => { c with regs := { c.regs with frm := w } }) BitVec.or_zero
  simp only [putXF, putX, hflags]

/-- The instruction issues, and its effect writes to x[rd] the pattern of g on the x registers, predicates and FRM read,
and ORs its flags into FRM, under the random value of lane 0; it reads no v register and accesses no memory. -/
structure WritesFloat (i : Instr) (gp : BitVec 2) (rd : BitVec 6) (g : Regs → Nat → Nat × Flags) : Prop where
  exec     : ∀ s, exec i s = issue s i fun u => putXF u gp rd (g (ops u) (srLane u 0 0))
  lanes    : ∀ r v, g { r with v := v } = g r
  noVector : vReads i = []
  noSpan   : ∀ r, (watchSpan r i).1 = []

theorem srLane_begin (s : State) (i : Instr) (l : Nat) : srLane (begin s [i]) 0 l = random s l := by
  obtain ⟨w, hcur⟩ := cur_begin s i
  rw [srLane, hcur, begin_core, begin_ctx]
  rfl
theorem WritesFloat.issues (h : WritesFloat i gp rd g) (hi : Issues s i) :
    let w := g (cur s).regs (random s 0)
    ∃ t, Machine.exec i s = .next t ∧ WroteX s t (onBit s gp) rd (BitVec.ofNat 64 w.1) ∧ Flagged s t (onBit s gp) w.2 ∧
      OnlyX s t := by
  intro w
  have hacts := actsOn_putXF (begin s [i]) gp rd w
  rw [gpOn_begin] at hacts
  obtain ⟨t, ht, hperf⟩ := hi.performed h.noSpan (popped_of_no_vector h.noVector)
    (eff := fun u => putXF u gp rd (g (ops u) (srLane u 0 0)))
    (by rw [ops_begin, eq_of_lanes h.lanes, srLane_begin]; exact hacts)
  exact ⟨t, (h.exec s).trans ht, hperf.wroteX fun c n hn => x_putFloat _ rd w c hn, hperf.flagged (frm_putFloat _ rd w),
    hperf.onlyX (xless_putFloat _ rd w) (npc_putFloat _ rd w)⟩

/-! ## The rows (R108 to R113) -/

theorem envOf_eq (u : State) : envOf u 0 = envR (ops u) (srLane u 0 0) := by
  simp only [envOf, rmOf, fzOf, bits, envR, pow_zero, Nat.div_one, Nat.reducePow]
theorem envRnd_eq (u : State) (rnd : Nat) : envRnd u rnd 0 =
    { envR (ops u) (srLane u 0 0) with mode := if rnd = 6 then (ops u).frm.toNat % 8 else rnd } := by
  rw [envRnd, envOf_eq]
  split <;> rfl

theorem writesFloat_of_floatOp {op : Fmt → Env → FVal → FVal → FVal → Nat × Flags}
    (hexec : ∀ s, exec i s = floatOp s i gp f op) (h : rowFloat gp f op = some (gp', rd, g))
    (hvec : vReads i = [] := by exact rfl) (hspan : ∀ r, (watchSpan r i).1 = [] := by exact fun _ => rfl) :
    WritesFloat i gp' rd g := by
  cases h
  refine ⟨fun s => ?_, fun _ _ => rfl, hvec, hspan⟩
  simp only [hexec, floatOp, envOf_eq]
theorem writesFloat_of_floatRow (h : floatRow i = some (gp, rd, g)) : WritesFloat i gp rd g := by
  cases i with
  | fadd => exact writesFloat_of_floatOp (op := fun t e a b _ => fadd t e a b) (fun _ => rfl) h
  | fsub => exact writesFloat_of_floatOp (op := fun t e a b _ => fadd t e a (negF b)) (fun _ => rfl) h
  | fmul => exact writesFloat_of_floatOp (op := fun t e a b _ => fmul t e a b) (fun _ => rfl) h
  | fdiv => exact writesFloat_of_floatOp (op := fun t e a b _ => fdiv t e a b) (fun _ => rfl) h
  | fsqrt => exact writesFloat_of_floatOp (op := fun t e a _ _ => fsqrt t e a) (fun _ => rfl) h
  | fma => exact writesFloat_of_floatOp (op := fun t e a b c => fmadd t e a b c) (fun _ => rfl) h
  | fmin => exact writesFloat_of_floatOp (op := fun t _ a b _ => fminmax t false a b) (fun _ => rfl) h
  | fmax => exact writesFloat_of_floatOp (op := fun t _ a b _ => fminmax t true a b) (fun _ => rfl) h
  | fcmp => exact writesFloat_of_floatOp (op := fun _ _ a b _ => fcmp a b) (fun _ => rfl) h
  | fclass =>
    cases h
    exact ⟨fun _ => by simp only [putXF_zero]; rfl, fun _ _ => rfl, rfl, fun _ => rfl⟩
  | fcvt _ f =>
    cases h
    refine ⟨fun s => ?_, fun _ _ => rfl, rfl, fun _ => rfl⟩
    refine congrArg (issue s _) (funext fun u => congrArg (putXF u _ f.rd) ?_)
    simp only [fcvt, envRnd_eq, bitAt, beq_iff_eq]
    rfl
  | _ => nomatch h

end
end Sys2Proof.Machine

namespace Sys2Proof
open Machine

/-- Settles O9, by the one rule for an instruction whose effect writes a pattern and its flags (`WritesFloat.issues`). -/
theorem floatInstructionsGiveTheirRows : Obligations.FloatInstructionsGiveTheirRows := by
  intro s i gp rd g hrow h
  exact (writesFloat_of_floatRow hrow).issues h

end Sys2Proof

/-! # Branches (R115 to R118) -/

namespace Sys2Proof.Machine
section
variable {s t u v : State} {i : Instr} {g : RowB}

/-- Where a context's next bundle stands after a branch that goes to an address, or falls through; a second's follows
its lead's (R62, R115). -/
def landing (dst : Option Dword) (c : Ctx) : Nat :=
  match dst with
  | some a => if isSecond c then c.npc else a.toNat
  | none => c.npc
/-- A context with the x register of a branch written. -/
def linked (wr : Option (BitVec 6 × Dword)) (c : Ctx) : Ctx :=
  match wr with
  | some (rd, v) => writeX c rd.toNat v
  | none => c
/-- A context that has branched. -/
def branched (dst : Option Dword) (wr : Option (BitVec 6 × Dword)) (c : Ctx) : Ctx :=
  { linked wr c with npc := landing dst c }

theorem linked_kept (wr : Option (BitVec 6 × Dword)) (c : Ctx) :
    xless (linked wr c) = xless c ∧ (linked wr c).npc = c.npc ∧ (linked wr c).regs.frm = c.regs.frm := by
  unfold linked
  split
  · exact ⟨xless_writeX .., npc_writeX .., frm_writeX ..⟩
  · exact ⟨rfl, rfl, rfl⟩
theorem xless_branched (dst : Option Dword) (wr : Option (BitVec 6 × Dword)) (c : Ctx) :
    xless (branched dst wr c) = xless c := by
  obtain ⟨h, -, -⟩ := linked_kept wr c
  exact h
theorem branched_none (wr : Option (BitVec 6 × Dword)) : branched none wr = linked wr := by
  funext c
  obtain ⟨-, h, -⟩ := linked_kept wr c
  exact congrArg (fun n => { linked wr c with npc := n }) h.symm

theorem branched_second {c : Ctx} (h : isSecond c = true) (a : Dword) : branched (some a) none c = c :=
  congrArg (fun n => { c with npc := n }) (if_pos h)
theorem branched_of_not_second {c : Ctx} (h : ¬ isSecond c = true) (a : Dword) :
    branched (some a) none c = { c with npc := a.toNat } := congrArg (fun n => { c with npc := n }) (if_neg h)
theorem actsOn_goTo (h : Untraced u u.core) (a : Dword) : ActsOn (branched (some a) none) u (goTo u a) := by
  unfold goTo
  rw [trace_of_untraced h]
  split
  · next hsecond => exact { ActsOn.refl u with own := (branched_second hsecond a).symm }
  · next hfirst =>
    exact { ActsOn.modCur (fun c => { c with npc := a.toNat }) u with
      own := (cur_modCur ..).trans (branched_of_not_second hfirst a).symm }
/-- The register is written before or after the jump. -/
theorem linked_branched (a : Dword) (wr : Option (BitVec 6 × Dword)) :
    linked wr ∘ branched (some a) none = branched (some a) wr := by
  funext c
  cases wr with
  | none => rfl
  | some e =>
    show writeX { c with npc := landing (some a) c } e.1.toNat e.2 = { writeX c e.1.toNat e.2 with npc := landing (some a) c }
    unfold writeX
    split <;> rfl
theorem branched_linked (a : Dword) (wr : Option (BitVec 6 × Dword)) :
    branched (some a) none ∘ linked wr = branched (some a) wr := by
  funext c
  obtain ⟨hless, hnpc, -⟩ := linked_kept wr c
  have hsecond : isSecond (linked wr c) = isSecond c := (congrArg isSecond hless :)
  have hland : landing (some a) (linked wr c) = landing (some a) c := by simp only [landing, hsecond, hnpc]
  exact congrArg (fun n => { linked wr c with npc := n }) hland

theorem untraced_of_keptCores (hcore : v.core = u.core) (h : KeptCores u v) (hu : Untraced u u.core) : Untraced v v.core := by
  rw [hcore]
  exact (congrArg (fun c : Core => c.trctl.getLsbD 63) (h u.core)).trans hu

/-- What the instruction of a branch row does to the state in which its operands have been read (R115). -/
def BranchesTo (g : RowB) (u v : State) : Prop :=
  let w := g (ops u) (cur u).pc
  ∃ dst : Option Dword, ActsOn (branched dst w.2) u v ∧
    w.1 = match dst with | some a => a.toNat | none => (cur u).pc + 8

/-- An instruction that does what a branch row says leaves what the row does not name. -/
theorem branch_performed (h : Issues s i) (htrace : Untraced s s.core) (hspan : ∀ r, (watchSpan r i).1 = [])
    (hvec : vReads i = []) {eff : State → State} (hlanes : ∀ r v, g { r with v := v } = g r)
    (he : Untraced (begin s [i]) (begin s [i]).core → BranchesTo g (begin s [i]) (eff (begin s [i]))) :
    let w := g (cur s).regs (cur s).pc
    ∃ t, issue s i eff = .next t ∧ WentTo s t (if isSecond (cur s) then (cur s).pc + 8 else w.1) ∧
      (match w.2 with
       | some (rd, v) => WroteX s t true rd v
       | none => KeptX s t) ∧
      KeptV s t ∧ KeptP s t false ∧ Flagged s t false 0 ∧ KeptAcc s t ∧ KeptCr s t ∧ RegsOnly s t ∧ KeptMemory s t := by
  intro w
  obtain ⟨fwd, hcur⟩ := cur_begin s i
  obtain ⟨-, hcores, -⟩ := begin_kept s i
  obtain ⟨dst, hacts, hto⟩ := he (untraced_of_keptCores (begin_core s i) hcores htrace)
  have hw : g (ops (begin s [i])) (cur (begin s [i])).pc = w := by
    rw [ops_begin, eq_of_lanes hlanes, hcur]
  rw [hw] at hacts hto
  obtain ⟨t, ht, hperf⟩ := h.performed hspan (popped_of_no_vector hvec) hacts
  obtain ⟨hv, hp, hacc, hcr, honly⟩ := hperf.frame (xless_branched dst w.2)
  refine ⟨t, ht, hperf.wentTo (xless_branched dst w.2) fun _ => ?_, ?_, hv, hp, hperf.flagged fun c => (linked_kept w.2 c).2.2,
    hacc, hcr, honly, hperf.keptMemory⟩
  · rw [hto, hcur]
    cases dst with
    | none => exact (ite_self _).symm
    | some a => rfl
  · generalize w.2 = wr at hperf
    cases wr with
    | none => exact hperf.keptX fun _ => ⟨rfl, rfl⟩
    | some e => exact hperf.wroteX fun c n hn => x_writeX e.1 e.2 c hn

/-! ## The rows (R116 to R118) -/

theorem offset_eq_disp {n : Nat} (lit : Word) (off : BitVec n) : offset lit off 1 = disp lit off := by
  rw [offset_eq, BitVec.ofNat_eq_ofNat, BitVec.mul_one]
  rfl
theorem toNat_target (u : State) {n : Nat} (lit : Word) (off : BitVec n) :
    (target u lit off).toNat = plus (cur u).pc (disp lit off) := by
  rw [target, offset_eq_disp]
  rfl

/-- A jump that writes nothing. -/
theorem branchesTo_goTo {a : Dword} (h : Untraced u u.core) (hg : g (ops u) (cur u).pc = (a.toNat, none)) :
    BranchesTo g u (goTo u a) := by
  refine ⟨some a, ?_⟩
  rw [hg]
  exact ⟨actsOn_goTo h a, rfl⟩
/-- A jump, then a write. -/
theorem branchesTo_link {a x : Dword} {rd : BitVec 6} (h : Untraced u u.core)
    (hg : g (ops u) (cur u).pc = (a.toNat, some (rd, x))) :
    BranchesTo g u (modCur (goTo u a) fun c => writeX c rd.toNat x) := by
  refine ⟨some a, ?_⟩
  rw [hg]
  refine ⟨?_, rfl⟩
  rw [← linked_branched a]
  exact (actsOn_goTo h a).trans (.modCur _ _)
/-- A branch that is taken or falls through. -/
theorem branchesTo_ite {c : Prop} [Decidable c] {a : Dword} (h : Untraced u u.core)
    (hg : g (ops u) (cur u).pc = (if c then a.toNat else (cur u).pc + 8, none)) :
    BranchesTo g u (if c then goTo u a else u) := by
  split
  · next hc => exact branchesTo_goTo h (by rw [hg, if_pos hc])
  · next hc =>
    refine ⟨none, ?_⟩
    rw [hg, if_neg hc, branched_none]
    exact ⟨.refl u, rfl⟩
/-- A write, then a branch that is taken or falls through. -/
theorem branchesTo_loop {c : Prop} [Decidable c] {a x : Dword} {rd : BitVec 6} (h : Untraced u u.core)
    (hg : g (ops u) (cur u).pc = (if c then a.toNat else (cur u).pc + 8, some (rd, x))) :
    BranchesTo g u (if c then goTo (modCur u fun c => writeX c rd.toNat x) a else modCur u fun c => writeX c rd.toNat x) := by
  have hwrite : ActsOn (linked (some (rd, x))) u (modCur u fun c => writeX c rd.toNat x) := .modCur _ u
  split
  · next hc =>
    refine ⟨some a, ?_⟩
    rw [hg, if_pos hc, ← branched_linked]
    exact ⟨hwrite.trans (actsOn_goTo (untraced_of_keptCores hwrite.core hwrite.cores h) a), rfl⟩
  · next hc =>
    refine ⟨none, ?_⟩
    rw [hg, if_neg hc, branched_none]
    exact ⟨hwrite, rfl⟩

/-- The instruction issues, and its effect is that of a branch row on the x registers read; it reads no v register and
accesses no memory. -/
structure Branches (i : Instr) (g : RowB) : Prop where
  exec     : ∃ eff : State → State, (∀ s, exec i s = issue s i eff) ∧ ∀ u, Untraced u u.core → BranchesTo g u (eff u)
  lanes    : ∀ r v, g { r with v := v } = g r
  noVector : vReads i = []
  noSpan   : ∀ r, (watchSpan r i).1 = []

theorem branches_of_branchIf {f : FmtB} {op row : Dword → Dword → Bool} (hexec : ∀ s, exec i s = branchIf s i f op)
    (heq : ∀ a b, op a b = row a b) (h : rowIf f row = some g) (hvec : vReads i = [] := by exact rfl)
    (hspan : ∀ r, (watchSpan r i).1 = [] := by exact fun _ => rfl) : Branches i g := by
  obtain rfl : op = row := funext₂ heq
  cases h
  exact ⟨⟨_, hexec, fun u hu => branchesTo_ite hu (by rw [toNat_target])⟩, fun _ _ => rfl, hvec, hspan⟩
theorem bczNonzero_x {f : FmtZ} (h : f.vec = 0) (u : State) : bczNonzero u f = (rx (ops u) f.rs.toNat != 0) := by
  simp [bczNonzero, h]

theorem vReads_bcz (f : FmtZ) : vReads (.bcz f) = [] := by
  show ((if f.vec == 1 then [] else [sx f.rs f.w1]).filter fun x => x.file == 1).map (·.reg) = []
  split <;> rfl

theorem branches_of_branchRow (h : branchRow i = some g) : Branches i g := by
  cases i with
  | br f =>
    cases h
    exact ⟨⟨_, fun _ => rfl, fun u hu => branchesTo_goTo hu (by rw [toNat_target])⟩,
      fun _ _ => rfl, rfl, fun _ => rfl⟩
  | brl f =>
    cases h
    exact ⟨⟨_, fun _ => rfl, fun u hu => branchesTo_link hu (by rw [toNat_target]; rfl)⟩,
      fun _ _ => rfl, rfl, fun _ => rfl⟩
  | jr f =>
    cases h
    exact ⟨⟨_, fun _ => rfl, fun u hu => branchesTo_goTo hu (by rw [immI, offset_eq_disp])⟩,
      fun _ _ => rfl, rfl, fun _ => rfl⟩
  | jrl f =>
    cases h
    exact ⟨⟨_, fun _ => rfl, fun u hu => branchesTo_link hu (by rw [immI, offset_eq_disp]; rfl)⟩,
      fun _ _ => rfl, rfl, fun _ => rfl⟩
  | bcEq => exact branches_of_branchIf (op := fun a b => a == b) (fun _ => rfl) (fun _ _ => rfl) h
  | bcNe => exact branches_of_branchIf (op := fun a b => a != b) (fun _ => rfl) (fun _ _ => rfl) h
  | bcLt => exact branches_of_branchIf (op := fun a b => decide (a.toInt < b.toInt)) (fun _ => rfl) (fun _ _ => rfl) h
  | bcGe => exact branches_of_branchIf (op := fun a b => decide (b.toInt ≤ a.toInt)) (fun _ => rfl) (fun _ _ => rfl) h
  | bcLtu => exact branches_of_branchIf (op := fun a b => decide (a.toNat < b.toNat)) (fun _ => rfl) (fun _ _ => rfl) h
  | bcGeu => exact branches_of_branchIf (op := fun a b => decide (b.toNat ≤ a.toNat)) (fun _ => rfl) (fun _ _ => rfl) h
  | bcz f =>
    change (if f.vec = 0 then some _ else none) = some g at h
    split at h
    · next hvec =>
      cases h
      refine ⟨⟨_, fun _ => rfl, fun u hu => branchesTo_ite hu ?_⟩, fun _ _ => rfl, vReads_bcz f, fun _ => rfl⟩
      have hcond : (bczNonzero u f == (f.ne == 1)) = true ↔ (rx (ops u) f.rs.toNat ≠ 0 ↔ f.ne = 1) := by
        rw [bczNonzero_x hvec, beq_iff_eq, Bool.eq_iff_iff, bne_iff_ne, beq_iff_eq]
      simp only [hcond, toNat_target]
    · cases h
  | loop f =>
    cases h
    refine ⟨⟨_, fun _ => rfl, fun u hu => branchesTo_loop hu ?_⟩, fun _ _ => rfl, rfl, fun _ => rfl⟩
    have hcond : (rx (ops u) f.rs.toNat - 1 != 0) = true ↔ rx (ops u) f.rs.toNat ≠ 1 := by
      rw [bne_iff_ne, ne_eq, ne_eq, sub_eq_zero]
    simp only [hcond, toNat_target]
  | _ => nomatch h

/-! ## BCZ on a v register (R117) -/

/-- The stream bound to a v register has beats left; an unbound register has none. -/
def beatsLeft (c : Ctx) (vd : Nat) : Bool :=
  match c.streams.find? fun e => e.2.vd == vd with
  | some e => decide (e.2.count < beatCount e.2.bound)
  | none => false
theorem bczNonzero_v {f : FmtZ} (h : f.vec = 1) (u : State) : bczNonzero u f = beatsLeft (cur u) f.rs.toNat := by
  simp only [bczNonzero, h, beq_self_eq_true, if_true, boundTo, beatsLeft]
  cases (cur u).streams.find? fun e => e.2.vd == f.rs.toNat with
  | none => rfl
  | some e => simp only [streamDone, ← not_lt, decide_not, Bool.not_not]
/-- BCZ's row on a v register whose stream has beats left, or has none. -/
def rowBczV (more : Bool) (f : FmtZ) : RowB := fun _ pc =>
  (if (more == (f.ne == 1)) = true then plus pc (disp f.lit f.off) else pc + 8, none)

end
end Sys2Proof.Machine

namespace Sys2Proof
open Machine

/-- Settles O13: each row by what its instruction does where its operands have been read (`branches_of_branchRow`), BCZ on
a v register by the beats left of its stream, which reading the operands leaves. -/
theorem branchesGoWhereTheirRowsSay : Obligations.BranchesGoWhereTheirRowsSay := by
  refine ⟨fun s i g hrow h htrace => ?_, fun s f hvec h htrace hfirst => ?_⟩
  · obtain ⟨⟨eff, hexec, heff⟩, hlanes, hnone, hspan⟩ := branches_of_branchRow hrow
    rw [hexec]
    exact branch_performed h htrace hspan hnone hlanes (heff _)
  · have hbegin : beatsLeft (cur (begin s [.bcz f])) f.rs.toNat = beatsLeft (cur s) f.rs.toNat := by
      obtain ⟨w, hcur⟩ := cur_begin s (.bcz f)
      rw [hcur]
      rfl
    obtain ⟨t, ht, hgo, hx, hv, hp, hfrm, hacc, hcr, honly, hmem⟩ := branch_performed
      (g := rowBczV (beatsLeft (cur s) f.rs.toNat) f)
      (eff := fun u => if bczNonzero u f == (f.ne == 1) then goTo u (target u f.lit f.off) else u)
      h htrace (fun _ => rfl) (vReads_bcz f) (fun _ _ => rfl)
      fun hu => branchesTo_ite hu (by rw [bczNonzero_v hvec, hbegin, toNat_target]; rfl)
    rw [hfirst] at hgo
    exact ⟨t, ht, ⟨hx, hv, hp, hfrm, hacc, hcr⟩, honly, hmem, hgo⟩

end Sys2Proof

/-! # Control reads (R119, R120, R122) -/

namespace Sys2Proof.Machine
section
variable {s u : State} {i : Instr}

/-- The registers that a core's own contexts read at once, and the late ones (R119). -/
def promptCrs : List Nat :=
  [0x000, 0x001, 0x002, 0x003, 0x004, 0x005, 0x006, 0x007, 0x010, 0x011, 0x012, 0x013, 0x014, 0x015, 0x020, 0x021, 0x022,
   0x023, 0x024, 0x025, 0x026, 0x027, 0x030, 0x040, 0x041, 0x042, 0x043, 0x044, 0x045, 0x046, 0x050, 0x060]
def lateCrs : List Nat := [0x031, 0x070, 0x071]

/-- CLUSID of a home core has bit 63 set, that of another core is its cluster (R120). -/
theorem clusid_eq (s : State) (n : Nat) : clusid s n =
    if Config.isHome n then BitVec.ofNat 64 (2 ^ 63 + clusterFor s n) else BitVec.ofNat 64 (n / 8) := by
  cases h : Config.isHome n <;> simp [clusid, clusterFor, h, bit01, dn]
theorem prioWord_eq (s : State) (n k : Nat) : prioWord s n k =
    BitVec.ofNat 64 ((ctxAt s n k).base.toNat + 4 * (ctxAt s n k).inh.toNat + 16 * effClass s n k) := by
  rw [Nat.mul_comm 4, Nat.mul_comm 16]
  rfl
/-- The statement's tables hold what the registers read. -/
theorem crTable_eq (s : State) : crTable s = promptCrs.map fun n => (n, crNow s s n) := by
  have hprio := prioWord_eq s s.core s.ctx
  simp only [crTable, cur, ← hprio, ← clusid_eq, ← dieOf_eq]
  rfl
theorem lateTable_eq (s : State) : lateTable s = lateCrs.map fun n => (n, crNow s s n) := rfl

theorem of_mem_map_self {l : List Nat} {f : Nat → Dword} {n : Nat} {v : Dword} (h : (n, v) ∈ l.map fun n => (n, f n)) :
    n ∈ l ∧ f n = v := by
  obtain ⟨m, hm, heq⟩ := List.mem_map.mp h
  cases heq
  exact ⟨hm, rfl⟩

/-- rd awaits a value that arrives by a cycle (R119). -/
def awaitingLate (rd : Nat) (v : Dword) (due : Nat) (c : Ctx) : Ctx :=
  { emptyX c rd with pend := c.pend ++ (if rd = 0 then [] else [.late rd v due]) }
theorem sendLate_emptyX (u : State) (rd : Nat) (v : Dword) (n : Nat) :
    sendLate (modCur u fun c => emptyX c rd) u.core u.ctx rd v n = modCur u (awaitingLate rd v (u.cycle + n)) := by
  by_cases h : rd = 0
  · rw [sendLate, if_pos h]
    exact congrArg (modCur u) (funext fun c => by simp [awaitingLate, emptyX, h])
  · rw [sendLate, if_neg h]
    exact (modCur_modCur u _ _).trans (congrArg (modCur u) (funext fun c => by simp [awaitingLate, emptyX, h]))
/-- It touches the empty bits and what is pending or on its way alone. -/
theorem awaitingLate_kept (rd : Nat) (v : Dword) (due : Nat) (c : Ctx) : ∃ xe xp pend,
    awaitingLate rd v due c = { c with regs := { c.regs with xe := xe }, xp := xp, pend := pend } := by
  obtain ⟨xe, xp, h⟩ := emptyX_kept c rd
  exact ⟨xe, xp, _, by rw [awaitingLate, h]⟩
theorem Performed.awaitsLate {t : State} {rd : BitVec 6} {v : Dword} {n : Nat}
    (h : Performed (awaitingLate rd.toNat v (s.cycle + n)) s t) : AwaitsLate s t rd v n := by
  obtain ⟨w, hnow⟩ := h.own
  unfold AwaitsLate
  rw [hnow]
  refine ⟨fun k hk => ⟨rx_emptyX .., xFull_emptyX _ hk⟩, ?_⟩
  simp [endCtx, awaitingLate, BitVec.toNat_eq]

/-- CRRD's effect on the state in which its operands have been read (R119, R122). -/
def readCr (f : FmtCR) (u : State) : State :=
  let v := crRead u u.core u.ctx (ops u) f.crn.toNat
  if crLate f.crn.toNat then sendLate (modCur u fun c => emptyX c f.x.toNat) u.core u.ctx f.x.toNat v 300
  else modCur u fun c => writeX c f.x.toNat v
theorem crRead_begin (s : State) (f : FmtCR) :
    crRead (begin s [.crrd f]) (begin s [.crrd f]).core (begin s [.crrd f]).ctx (ops (begin s [.crrd f])) f.crn.toNat =
      crNow s s f.crn.toNat := by
  have hp := popped_of_no_vector (s := s) (i := .crrd f) rfl
  have hread := crRead_reading hp f.crn.toNat
  rwa [reading_of_unpopped hp] at hread
theorem actsOn_readCr_prompt {f : FmtCR} (h : crLate f.crn.toNat = false) :
    ActsOn (fun c => writeX c f.x.toNat (crNow s s f.crn.toNat)) (begin s [.crrd f]) (readCr f (begin s [.crrd f])) := by
  rw [readCr, crRead_begin, h]
  exact .modCur _ _
theorem actsOn_readCr_late {f : FmtCR} (h : crLate f.crn.toNat = true) :
    ActsOn (awaitingLate f.x.toNat (crNow s s f.crn.toNat) (s.cycle + 300)) (begin s [.crrd f])
      (readCr f (begin s [.crrd f])) := by
  obtain ⟨hunits, -⟩ := begin_kept s (.crrd f)
  have hcycle : (begin s [.crrd f]).cycle = s.cycle := (congrArg State.cycle hunits :)
  rw [readCr, crRead_begin, h]
  simp only [if_true]
  rw [sendLate_emptyX, hcycle]
  exact .modCur _ _

end
end Sys2Proof.Machine

namespace Sys2Proof
open Machine

/-- Settles O14: the tables hold what the registers read (`crTable_eq`, `lateTable_eq`), and CRRD writes it, or sends it. -/
theorem controlReadsGiveTheRegisters : Obligations.ControlReadsGiveTheRegisters := by
  intro s f h
  have hp := popped_of_no_vector (s := s) (i := .crrd f) rfl
  refine ⟨fun v hv => ?_, fun v hv => ?_⟩
  · rw [crTable_eq] at hv
    obtain ⟨hmem, rfl⟩ := of_mem_map_self hv
    have hprompt : ∀ n ∈ promptCrs, crLate n = false := by decide
    obtain ⟨t, ht, hperf⟩ := h.performed (fun _ => rfl) hp (actsOn_readCr_prompt (hprompt _ hmem))
    exact ⟨t, ht, hperf.wroteX fun c n hn => x_writeX f.x _ c hn, hperf.flagged fun c => frm_writeX ..,
      hperf.onlyX (fun c => xless_writeX ..) fun c => npc_writeX ..⟩
  · rw [lateTable_eq] at hv
    obtain ⟨hmem, rfl⟩ := of_mem_map_self hv
    have hlate : ∀ n ∈ lateCrs, crLate n = true := by decide
    obtain ⟨t, ht, hperf⟩ := h.performed (fun _ => rfl) hp (actsOn_readCr_late (hlate _ hmem))
    have hkept := awaitingLate_kept f.x.toNat (crNow s s f.crn.toNat) (s.cycle + 300)
    refine ⟨t, ht, hperf.awaitsLate, hperf.flagged fun c => ?_, hperf.onlyX (fun c => ?_) fun c => ?_⟩ <;>
      obtain ⟨_, _, _, hc⟩ := hkept c
    · rw [hc]
      rfl
    · rw [hc]
      rfl
    · rw [hc]

end Sys2Proof

/-! # WAITF, ROPECK and SYNCI (R126, R127, R143) -/

namespace Sys2Proof.Machine
section
variable {s t : State} {i : Instr}

/-- A bundle without effect. -/
theorem Performed.quiet (h : Performed id s t) : Quiet s t := by
  obtain ⟨hv, hp, hacc, hcr, honly⟩ := h.frame fun _ => rfl
  exact ⟨h.wentTo (fun _ => rfl) fun _ => rfl, h.keptX fun _ => ⟨rfl, rfl⟩, hv, hp, h.flagged fun _ => rfl, hacc, hcr, honly,
    h.keptMemory⟩

/-- A core without its notes of fetched bundles and its body cache (R127). -/
def synced (c : Core) : Core := { c with fetched := [], bodies := [] }
theorem byteOf_synced (s : State) (n : Nat) (pl : Place) (a : Nat) : byteOf (modCore s n synced) pl a = byteOf s pl a := by
  have hcore (m : Nat) : (coreAt (modCore s n synced) m).tcm = (coreAt s m).tcm ∧
      (coreAt (modCore s n synced) m).l1 = (coreAt s m).l1 := by
    rw [coreAt_modCore]
    split
    · next h => rw [h]; exact ⟨rfl, rfl⟩
    · exact ⟨rfl, rfl⟩
  cases pl with
  | tcm m => exact congrArg (bget · a) (hcore m).1
  | l1 m k => simp only [byteOf, l1Line, (hcore m).2]
  | _ => rfl
theorem modCore_modCore (s : State) (n : Nat) (f g : Core → Core) :
    modCore (modCore s n f) n g = modCore s n fun c => g (f c) := by
  simp only [modCore, setCore, coreAt, fget_fset_same, fset_fset]
/-- A bundle ends alike before and after its core is synced. -/
theorem endBundle_synced (u : State) : endBundle (modCore u u.core synced) = modCore (endBundle u) u.core synced := by
  have hswap (F : Ctx → Ctx) : modCur (modCore u u.core synced) F = modCore (modCur u F) u.core synced := by
    show modCtx (modCore u u.core synced) u.core u.ctx F = modCore (modCtx u u.core u.ctx F) u.core synced
    simp only [modCtx, modCore_modCore]
    rfl
  exact congrArg (fun x : State => { x with latch := none, tail := none }) (hswap (endCtx u.tail))
/-- SYNCI ends like a bundle without effect, but for what its core drops (R127). -/
theorem exec_synci {f : FmtR} (h : Issues s (.synci f)) : ∃ t, exec (.synci f) s = .next (modCore t s.core synced) ∧
    Performed id s t := by
  have hp := popped_of_no_vector (s := s) (i := .synci f) rfl
  have hissue (eff : State → State) : issue s (.synci f) eff = .next (endBundle (eff (begin s [.synci f]))) := by
    rw [issue_of_issues h, watch_of_unwatched (unwatched_of_span rfl), reading_of_unpopped hp]
  obtain ⟨t, ht, hperf⟩ := h.performed (eff := fun u => u) (fun _ => rfl) hp (.refl _)
  rw [hissue] at ht
  cases ht
  refine ⟨_, ?_, hperf⟩
  rw [← begin_core s (.synci f), ← endBundle_synced]
  exact hissue fun u => modCore u u.core synced
/-- A core that is synced differs in what it drops. -/
theorem coreAt_synced (hcores : KeptCores s t) (m n : Nat) :
    { coreAt (modCore t m synced) n with ctxs := [], fetched := (coreAt s n).fetched, bodies := (coreAt s n).bodies } =
      { coreAt s n with ctxs := [] } := by
  have hcore := congrArg (fun c : Core => { c with fetched := (coreAt s n).fetched, bodies := (coreAt s n).bodies })
    (hcores n)
  rw [coreAt_modCore]
  split
  · next hn =>
    rw [← hn]
    exact hcore
  · exact hcore

end
end Sys2Proof.Machine

namespace Sys2Proof
open Machine

/-- Settles O16: WAITF and ROPECK have no effect (`Performed.quiet`); SYNCI's is on the core alone (`synced`). -/
theorem waitsAndSynciChangeNothingElse : Obligations.WaitsAndSynciChangeNothingElse := by
  refine ⟨fun s f h => ?_, fun s f h => ?_, fun s f h => ?_⟩
  · have hp : popped s [.waitf f] = [] := by simp [popped, popReads]
    obtain ⟨t, ht, hperf⟩ := h.performed (eff := fun u => u) (fun _ => rfl) hp (.refl _)
    exact ⟨t, ht, hperf.quiet⟩
  · obtain ⟨t, ht, hperf⟩ := h.performed (eff := fun u => u) (fun _ => rfl) (popped_of_no_vector rfl) (.refl _)
    exact ⟨t, ht, hperf.quiet⟩
  · obtain ⟨t, ht, hperf⟩ := exec_synci h
    obtain ⟨hadv, hx, hv, hpred, hfrm, hacc, hcr, ⟨-, -, -, hctx⟩, hmem⟩ := hperf.quiet
    have hnow : now s (modCore t s.core synced) = now s t := ctxAt_modCore (f := synced) (fun _ => rfl) ..
    have hsynced : coreAt (modCore t s.core synced) s.core = synced (coreAt t s.core) := coreAt_modCore_same ..
    refine ⟨_, ht, ?_, ?_, fun pl a => (byteOf_synced t s.core pl a).trans (hmem pl a), hperf.units, ?_,
      congrArg Core.fetched hsynced, congrArg Core.bodies hsynced, coreAt_synced hperf.cores s.core⟩
    · rw [Advanced, hnow]
      exact hadv
    · simp only [KeptRegs, KeptX, KeptV, KeptP, Flagged, KeptAcc, KeptCr, hnow]
      exact ⟨hx, hv, hpred, hfrm, hacc, hcr⟩
    · rw [KeptCtx, hnow]
      exact hctx

end Sys2Proof

/-! # Semaphores (R138, R139) -/

namespace Sys2Proof.Machine
section
variable {s r u : State} {i clu k n c : Nat} {q : QReq} {f : FmtQ}

/-! ### SEMP, SEMV and SEMTRY issue -/

/-- A request sent beside a change of the issuing context bears that context and its core. -/
theorem ask_modCur (hcore : r.core = s.core) (hctx : r.ctx = s.ctx) (g : Ctx → Ctx) (rd : Nat) (a : Ask) :
    ask (modCur r g) rd none a =
      { modCur r g with reqs := (modCur r g).reqs ++ [{ core := s.core, ctx := s.ctx, rd := rd, ask := a }] } := by
  rw [← hcore, ← hctx]
  rfl

/-- SEMV's entry lays down a trap where its semaphore's count is full, and no other. -/
theorem entryTrap_semv (s : State) (pc : Nat) (x : Regs) (pops : Bool) (f : FmtQ) : entryTrap s pc x pops (.semv f) =
    if (semAt s (clusterFor s s.core) f.sem.toNat).count = 0xFFFF then illState pc (dn f.sem.toNat) else none := by
  have hown : entryTrap s pc x pops (.semv f) = ownTrap s pc x (.semv f) := by
    have hwrites : writesP15 (.semv f) = false := rfl
    rw [entryTrap, hwrites, Bool.and_false]
    show firstTrap [none, none, ownTrap s pc x (.semv f)] = _
    cases ownTrap s pc x (.semv f) <;> rfl
  rw [hown]
  show trapIf ((semAt s (clusterFor s s.core) f.sem.toNat).count == 0xFFFF) _ = _
  rw [trapIf]
  simp only [beq_iff_eq]
/-- At a full count SEMV traps once its context's accesses are performed, after its release (R138). -/
theorem exec_semv_of_full (h : Reaches s (.semv f))
    (hfull : (semAt s (clusterFor s s.core) f.sem.toNat).count = 0xFFFF) (hown : ownAccess s = false) :
    exec (.semv f) s = .next (takeTrap (releaseAll s s.core)
      { cause := 1, sub := 7, val := dn f.sem.toNat, tpc := (cur s).pc }) := by
  obtain ⟨hlatch, -, hbusy, hempty, hready, hrope⟩ := h
  have hentry (x : Regs) (pops : Bool) := (entryTrap_semv s (cur s).pc x pops f).trans (if_pos hfull)
  have htrap : entryTrapOf s (cur s).pc [.semv f] = illState (cur s).pc (dn f.sem.toNat) := by
    simp only [entryTrapOf, List.findSome?_cons, hentry, illState]
  have hsemv : semvFull s (cur s).pc [.semv f] = true := by
    simp only [semvFull, List.any_cons, hentry, illState, Option.isSome_some, Bool.true_or]
  have hcheck : check s [(.semv f, 0)] = .trap { cause := 1, sub := 7, val := dn f.sem.toNat, tpc := (cur s).pc } := by
    simp only [check, hbusy, hempty, List.map_cons, List.map_nil, hready, hrope, htrap, illState, hown, Bool.false_eq_true,
      if_false, Bool.not_true, Bool.or_false, Bool.and_false]
  show issue s (.semv f) _ = _
  rw [issue, hlatch]
  simp only [hcheck, trapIssue, hsemv, htrap, illState, beq_self_eq_true, Bool.and_self, if_true]

/-! ### A request at a semaphore -/

/-- A semaphore has a count that nobody waits for (R138). -/
theorem countFree_iff {x : Sem} : (x.count != 0 && x.queue.isEmpty) = true ↔ x.count ≠ 0 ∧ x.queue = [] := by
  rw [Bool.and_eq_true, bne_iff_ne, List.isEmpty_iff]
theorem not_countFree {x : Sem} (h : x.count = 0 ∨ x.queue ≠ []) : ¬ (x.count != 0 && x.queue.isEmpty) = true := by
  rw [countFree_iff]
  exact fun ⟨hcount, hqueue⟩ => h.elim hcount (· hqueue)

/-- What a semaphore does with a SEMP (R138). -/
theorem serveP_of_free (hcount : (semAt s clu k).count ≠ 0) (hqueue : (semAt s clu k).queue = []) :
    serveP s clu k n c =
      unwait (acquireAll (setSemAt s clu k { semAt s clu k with count := (semAt s clu k).count - 1 }) n) n c :=
  if_pos (countFree_iff.mpr ⟨hcount, hqueue⟩)
theorem serveP_of_taken (h : (semAt s clu k).count = 0 ∨ (semAt s clu k).queue ≠ []) :
    serveP s clu k n c = setSemAt s clu k { semAt s clu k with queue := (semAt s clu k).queue ++ [(n, c)] } :=
  if_neg (not_countFree h)

/-- What a semaphore does with a SEMV (R138, R139). -/
theorem serveV_of_full (h : (semAt s clu k).count = 0xFFFF) : serveV s clu k n c = trapSemv s n c k :=
  if_pos (beq_iff_eq.mpr h)
theorem serveV_of_no_wait (h : (semAt s clu k).count ≠ 0xFFFF) (hqueue : (semAt s clu k).queue = []) :
    serveV s clu k n c = endSemv (setSemAt s clu k { semAt s clu k with count := (semAt s clu k).count + 1 }) n c := by
  rw [serveV]
  simp only [beq_iff_eq, h, if_false, hqueue]
theorem serveV_of_wait {m d : Nat} {l : List (Nat × Nat)} (h : (semAt s clu k).count ≠ 0xFFFF)
    (hqueue : (semAt s clu k).queue = (m, d) :: l) : serveV s clu k n c =
      endSemv (unwait (acquireAll (setSemAt s clu k { semAt s clu k with queue := l }) m) m d) n c := by
  rw [serveV]
  simp only [beq_iff_eq, h, if_false, hqueue]
/-- A waiting SEMV traps at its own pc. -/
theorem trapSemv_of_wait {w : Wait} (h : (ctxAt s n c).wait = some w) : trapSemv s n c k =
    takeTrapAt (modCtx s n c fun x => { x with wait := none, icount := x.icount - 1 }) n c
      { cause := 1, sub := 7, val := dn k, tpc := w.pc } := by
  rw [trapSemv, h]

/-- What a semaphore does with a SEMTRY, which has reserved no context (R138). -/
theorem serveAsk_semtry_of_free (hask : q.ask = .semtry k) (hres : q.res = none)
    (hcount : (semAt s (clusterFor s q.core) k).count ≠ 0) (hqueue : (semAt s (clusterFor s q.core) k).queue = []) :
    serveAsk s q = (sendX (acquireAll (setSemAt s (clusterFor s q.core) k { semAt s (clusterFor s q.core) k with
      count := (semAt s (clusterFor s q.core) k).count - 1 }) q.core) q.core q.ctx q.rd
        (dn (semAt s (clusterFor s q.core) k).count.toNat), none) := by
  rw [serveAsk, hask]
  refine (if_pos (countFree_iff.mpr ⟨hcount, hqueue⟩)).trans ?_
  rw [answerReq, hres]
theorem serveAsk_semtry_of_taken (hask : q.ask = .semtry k) (hres : q.res = none)
    (h : (semAt s (clusterFor s q.core) k).count = 0 ∨ (semAt s (clusterFor s q.core) k).queue ≠ []) :
    serveAsk s q = (sendX s q.core q.ctx q.rd 0, none) := by
  rw [serveAsk, hask]
  refine (if_neg (not_countFree h)).trans ?_
  rw [answerReq, hres]

/-- A controller serves a request of which nothing is left to go on. -/
theorem doWork_ctl_answered {l : Ctl} (h : s.reqs[i]? = some q) (hctl : askCtl s q = some l)
    (hserve : serveAsk { s with reqs := s.reqs.eraseIdx i } q = (u, none)) :
    doWork s (.ctl (.req i)) = .next (noteOp u l) := by
  rw [doWork_ctl_req h hctl, serveReq_answered h hserve]

end
end Sys2Proof.Machine

namespace Sys2Proof
open Machine

/-- Settles O46: the instructions by the request that each sends beside its context's change (`ask_modCur`), SEMV's trap at
issue by its entry's one check (`entryTrap_semv`), and a served request by what its semaphore does with it. -/
theorem semaphoresCount : Obligations.SemaphoresCount := by
  intro s clu sem put asks
  refine ⟨fun f h => ?semp, fun f h => ?semv, fun f h hfull hown => exec_semv_of_full h hfull hown,
    fun i k q hq hcore => ?served, fun f h => ?semtry, fun i k q hq hask hres => ?tried⟩
  case semp =>
    have hr := operandsRead_reading (popped_of_no_vector (s := s) (i := .semp f) rfl)
    exact gives_of_issue h rfl (ask_modCur hr.core hr.ctx _ 0 _)
  case semv =>
    have hr := operandsRead_reading (popped_of_no_vector (s := s) (i := .semv f) rfl)
    have hreleased := SameButCaches.releaseAll (reading s (.semv f)) (reading s (.semv f)).core
    exact gives_of_issue h rfl (ask_modCur (hreleased.core.trans hr.core) (hreleased.ctx.trans hr.ctx) _ 0 _)
  case semtry =>
    have hr := operandsRead_reading (popped_of_no_vector (s := s) (i := .semtry f) rfl)
    exact gives_of_issue h rfl (ask_modCur hr.core hr.ctx _ _ _)
  case served =>
    intro r x serves free goesOn
    have hsemp (hask : q.ask = .semp k) {u : State} (hu : serveP r clu k s.core q.ctx = u) : serves u :=
      doWork_ctl_answered hq (by rw [askCtl, hask, hcore]) (by rw [serveAsk, hask, hcore]; exact congrArg (·, none) hu)
    have hsemv (hask : q.ask = .semv k) {u : State} (hu : serveV r clu k s.core q.ctx = u) : serves u :=
      doWork_ctl_answered hq (by rw [askCtl, hask, hcore]) (by rw [serveAsk, hask, hcore]; exact congrArg (·, none) hu)
    refine ⟨fun hask => ⟨fun hcount hqueue => ?_, fun htaken => ?_⟩,
      fun hask hroom => ⟨fun hqueue => ?_, fun n c l hqueue => ?_⟩, fun hask hfull w hw => ?_⟩
    · exact hsemp hask (serveP_of_free hcount hqueue)
    · exact hsemp hask (serveP_of_taken htaken)
    · exact hsemv hask (serveV_of_no_wait hroom hqueue)
    · exact hsemv hask (serveV_of_wait hroom hqueue)
    · exact hsemv hask ((serveV_of_full (s := r) hfull).trans (trapSemv_of_wait (s := r) hw))
  case tried =>
    intro r n x serves
    have hctl : askCtl s q = some (.sem n k) := by rw [askCtl, hask]
    exact ⟨fun hcount hqueue => doWork_ctl_answered hq hctl (serveAsk_semtry_of_free hask hres hcount hqueue),
      fun htaken => doWork_ctl_answered hq hctl (serveAsk_semtry_of_taken hask hres htaken)⟩

end Sys2Proof

/-! # L1 hits while the next access number is in use (R157, R159, R160, R202)

A new access takes the number `accessId`, and while it is run an access that bears the number already is out of the list
(`runAccess`, `dropAccess`); one that hits its line ends at once, and the other does not come back. In the states that a run
reaches no access bears that number yet, but O26 and O27 speak of every state. -/

namespace Sys2Proof.Machine

/-- A line of virtual page 0 that its L1 may write. -/
def hitLine : L1Line := { ct := 3, data := 0, pa := 0x1000, wr := true }
/-- A store of core 1 on its way, under the number that the next access takes. -/
def sameNumber : Access := { id := 0, kind := .store, core := 1, ctx := 0, part := 0, pc := 0, word := 0, pieces := [] }
/-- Core 0, which runs context 0, holds the line; the store of core 1 is the one access on its way. -/
def hitState : State :=
  { cores := [(0, { part := some 0, ctxs := [(0, { running := true })], l1 := [(0, hitLine)] })]
    parts := [(0, { live := true, clusters := [0], slices := [0], tdi := .run })]
    accesses := [sameNumber] }
/-- The load of the line's first dword, and the store of x1 there. -/
def hitLoad : FmtL := ⟨0, 0, 1, 0, 3, 0⟩
def hitStore : FmtS := ⟨0, 0, 1, 1, 0, 3, 0⟩

theorem unwatched_of_hits {s : State} {i : Instr} (h0 : watchHits (coreAt s s.core) (watchSpan (snapshot s) i) 0 = false)
    (h1 : watchHits (coreAt s s.core) (watchSpan (snapshot s) i) 1 = false) : Unwatched s i := by
  intro w hw
  obtain rfl | rfl : w = 0 ∨ w = 1 := by omega
  · exact h0
  · exact h1
/-- The accesses after an instruction, by running it. -/
theorem accesses_of_exec {s t : State} {i : Instr} {l : List Access} (h : exec i s = .next t)
    (hl : (match exec i s with | .next u => u.accesses | _ => s.accesses) = l) : t.accesses = l := by
  rw [h] at hl
  exact hl

end Sys2Proof.Machine

namespace Sys2Proof
open Machine

/-- Refutes O26: the load hits its line, and the store of core 1 that bears its number is gone. -/
theorem not_loadsHitTheirLine : ¬ Obligations.LoadsHitTheirLine := by
  intro h
  have hissues : Issues hitState (.ldd hitLoad) := ⟨rfl, rfl, by decide, by decide⟩
  have hunwatched : Unwatched hitState (.ldd hitLoad) := unwatched_of_hits (by decide) (by decide)
  have hline : l1Line hitState hitState.core (lineKey (partOf hitState hitState.core) (loadAddr (cur hitState).regs hitLoad 8)) =
      some hitLine := by decide +kernel
  obtain ⟨t, hexec, -, -, -, ⟨-, -, -, -, -, ⟨hunits, -⟩, -⟩, -⟩ :=
    h hitState (.ldd hitLoad) hitLoad 8 false hitLine rfl hissues hunwatched rfl rfl rfl hline rfl
  have hgone : t.accesses = [] := accesses_of_exec hexec (by decide +kernel)
  have hkept : t.accesses = [sameNumber] := (congrArg State.accesses hunits :)
  cases hgone.symm.trans hkept

/-- Refutes O27: the store hits its line, and the store of core 1 that bears its number is gone. -/
theorem not_storesHitTheirLine : ¬ Obligations.StoresHitTheirLine := by
  intro h
  have hissues : Issues hitState (.std hitStore) := ⟨rfl, rfl, by decide, by decide⟩
  have hunwatched : Unwatched hitState (.std hitStore) := unwatched_of_hits (by decide) (by decide)
  have hline : l1Line hitState hitState.core (lineKey (partOf hitState hitState.core) (storeAddr (cur hitState).regs hitStore 8)) =
      some hitLine := by decide +kernel
  obtain ⟨t, hexec, -, -, -, -, -, -, -, hunits, -⟩ :=
    h hitState (.std hitStore) hitStore 8 hitLine rfl hissues hunwatched rfl rfl rfl hline rfl (.inr rfl)
  have hgone : t.accesses = [] := accesses_of_exec hexec (by decide +kernel)
  have hkept : t.accesses = [sameNumber] := (congrArg State.accesses hunits :)
  cases hgone.symm.trans hkept

end Sys2Proof

/-! # Array commands in a list of clusters out of order (R266)

While the gather unit reads, a start of the head of the queue writes the cluster back as it is. In a list of clusters whose
keys do not rise that write enters the cluster a second time, before the others; O48 asks that the state stays. -/

namespace Sys2Proof.Machine

/-- An MLDB whose gather unit has still to read a word. -/
def gatheringCommand : MCmd :=
  { core := 0, ctx := 0, instr := .mldb ⟨0, 0, 1, 0, 1, 0⟩, pc := 0, a := 0, b := 0, regs := {}, icount := 0,
    gather := some (true, [1]) }
/-- It heads the queue of cluster 0, which stands behind cluster 1 in the list of clusters. -/
def fallingClusters : State := { clusters := [(1, {}), (0, { cmds := [gatheringCommand] })] }

end Sys2Proof.Machine

namespace Sys2Proof
open Machine

/-- Refutes O48: a start of the command while its words are still read lists its cluster twice. -/
theorem not_arrayCommandsArePerformed : ¬ Obligations.ArrayCommandsArePerformed := by
  intro h
  obtain ⟨-, -, hgather, -⟩ := h.1 fallingClusters 0 gatheringCommand [] (by decide) rfl rfl
  obtain ⟨hstill, -⟩ := (hgather true [1] rfl rfl).1 rfl
  have hclusters : (startCommand fallingClusters 0).clusters = fallingClusters.clusters :=
    (congrArg State.clusters (Host.Outcome.next.inj hstill) :)
  have htwice : (startCommand fallingClusters 0).clusters.length = 3 := by decide
  rw [hclusters] at htwice
  cases htwice

end Sys2Proof

/-! # Accesses leave their core (R151, R166, R183, R199 to R207, R216, R217) -/

namespace Sys2Proof.Machine
section
variable {s t u : State}

/-! ## What an access takes from the state it leaves from -/

/-- `t` has the issuing context of `s`, every core in the same partition, every context at the same pc, and the operands
that the bundle read. -/
structure SameIssuer (s t : State) : Prop where
  core : t.core = s.core
  ctx : t.ctx = s.ctx
  latch : t.latch = s.latch
  part : ∀ n, (coreAt t n).part = (coreAt s n).part
  pc : ∀ n k, (ctxAt t n k).pc = (ctxAt s n k).pc

namespace SameIssuer

protected theorem refl (s : State) : SameIssuer s s := ⟨rfl, rfl, rfl, fun _ => rfl, fun _ _ => rfl⟩
protected theorem trans (h : SameIssuer s t) (g : SameIssuer t u) : SameIssuer s u where
  core := g.core.trans h.core
  ctx := g.ctx.trans h.ctx
  latch := g.latch.trans h.latch
  part n := (g.part n).trans (h.part n)
  pc n k := (g.pc n k).trans (h.pc n k)
protected theorem ite {c : Prop} [Decidable c] (h : SameIssuer s t) (g : SameIssuer s u) : SameIssuer s (if c then t else u) :=
  ite_keeps h g
protected theorem foldl {α : Type} {f : State → α → State} {l : List α} (h : SameIssuer s t)
    (hf : ∀ u a, SameIssuer u (f u a)) : SameIssuer s (l.foldl f t) := foldl_keeps (fun u a hu => hu.trans (hf u a)) h
/-- A state with the same cores. -/
theorem of_cores (hcore : t.core = s.core) (hctx : t.ctx = s.ctx) (hlatch : t.latch = s.latch) (h : t.cores = s.cores) :
    SameIssuer s t where
  core := hcore
  ctx := hctx
  latch := hlatch
  part n := by rw [coreAt, h]; rfl
  pc n k := by rw [ctxAt, coreAt, h]; rfl
theorem caches (h : SameButCaches s t) : SameIssuer s t where
  core := h.core
  ctx := h.ctx
  latch := (congrArg State.latch h.units :)
  part n := (congrArg Core.part (h.cores n) :)
  pc n k := by rw [h.ctxAt]
theorem modCore {n : Nat} {f : Core → Core} (hpart : ∀ c, (f c).part = c.part) (hctxs : ∀ c, (f c).ctxs = c.ctxs) :
    SameIssuer s (modCore s n f) where
  core := rfl
  ctx := rfl
  latch := rfl
  part j := by
    rw [coreAt_modCore]
    split
    · next h => rw [hpart, h]
    · rfl
  pc j k := by rw [ctxAt_modCore hctxs]
theorem modCtx {n k : Nat} {f : Ctx → Ctx} (hf : (f (ctxAt s n k)).pc = (ctxAt s n k).pc) : SameIssuer s (modCtx s n k f) where
  core := rfl
  ctx := rfl
  latch := rfl
  part j := by
    rw [coreAt_modCtx]
    split
    · next h => rw [h]
    · rfl
  pc j i := by
    rw [ctxAt_modCtx]
    split
    · next h => rw [hf, h.1, h.2]
    · rfl
theorem modCur {f : Ctx → Ctx} (hf : (f (cur s)).pc = (cur s).pc) : SameIssuer s (modCur s f) := modCtx hf

theorem partOf (h : SameIssuer s t) (n : Nat) : partOf t n = partOf s n := congrArg (·.getD 0) (h.part n)
theorem cur_pc (h : SameIssuer s t) : (Machine.cur t).pc = (Machine.cur s).pc := by
  rw [cur, h.core, h.ctx]
  exact h.pc s.core s.ctx

/-! ### A demand, and a beat read ahead (R218, R378) -/

theorem lateL1 {n k : Nat} : SameIssuer s (lateL1 s n k) := by
  unfold Machine.lateL1
  split
  · exact (caches (.bump s n _)).trans (modCore (fun _ => rfl) fun _ => rfl)
  · exact .refl s
theorem demand {g : Go} {a : Access} {k : Nat} : SameIssuer s (demand s g a k) := by
  refine .ite (.refl s) (.ite ?_ (.ite lateL1 (.refl s)))
  unfold demandL1
  split
  · unfold usedL1
    split
    · exact caches ((SameButCaches.bump s _ _).trans (.setL1 _ _ _ _))
    · exact .refl s
  · exact lateL1

end SameIssuer

/-- The attempt to perform a part ends done or in a stall, and leaves the issuing context as it was. -/
def StaysAway (s : State) : PRes → Prop
  | .done t _ _ | .stall t _ => SameIssuer s t
  | _ => False
/-- Before it reaches its home, a read does what its L1 can do alone (R201). -/
theorem staysAway_performRead {g : Go} {a : Access} {va n : Nat} (hhome : g.home = false) :
    StaysAway s (performRead s g a va n false false) := by
  unfold performRead
  dsimp only
  split
  · exact ite_keeps (P := StaysAway s) (.refl s) .demand
  · simp only [locate, hhome, Bool.not_false, if_true]
    exact SameIssuer.demand
theorem staysAway_streamRead {g : Go} {a : Access} {p : Piece} {eng b : Nat} (hkind : a.kind = .streamRead eng b)
    (hhome : g.home = false) : StaysAway s (performPiece s g a p) := by
  unfold performPiece
  split
  · unfold performSpm
    rw [hkind]
    exact ite_keeps (P := StaysAway s) (.refl s) (SameIssuer.refl s)
  · simp only [hkind]
    exact staysAway_performRead hhome
/-- The parts of a beat that is read ahead end performed or in a wait, and leave the issuing context as it was. -/
def BeatAway (s : State) (eng b : Nat) : ARes → Prop
  | .fin t a => SameIssuer s t ∧ a.kind = .streamRead eng b
  | .wait t _ => SameIssuer s t
  | .ref _ _ _ _ _ => False
theorem beatAway_runPieces {eng b : Nat} {ps : List Piece} {g : Go} {a : Access} (h : SameIssuer s t)
    (hkind : a.kind = .streamRead eng b) (hhome : g.home = false) : BeatAway s eng b (runPieces ps t g a) := by
  induction ps generalizing t g a with
  | nil => exact ⟨h, hkind⟩
  | cons p ps ih =>
    unfold runPieces
    extract_lets a1
    have hpart : StaysAway t (performPiece t { g with hold := holdSC t a1 } a1 p) := staysAway_streamRead hkind hhome
    refine ite_keeps (P := BeatAway s eng b) h ?_
    split
    · next heq =>
      rw [heq] at hpart
      exact ih (h.trans hpart) hkind hhome
    · next heq =>
      rw [heq] at hpart
      exact h.trans hpart
    all_goals
      next heq =>
        rw [heq] at hpart
        exact hpart.elim

namespace SameIssuer

theorem submit_streamRead {a : Access} {eng b : Nat} (hkind : a.kind = .streamRead eng b) (hstage : a.stage = .ready) :
    SameIssuer s (submit s a) := by
  have hnote : noteDemand s a = s := by rw [noteDemand, hkind]
  have hgo : resumed { home := false } { a with id := s.accessId, cycle := s.cycle } = { home := false } := by rw [resumed, hstage]
  have haway : BeatAway s eng b (runPieces a.pieces (dropAccess { s with accessId := s.accessId + 1 } s.accessId)
      { home := false } { a with id := s.accessId, cycle := s.cycle }) := beatAway_runPieces (of_cores rfl rfl rfl rfl) hkind rfl
  rw [submit, hnote, runAccess, hgo, runAll]
  revert haway
  generalize runPieces a.pieces _ _ _ = r
  intro haway
  cases r with
  | fin t b =>
    obtain ⟨ht, hb⟩ := haway
    rw [hkind]
    dsimp only
    rw [finishAccess, hb]
    refine ht.trans (modCtx ?_)
    split <;> rfl
  | wait t b =>
    have ht : SameIssuer s t := haway
    exact ht.trans (of_cores rfl rfl rfl rfl)
  | ref => exact haway.elim
theorem readBeat {n k eng b : Nat} {st : Stream} : SameIssuer s (readBeat s n k eng st b) := by
  unfold Machine.readBeat
  dsimp only
  refine .ite (modCtx rfl) ?_
  split
  · exact modCtx rfl
  · exact submit_streamRead rfl rfl
theorem readAhead {eng : Nat} : SameIssuer s (readAhead s eng) := by
  unfold Machine.readAhead
  split
  · exact .refl s
  refine .ite ?_ (.refl s)
  unfold aheadOn
  split
  · exact .refl s
  split
  · exact readBeat
  · exact .refl s
theorem popBeat {eng : Nat} : SameIssuer s (popBeat s eng) := by
  unfold Machine.popBeat
  split
  · exact .refl s
  · exact .ite (modCur rfl) ((modCur rfl).trans readAhead)
/-- The beats of a bundle are popped: its issuing context is the one in which its operands were read (R83, R254). -/
theorem reading (s : State) (i : Instr) : SameIssuer (begin s [i]) (reading s i) := .foldl (.refl _) fun _ _ => popBeat

end SameIssuer

/-! ## The access of a bundle -/

/-- What the access takes in the state where its operands have been read is what the issuing context has (R83). -/
theorem SameIssuer.of_begin {i : Instr} (h : SameIssuer (begin s [i]) t) :
    t.core = s.core ∧ t.ctx = s.ctx ∧ (∀ n, Machine.partOf t n = Machine.partOf s n) ∧ (Machine.cur t).pc = (Machine.cur s).pc ∧ ops t = snapshot s := by
  obtain ⟨-, hcores, -⟩ := begin_kept s i
  obtain ⟨w, hcur⟩ := cur_begin s i
  refine ⟨h.core.trans (begin_core s i), h.ctx.trans (begin_ctx s i), fun n => ?_, ?_, ?_⟩
  · exact (h.partOf n).trans (congrArg (fun c : Core => c.part.getD 0) (hcores n) :)
  · rw [h.cur_pc, hcur]
  · rw [ops, h.latch]
    exact ops_begin s [i]
theorem accessOf_eq_sent {i : Instr} (h : SameIssuer (begin s [i]) t) (kind : AccessKind) (ps : List Piece) (data : Nat) (blocking : Bool) :
    accessOf t kind 0 ps data blocking = sent s kind ps data blocking := by
  obtain ⟨hcore, hctx, hpart, hpc, -⟩ := h.of_begin
  rw [accessOf, sent, hcore, hctx, hpart, hpc]
/-- The operands of a bundle where they have been read. -/
theorem ops_of_reading (s : State) (i : Instr) : ops (reading s i) = snapshot s := (SameIssuer.reading s i).of_begin.2.2.2.2

end
end Sys2Proof.Machine

namespace Sys2Proof.Machine
section
variable {s r : State} {i : Instr}

/-! ## Addresses, operands and parts -/

theorem loadAddr_snapshot (s : State) (f : FmtL) (unit : Nat) : loadAddr (snapshot s) f unit = loadAddr (cur s).regs f unit := by
  rw [loadAddr, addressOf, rx_snapshot]
  rfl
theorem storeAddr_snapshot (s : State) (f : FmtS) (unit : Nat) : storeAddr (snapshot s) f unit = storeAddr (cur s).regs f unit := by
  rw [storeAddr, addressOf, rx_snapshot]
  rfl
theorem spmX_eq (f : FmtR) : spmX f = decide (4 ≤ f.func.toNat) := by
  have hfunc := f.func.isLt
  rw [spmX, Bool.eq_iff_iff, beq_iff_eq, decide_eq_true_eq]
  omega
theorem not_spmX (f : FmtR) : (!spmX f) = decide (f.func.toNat < 4) := by
  rw [spmX_eq, ← decide_not]
  exact decide_eq_decide.mpr Nat.not_le
theorem inSpace_spmX (a : Access) (f : FmtR) : inSpace a (if spmX f then 2 else 0) = { a with spm := decide (4 ≤ f.func.toNat) } := by
  rw [← spmX_eq]
  cases spmX f <;> rfl
theorem lanesX_eq (x : Regs) (f : FmtR) : lanesX x f = activeLanes x f := by
  unfold lanesX activeLanes addrX
  congr 1
  funext l
  dsimp only
  split
  · next h =>
    split at h
    · cases h
    · next hne =>
      cases h
      rw [if_neg hne]
      rfl
  · next h =>
    split at h
    · next heq => rw [if_pos heq]
    · cases h
theorem pieces_eq_map (va unit : Nat) (write : Bool) (pos n : Nat) :
    pieces va unit write pos n = (List.range n).map fun j => part1 (va + unit * j) unit (pos + unit * j) write := by
  induction n generalizing va pos with
  | zero => rfl
  | succ n ih =>
    rw [pieces, ih, List.range_succ_eq_map, List.map_cons, List.map_map]
    refine congrArg₂ List.cons rfl (List.map_congr_left fun j _ => ?_)
    simp only [Function.comp, Nat.mul_succ, Nat.add_comm (unit * j) unit, Nat.add_assoc]

/-- The parts of a range of n bytes lie in one granule each and cover it, where the fuel is enough for its granules (R216). -/
theorem granules_cover {fuel va n pos : Nat} (hfuel : n = 0 ∨ va % 4096 + n ≤ 4096 * fuel) :
    (∀ p ∈ granules fuel va n pos, p.va / 4096 = (p.va + p.size - 1) / 4096 ∧ 0 < p.size ∧ p.write = true ∧
      p.va + pos = va + p.pos) ∧
    ∀ b, (va ≤ b ∧ b < va + n) ↔ ∃ p ∈ granules fuel va n pos, p.va ≤ b ∧ b < p.va + p.size := by
  induction fuel generalizing va n pos with
  | zero => exact ⟨nofun, fun b => ⟨fun h => by omega, fun ⟨p, hp, _⟩ => nomatch hp⟩⟩
  | succ fuel ih =>
    rw [granules]
    split
    · exact ⟨nofun, fun b => ⟨fun h => by omega, fun ⟨p, hp, _⟩ => nomatch hp⟩⟩
    · extract_lets k
      have hmod := Nat.mod_lt va (show 0 < 4096 by decide)
      have hk : k = n ∧ va % 4096 + n ≤ 4096 ∨ k = 4096 - va % 4096 ∧ k < n ∧ (va + k) % 4096 = 0 := by
        have hmin : k = min n (4096 - va % 4096) := rfl
        clear_value k
        omega
      clear_value k
      obtain ⟨hparts, hcover⟩ := ih (va := va + k) (n := n - k) (pos := pos + k) (by omega)
      refine ⟨fun p hp => ?_, fun b => ?_⟩
      · obtain rfl | hp := List.mem_cons.mp hp
        · exact ⟨by dsimp only; omega, by dsimp only; omega, rfl, rfl⟩
        · obtain ⟨hone, hpos, hwrite, hplace⟩ := hparts p hp
          exact ⟨hone, hpos, hwrite, by omega⟩
      · rw [List.exists_mem_cons_iff, ← hcover b]
        dsimp only
        omega

/-! ## What the instructions send -/

@[simp] theorem emptyX_pc (c : Ctx) (n : Nat) : (emptyX c n).pc = c.pc := by
  unfold emptyX
  split <;> rfl
@[simp] theorem emptyV_pc (c : Ctx) (n : Nat) : (emptyV c n).pc = c.pc := rfl
/-- Where rd has been emptied, the access is the one that the issuing context sends. -/
theorem accessOf_emptyX (s : State) (i : Instr) (rd : Nat) (kind : AccessKind) (ps : List Piece) (data : Nat) (blocking : Bool) :
    accessOf (modCur (reading s i) fun c => emptyX c rd) kind 0 ps data blocking = sent s kind ps data blocking := by
  have hemptied : SameIssuer (reading s i) (modCur (reading s i) fun c => emptyX c rd) := .modCur (emptyX_pc _ _)
  exact accessOf_eq_sent ((SameIssuer.reading s i).trans hemptied) ..
theorem accessOf_emptyV (s : State) (i : Instr) (rd : Nat) (kind : AccessKind) (ps : List Piece) (data : Nat) (blocking : Bool) :
    accessOf (modCur (reading s i) fun c => emptyV c rd) kind 0 ps data blocking = sent s kind ps data blocking := by
  have hemptied : SameIssuer (reading s i) (modCur (reading s i) fun c => emptyV c rd) := .modCur (emptyV_pc _ _)
  exact accessOf_eq_sent ((SameIssuer.reading s i).trans hemptied) ..
theorem accessOf_reading (s : State) (i : Instr) (kind : AccessKind) (ps : List Piece) (data : Nat) (blocking : Bool) :
    accessOf (reading s i) kind 0 ps data blocking = sent s kind ps data blocking := accessOf_eq_sent (.reading s i) ..

theorem exec_of_loadRow {f : FmtL} {size : Nat} {signed : Bool} (h : loadRow i = some (f, size, signed)) :
    exec i s = issue s i fun s => loadEff s f size size signed := by
  cases i with
  | ldb | ldbu | ldh | ldhu | ldw | ldwu | ldd => cases h; rfl
  | _ => cases h
theorem exec_of_storeRow {f : FmtS} {size : Nat} (h : storeRow i = some (f, size)) :
    exec i s = issue s i fun s => storeEff s f size size := by
  cases i with
  | stb | sth | stw | std => cases h; rfl
  | _ => cases h
theorem loadEff_sends (s : State) (i : Instr) {f : FmtL} (size : Nat) (signed : Bool) (h : f.sp ≠ 2) :
    loadEff (reading s i) f size size signed = submit (modCur (reading s i) fun c => emptyX c f.rd.toNat)
      { sent s (.load size signed (f.sp == 1) f.rd.toNat) [part1 (loadAddr (cur s).regs f size) size 0 false] 0 false with
        spm := f.sp == 3 } := by
  unfold loadEff
  dsimp only
  rw [toNat_addrL, ops_of_reading, loadAddr_snapshot, spaceL, if_neg h]
  by_cases h3 : f.sp = 3
  · rw [if_pos h3]
    rw [accessOf_emptyX, h3]
    rfl
  · rw [if_neg h3]
    rw [accessOf_emptyX, beq_eq_false_iff_ne.mpr h3]
    rfl
theorem storeEff_sends (s : State) (i : Instr) {f : FmtS} (size : Nat) (h : f.sp = 0 ∨ f.sp = 2) :
    storeEff (reading s i) f size size = submit (reading s i)
      { sent s .store [part1 (storeAddr (cur s).regs f size) size 0 true] (rx (cur s).regs f.rs2.toNat).toNat (f.sp == 0) with
        spm := f.sp == 2 } := by
  unfold storeEff
  dsimp only
  rw [toNat_addrS, ops_of_reading, storeAddr_snapshot, rx_snapshot]
  obtain h | h := h
  all_goals
    rw [h]
    exact congrArg (submit _ <| inSpace · _) (accessOf_reading ..)
/-- A release's access leaves as the statements say it. -/
theorem submitRel_eq_sentRel (s : State) (scope : BitVec 3) (a : Access) : submitRel s scope a = sentRel s scope a := by
  unfold submitRel sentRel releaseAt withSig
  by_cases h : scope.toNat < 2
  · simp [h, Nat.not_le_of_lt h]
  · simp only [if_pos (Nat.le_of_not_lt h), if_neg h, decide_eq_true (Nat.le_of_not_lt h), Bool.true_and]
    cases Config.isHome (releaseAll s s.core).core <;> rfl

end
end Sys2Proof.Machine

namespace Sys2Proof
open Machine

/-- Settles O28: each instruction's effect is performed where its operands have been read, and the access it makes there is
the one that the issuing context sends (`loadEff_sends`, `storeEff_sends`, `submitRel_eq_sentRel`). -/
theorem scalarAccessesAreSent : Obligations.ScalarAccessesAreSent := by
  refine ⟨fun s i f size signed hrow h hsp => gives_of_issue h (exec_of_loadRow hrow) (loadEff_sends s i size signed hsp),
    fun s i f size hrow h hsp => gives_of_issue h (exec_of_storeRow hrow) (storeEff_sends s i size hsp),
    fun s f h => gives_of_issue h rfl ?ldaq, fun s f h => gives_of_issue h rfl ?strl⟩
  case ldaq =>
    dsimp only
    rw [accessOf_emptyX, ops_of_reading, addrLA, offset_eq, rx_snapshot]
    rfl
  case strl =>
    dsimp only
    rw [submitRel_eq_sentRel, accessOf_reading, ops_of_reading, addrSR, offset_eq, rx_snapshot, rx_snapshot]
    rfl

/-- Settles O29: each access is the one that the issuing context sends, with its parts in order (`pieces_eq_map`), a lane
each (`lanesX_eq`) or a granule each (`granules_cover`). -/
theorem vectorAccessesAreSent : Obligations.VectorAccessesAreSent := by
  refine ⟨fun s f h hsp => gives_of_issue h rfl ?ldv, fun s f h hsp => gives_of_issue h rfl ?ldvSpm,
    fun s f h hsp => gives_of_issue h rfl ?stv, fun s f h => gives_of_issue h rfl ?ldvx,
    fun s f h => gives_of_issue h rfl ?stvx, fun s f h => ?wsclr, fun s f h => gives_of_issue h rfl ?publ⟩
  case ldv =>
    dsimp only
    rw [show spaceL f.sp = 0 from hsp]
    rw [accessOf_emptyV, ops_of_reading, toNat_addrL, loadAddr_snapshot, pieces_eq_map]
    simp only [Nat.zero_add]
  case ldvSpm =>
    dsimp only
    rw [show spaceL f.sp = 2 by rw [hsp]; rfl]
    change submit _ (inSpace (accessOf _ _ _ _ _ _) 2) = _
    rw [accessOf_emptyV, ops_of_reading, toNat_addrL, loadAddr_snapshot, pieces_eq_map]
    simp only [Nat.zero_add]
    rfl
  case stv =>
    dsimp only
    rw [ops_of_reading, toNat_addrS, storeAddr_snapshot, pieces_eq_map]
    simp only [Nat.zero_add]
    obtain hsp | hsp := hsp
    all_goals
      rw [hsp]
      exact congrArg (submit _ <| inSpace · _) (accessOf_reading ..)
  case ldvx =>
    dsimp only
    rw [accessOf_emptyV, ops_of_reading, lanesX_eq, inSpace_spmX]
    rfl
  case stvx =>
    dsimp only
    rw [accessOf_reading, ops_of_reading, lanesX_eq, inSpace_spmX, not_spmX]
    rfl
  case wsclr =>
    have hfuel (a n : Nat) : n = 0 ∨ a % 4096 + n ≤ 4096 * (n / 4096 + 2) := by omega
    obtain ⟨hparts, hcover⟩ := granules_cover (pos := 0) (hfuel (rx (cur s).regs f.rs1.toNat).toNat (rx (cur s).regs f.rs2.toNat).toNat)
    refine ⟨_, gives_of_issue h rfl ?_, hparts, hcover⟩
    dsimp only
    rw [accessOf_reading, ops_of_reading, rx_snapshot, rx_snapshot]
  case publ =>
    dsimp only
    rw [accessOf_reading, ops_of_reading, rx_snapshot, rx_snapshot]
    rfl

end Sys2Proof

/-! # Releases write back and acquires drop (R166, R168, R183, R185) -/

namespace Sys2Proof.Machine
section
variable {s t : State} {n j k : Nat}

/-! ## Bytes of a line -/

theorem bits_lt (w lo n : Nat) : bits w lo n < 2 ^ n := Nat.mod_lt _ (Nat.two_pow_pos n)
/-- A number by the bits below a field, the field, and the bits above it. -/
theorem eq_bits_add (w lo n : Nat) : w = w % 2 ^ lo + bits w lo n * 2 ^ lo + w / 2 ^ (lo + n) * 2 ^ (lo + n) := by
  have hlow := Nat.mod_add_div w (2 ^ lo)
  have hhigh := Nat.mod_add_div (w / 2 ^ lo) (2 ^ n)
  rw [Nat.div_div_eq_div_mul, ← Nat.pow_add] at hhigh
  rw [bits, Nat.pow_add 2 lo n]
  rw [← hhigh] at hlow
  rw [← Nat.pow_add 2 lo n]
  calc w = w % 2 ^ lo + 2 ^ lo * (w / 2 ^ lo % 2 ^ n + 2 ^ n * (w / 2 ^ (lo + n))) := hlow.symm
    _ = _ := by rw [Nat.pow_add]; ring
theorem putBits_eq (w lo n x : Nat) : putBits w lo n x = w % 2 ^ lo + x % 2 ^ n * 2 ^ lo + w / 2 ^ (lo + n) * 2 ^ (lo + n) := by
  have h := eq_bits_add w lo n
  rw [putBits]
  omega
theorem testBit_putBits (w lo n x i : Nat) :
    (putBits w lo n x).testBit i = if lo ≤ i ∧ i < lo + n then x.testBit (i - lo) else w.testBit i := by
  have hform : putBits w lo n x = 2 ^ lo * (2 ^ n * (w / 2 ^ (lo + n)) + x % 2 ^ n) + w % 2 ^ lo := by
    rw [putBits_eq, Nat.pow_add]
    ring
  rw [hform, Nat.testBit_two_pow_mul_add _ (Nat.mod_lt _ (Nat.two_pow_pos lo)), Nat.testBit_two_pow_mul_add _ (Nat.mod_lt _ (Nat.two_pow_pos n))]
  by_cases hlow : i < lo
  · rw [if_pos hlow, if_neg (by omega), Nat.testBit_mod_two_pow, decide_eq_true hlow, Bool.true_and]
  · rw [if_neg hlow]
    by_cases hfield : i - lo < n
    · rw [if_pos hfield, if_pos (by omega), Nat.testBit_mod_two_pow, decide_eq_true hfield, Bool.true_and]
    · rw [if_neg hfield, if_neg (by omega), Nat.testBit_div_two_pow]
      congr 1
      omega

theorem getLsbD_byteAt (v b i : Nat) (hi : i < 8) : (byteAt v b).getLsbD i = v.testBit (8 * b + i) := by
  rw [byteAt, BitVec.getLsbD_ofNat, decide_eq_true hi, Bool.true_and, Nat.testBit_div_two_pow, Nat.add_comm]
/-- A byte written in a line reads back, and every other byte of the line reads as before. -/
theorem byteAt_linePut (d : LineData) {i b : Nat} (v : Nat) (hb : b < 64) :
    byteAt (linePut d i 1 v).toNat b = if b = i then BitVec.ofNat 8 v else byteAt d.toNat b := by
  refine BitVec.eq_of_getLsbD_eq fun q hq => ?_
  rw [getLsbD_byteAt _ _ _ hq, linePut, BitVec.toNat_ofNat, Nat.testBit_mod_two_pow, decide_eq_true (by omega), Bool.true_and,
    testBit_putBits]
  split
  · next h =>
    rw [if_pos (by omega), BitVec.getLsbD_ofNat, decide_eq_true hq, Bool.true_and]
    congr 1
    omega
  · next h => rw [if_neg (by omega), getLsbD_byteAt _ _ _ hq]
theorem ofNat_lineGet (d : LineData) (i : Nat) : BitVec.ofNat 8 (lineGet d i 1) = byteAt d.toNat i := by
  rw [lineGet, bits, byteAt]
  exact BitVec.eq_of_toNat_eq (by simp)

/-! ## The home copy after a writeback -/

/-- The marked bytes among the first n of a home line, from an L1's data (R185). -/
def mergedTo (d : LineData) (m : BitVec 64) (h : HomeLine) (n : Nat) : HomeLine :=
  (List.range n).foldl
    (fun h i => if m.getLsbD i then { h with data := linePut h.data i 1 (lineGet d i 1), dirty := true } else h) h
/-- What a line of an L1 leaves of its home's copy: a peer's stands at the package that owns it (R198). -/
def writtenBack (l : L1Line) (h : HomeLine) : HomeLine := if isPeer h.pa then h else mergedTo l.data l.dirty h 64

theorem mergedTo_succ (d : LineData) (m : BitVec 64) (h : HomeLine) (n : Nat) : mergedTo d m h (n + 1) =
    if m.getLsbD n then { mergedTo d m h n with data := linePut (mergedTo d m h n).data n 1 (lineGet d n 1), dirty := true }
    else mergedTo d m h n := by
  rw [mergedTo, List.range_succ, List.foldl_append]
  rfl
theorem mergedTo_pa (d : LineData) (m : BitVec 64) (h : HomeLine) (n : Nat) : (mergedTo d m h n).pa = h.pa := by
  induction n with
  | zero => rfl
  | succ n ih =>
    rw [mergedTo_succ]
    split <;> exact ih
theorem byteAt_mergedTo (d : LineData) (m : BitVec 64) (h : HomeLine) (n : Nat) {b : Nat} (hb : b < 64) :
    byteAt (mergedTo d m h n).data.toNat b = if m.getLsbD b = true ∧ b < n then byteAt d.toNat b else byteAt h.data.toNat b := by
  induction n with
  | zero => rw [if_neg (by omega)]; rfl
  | succ n ih =>
    rw [mergedTo_succ]
    split
    · next hn =>
      rw [byteAt_linePut _ _ hb, ih, ofNat_lineGet]
      by_cases hbn : b = n
      · subst hbn
        rw [if_pos rfl, if_pos ⟨hn, by omega⟩]
      · rw [if_neg hbn]
        exact if_congr (and_congr_right fun _ => by omega) rfl rfl
    · next hn =>
      rw [ih]
      refine if_congr (and_congr_right fun hm => ?_) rfl rfl
      have hbn : b ≠ n := fun h => hn (h ▸ hm)
      omega
theorem mergedTo_clean (d : LineData) (h : HomeLine) (n : Nat) : mergedTo d 0 h n = h := by
  induction n with
  | zero => rfl
  | succ n ih =>
    rw [mergedTo_succ, ih]
    exact if_neg (by rw [show (0 : BitVec 64).getLsbD n = false from BitVec.getLsbD_zero]; exact Bool.false_ne_true)
theorem writtenBack_clean {l : L1Line} (h : HomeLine) (hl : l.dirty = 0) : writtenBack l h = h := by
  rw [writtenBack, hl, mergedTo_clean, ite_self]

theorem keyHome_of_same (h : SameButCaches s t) (k : Nat) : keyHome t k = keyHome s k := by
  have hparts : t.parts = s.parts := (congrArg State.parts h.units :)
  rw [keyHome, homeIn, partAt, hparts]
  rfl
theorem homeLine_setHome (s : State) (j k : Nat) (h : HomeLine) :
    homeLine (setHome s j h) k = if k = j then some h else homeLine s k := by
  unfold homeLine
  rw [keyHome_of_same (.setHome s j h), setHome, sliceAt_modSlice]
  by_cases hk : k = j
  · rw [if_pos hk, hk, if_pos rfl, ffind_fset, if_pos rfl]
  · rw [if_neg hk]
    split
    · next hslice => rw [ffind_fset, if_neg hk, hslice]
    · rfl
theorem homeLine_putHome (s : State) (j k i v : Nat) : homeLine (putHome s j i 1 v) k =
    if k = j then (homeLine s j).map fun h => if isPeer h.pa then h else { h with data := linePut h.data i 1 v, dirty := true }
    else homeLine s k := by
  unfold putHome
  cases hj : homeLine s j with
  | none =>
    dsimp only [Option.map_none]
    by_cases hk : k = j
    · rw [if_pos hk, hk, hj]
    · rw [if_neg hk]
  | some h =>
    dsimp only [Option.map_some]
    by_cases hpeer : isPeer h.pa = true
    · rw [if_pos hpeer, if_pos hpeer]
      by_cases hk : k = j
      · rw [if_pos hk, hk, ← hj]; rfl
      · rw [if_neg hk]; rfl
    · rw [if_neg hpeer, if_neg hpeer, homeLine_setHome]
theorem homeLine_mergeHome (s : State) (j k : Nat) (d : LineData) (m : BitVec 64) : homeLine (mergeHome s j d m) k =
    if k = j then (homeLine s j).map fun h => if isPeer h.pa then h else mergedTo d m h 64 else homeLine s k := by
  have hfold (n : Nat) (k : Nat) : homeLine ((List.range n).foldl
      (fun s i => if m.getLsbD i then putHome s j i 1 (lineGet d i 1) else s) s) k =
      if k = j then (homeLine s j).map fun h => if isPeer h.pa then h else mergedTo d m h n else homeLine s k := by
    induction n generalizing k with
    | zero =>
      by_cases hk : k = j
      · rw [if_pos hk, hk]
        cases h : homeLine s j <;> simp [mergedTo, h]
      · rw [if_neg hk]; rfl
    | succ n ih =>
      rw [List.range_succ, List.foldl_append]
      dsimp only [List.foldl_cons, List.foldl_nil]
      by_cases hm : m.getLsbD n = true
      · rw [if_pos hm, homeLine_putHome, ih, ih, if_pos rfl, Option.map_map]
        by_cases hk : k = j
        · rw [if_pos hk, if_pos hk]
          refine congrArg (Option.map · (homeLine s j)) (funext fun h => ?_)
          dsimp only [Function.comp]
          by_cases hp : isPeer h.pa = true
          · simp only [if_pos hp]
          · simp only [if_neg hp, mergedTo_pa, mergedTo_succ, if_pos hm]
        · rw [if_neg hk, if_neg hk, if_neg hk]
      · rw [if_neg hm, ih]
        simp only [mergedTo_succ, if_neg hm]
  exact hfold 64 k

/-! ## Lines of the L1 -/

theorem cores_putHome (s : State) (j i b v : Nat) : (putHome s j i b v).cores = s.cores := by
  unfold putHome
  split
  · rfl
  · split <;> rfl
theorem cores_mergeHome (s : State) (j : Nat) (d : LineData) (m : BitVec 64) : (mergeHome s j d m).cores = s.cores :=
  foldl_keeps (P := fun u : State => u.cores = s.cores) (fun _ _ h => ite_keeps (P := fun u : State => u.cores = s.cores) ((cores_putHome ..).trans h) h) rfl
theorem cores_modHome (s : State) (j : Nat) (f : HomeLine → HomeLine) : (modHome s j f).cores = s.cores := by
  unfold modHome
  split <;> rfl
theorem l1Line_of_cores (h : t.cores = s.cores) : l1Line t n k = l1Line s n k := by
  rw [l1Line, coreAt, h]
  rfl
theorem l1Line_setL1 (s : State) (n j k : Nat) (l : L1Line) :
    l1Line (setL1 s n j l) n k = if k = j then some l else l1Line s n k := by
  rw [l1Line, setL1, coreAt_modCore, if_pos rfl]
  exact ffind_fset ..
theorem homeLine_of_slices (h : SameButCaches s t) (hs : t.slices = s.slices) : homeLine t k = homeLine s k := by
  rw [homeLine, keyHome_of_same h, sliceAt, hs]
  rfl
theorem homeLine_setL1 (s : State) (n j k : Nat) (l : L1Line) : homeLine (setL1 s n j l) k = homeLine s k :=
  homeLine_of_slices (.setL1 ..) rfl

/-- A clean line of an L1, as its own dirty bytes stand at the home. -/
def cleaned (l : L1Line) : L1Line := { l with dirty := 0 }
theorem l1Line_cleanL1 {l : L1Line} (h : l1Line s n j = some l) : l1Line (cleanL1 s n j) n j = some (cleaned l) := by
  unfold cleanL1
  rw [h]
  dsimp only
  by_cases hd : l.dirty = 0
  · rw [if_pos hd, h, cleaned, ← hd]
  · rw [if_neg hd, l1Line_setL1, if_pos rfl, cleaned]
theorem homeLine_cleanL1 {l : L1Line} (h : l1Line s n j = some l) :
    homeLine (cleanL1 s n j) j = (homeLine s j).map (writtenBack l) := by
  unfold cleanL1
  rw [h]
  dsimp only
  by_cases hd : l.dirty = 0
  · rw [if_pos hd, Option.map_congr fun h _ => writtenBack_clean h hd, Option.map_id']
  · rw [if_neg hd, homeLine_setL1, homeLine_mergeHome, if_pos rfl]
    rfl
theorem cleanL1_other (hk : k ≠ j) :
    l1Line (cleanL1 s n j) n k = l1Line s n k ∧ homeLine (cleanL1 s n j) k = homeLine s k := by
  unfold cleanL1
  split
  · exact ⟨rfl, rfl⟩
  · split
    · exact ⟨rfl, rfl⟩
    · exact ⟨by rw [l1Line_setL1, if_neg hk, l1Line_of_cores (cores_mergeHome ..)],
        by rw [homeLine_setL1, homeLine_mergeHome, if_neg hk]⟩

/-! ## Walks over the lines of an L1 -/

variable {p : Nat → L1Line → Bool}

/-- A walk of writebacks leaves a line that it does not select, and that line's home copy. -/
theorem cleanWalk_other {m : FMap L1Line} (h : ∀ e ∈ m, e.1 = k → p e.1 e.2 = false) :
    l1Line (m.foldl (fun s e => if p e.1 e.2 then cleanL1 s n e.1 else s) s) n k = l1Line s n k ∧
    homeLine (m.foldl (fun s e => if p e.1 e.2 then cleanL1 s n e.1 else s) s) k = homeLine s k := by
  induction m generalizing s with
  | nil => exact ⟨rfl, rfl⟩
  | cons e m ih =>
    obtain ⟨hl1, hhome⟩ := ih (s := if p e.1 e.2 then cleanL1 s n e.1 else s) fun e' he' => h e' (.tail _ he')
    rw [List.foldl_cons, hl1, hhome]
    split
    · next hp =>
      have hk : k ≠ e.1 := fun hk => by simp [h e (.head _) hk.symm] at hp
      exact cleanL1_other hk
    · exact ⟨rfl, rfl⟩
theorem above_of_frising {α : Type} {m : FMap α} {lo : Nat} (h : frising lo m = true) : ∀ e ∈ m, lo ≤ e.1 := by
  induction m generalizing lo with
  | nil => simp
  | cons e m ih =>
    simp only [frising, Bool.and_eq_true, decide_eq_true_eq] at h
    obtain ⟨hlo, hm⟩ := h
    intro e' he'
    obtain _ | he' := he'
    · exact hlo
    · have := ih hm e' (by assumption)
      omega
/-- A walk of writebacks over rising keys cleans a line that it selects, whose home copy takes its dirty bytes. -/
theorem cleanWalk_selected {m : FMap L1Line} {lo : Nat} {l : L1Line} (hm : frising lo m = true) (hk : ffind m k = some l)
    (hp : p k l = true) (hl : l1Line s n k = some l) :
    l1Line (m.foldl (fun s e => if p e.1 e.2 then cleanL1 s n e.1 else s) s) n k = some (cleaned l) ∧
    homeLine (m.foldl (fun s e => if p e.1 e.2 then cleanL1 s n e.1 else s) s) k = (homeLine s k).map (writtenBack l) := by
  induction m generalizing s lo with
  | nil => simp [ffind] at hk
  | cons e m ih =>
    obtain ⟨j, w⟩ := e
    simp only [frising, Bool.and_eq_true, decide_eq_true_eq] at hm
    rw [ffind] at hk
    rw [List.foldl_cons]
    by_cases hj : j = k
    · subst hj
      rw [if_pos rfl, Option.some.injEq] at hk
      subst hk
      have hother : ∀ e ∈ m, e.1 = j → p e.1 e.2 = false := fun e he h => by
        have := above_of_frising hm.2 e he
        omega
      obtain ⟨hl1, hhome⟩ := cleanWalk_other (s := cleanL1 s n j) (n := n) hother
      rw [if_pos hp, hl1, hhome]
      exact ⟨l1Line_cleanL1 hl, homeLine_cleanL1 hl⟩
    · rw [if_neg hj] at hk
      have hstep : l1Line (if p j w then cleanL1 s n j else s) n k = l1Line s n k ∧
          homeLine (if p j w then cleanL1 s n j else s) k = homeLine s k := by
        split
        · exact cleanL1_other (Ne.symm hj)
        · exact ⟨rfl, rfl⟩
      obtain ⟨hl1, hhome⟩ := ih hm.2 hk (hstep.1.trans hl)
      exact ⟨hl1, hhome.trans (by rw [hstep.2])⟩

theorem ffind_below {α : Type} {m : FMap α} {lo : Nat} (h : frising lo m = true) (hk : k < lo) : ffind m k = none := by
  induction m generalizing lo with
  | nil => rfl
  | cons e m ih =>
    simp only [frising, Bool.and_eq_true, decide_eq_true_eq] at h
    rw [ffind, if_neg (by omega), ih h.2 (by omega)]
theorem frising_fdel {α : Type} {m : FMap α} {lo : Nat} (h : frising lo m = true) : frising lo (fdel m j) = true := by
  induction m generalizing lo with
  | nil => rfl
  | cons e m ih =>
    simp only [frising, Bool.and_eq_true, decide_eq_true_eq] at h
    rw [fdel]
    split
    · exact frising_mono (by omega) h.2
    · simp only [frising, Bool.and_eq_true, decide_eq_true_eq]
      exact ⟨h.1, ih h.2⟩
theorem ffind_fdel {α : Type} {m : FMap α} {lo : Nat} (h : frising lo m = true) :
    ffind (fdel m j) k = if k = j then none else ffind m k := by
  induction m generalizing lo with
  | nil => simp [fdel, ffind]
  | cons e m ih =>
    obtain ⟨i, v⟩ := e
    simp only [frising, Bool.and_eq_true, decide_eq_true_eq] at h
    rw [fdel]
    by_cases hi : i = j
    · subst hi
      rw [if_pos rfl, ffind]
      by_cases hk : k = i
      · rw [if_pos hk]
        exact ffind_below h.2 (by omega)
      · rw [if_neg hk, if_neg (Ne.symm hk)]
    · rw [if_neg hi, ffind, ih h.2, ffind]
      by_cases hk : k = j
      · rw [if_pos hk, if_neg (by omega), if_pos hk]
      · rw [if_neg hk, if_neg hk]

theorem l1_dropL1 (s : State) (n j : Nat) :
    (coreAt (dropL1 s n j) n).l1 = match l1Line s n j with | none => (coreAt s n).l1 | some _ => fdel (coreAt (cleanL1 s n j) n).l1 j := by
  unfold dropL1
  cases h : l1Line s n j with
  | none => rfl
  | some l =>
    dsimp only
    rw [delL1, coreAt_modCore, if_pos rfl]
    have hhome : coreAt (modHome (cleanL1 s n j) j fun h => { h with tok := h.tok + l.tok, owner := h.owner || l.owner }) n =
        coreAt (cleanL1 s n j) n := by rw [coreAt, cores_modHome]; rfl
    split
    · rw [bump, coreAt_modCore, if_pos rfl, hhome]
    · rw [hhome]
theorem frising_cleanL1 (h : frising 0 (coreAt s n).l1 = true) : frising 0 (coreAt (cleanL1 s n j) n).l1 = true := by
  unfold cleanL1
  split
  · exact h
  · split
    · exact h
    · rw [setL1, coreAt_modCore, if_pos rfl]
      refine frising_fset _ (Nat.zero_le j) ?_
      rw [coreAt, cores_mergeHome]
      exact h
theorem frising_dropL1 (h : frising 0 (coreAt s n).l1 = true) : frising 0 (coreAt (dropL1 s n j) n).l1 = true := by
  rw [l1_dropL1]
  split
  · exact h
  · exact frising_fdel (frising_cleanL1 h)
theorem l1Line_dropL1 (h : frising 0 (coreAt s n).l1 = true) :
    l1Line (dropL1 s n j) n k = if k = j then none else l1Line s n k := by
  rw [l1Line, l1_dropL1]
  split
  · next hj =>
    split
    · next hk => rw [hk]; exact hj
    · rfl
  · rw [ffind_fdel (frising_cleanL1 h)]
    by_cases hk : k = j
    · rw [if_pos hk, if_pos hk]
    · rw [if_neg hk, if_neg hk]
      exact (cleanL1_other hk).1
/-- After a walk of drops no line is left that it selects. -/
theorem l1Line_dropWalk {m : FMap L1Line} {l : L1Line} (h : frising 0 (coreAt s n).l1 = true)
    (hl : l1Line (m.foldl (fun s e => if p e.1 e.2 then dropL1 s n e.1 else s) s) n k = some l) :
    l1Line s n k = some l ∧ ∀ e ∈ m, e.1 = k → p e.1 e.2 = false := by
  induction m generalizing s with
  | nil => exact ⟨hl, by simp⟩
  | cons e m ih =>
    rw [List.foldl_cons] at hl
    by_cases hp : p e.1 e.2 = true
    · rw [if_pos hp] at hl
      obtain ⟨hline, hm⟩ := ih (frising_dropL1 h) hl
      rw [l1Line_dropL1 h] at hline
      by_cases hk : k = e.1
      · simp [hk] at hline
      · rw [if_neg hk] at hline
        exact ⟨hline, List.forall_mem_cons.mpr ⟨fun he => absurd he.symm hk, hm⟩⟩
    · rw [if_neg hp] at hl
      obtain ⟨hline, hm⟩ := ih h hl
      exact ⟨hline, List.forall_mem_cons.mpr ⟨fun _ => by simpa using hp, hm⟩⟩
theorem mem_of_ffind {α : Type} {m : FMap α} {v : α} (h : ffind m k = some v) : (k, v) ∈ m := by
  induction m with
  | nil => simp [ffind] at h
  | cons e m ih =>
    rw [ffind] at h
    split at h
    · next he =>
      simp only [Option.some.injEq] at h
      subst he h
      exact .head _
    · exact .tail _ (ih h)
theorem ffind_of_mem {α : Type} {m : FMap α} {lo : Nat} {e : Nat × α} (h : frising lo m = true) (he : e ∈ m) :
    ffind m e.1 = some e.2 := by
  induction m generalizing lo with
  | nil => simp at he
  | cons e' m ih =>
    simp only [frising, Bool.and_eq_true, decide_eq_true_eq] at h
    rw [ffind]
    obtain _ | he := he
    · rw [if_pos rfl]
    · have hmem : e ∈ m := by assumption
      have hbelow := above_of_frising h.2 e hmem
      rw [if_neg (by omega), ih h.2 hmem]

/-! ## Release and acquire over all -/

theorem ct_eq_ctRC {l : L1Line} : (l.ct == ctRC) = true ↔ l.ct = 1 := beq_iff_eq
/-- Release over all cleans the RC lines of the core. -/
theorem releaseAll_of_rc {l : L1Line} (h : frising 0 (coreAt s n).l1 = true) (hl : l1Line s n k = some l) (hct : l.ct = 1) :
    l1Line (releaseAll s n) n k = some (cleaned l) ∧ homeLine (releaseAll s n) k = (homeLine s k).map (writtenBack l) :=
  cleanWalk_selected (p := fun _ l => l.ct == ctRC) h hl (ct_eq_ctRC.mpr hct) hl
theorem l1Line_releaseAll_other (hr : frising 0 (coreAt s n).l1 = true) (h : ∀ l, l1Line s n k = some l → l.ct ≠ 1) :
    l1Line (releaseAll s n) n k = l1Line s n k := by
  refine (cleanWalk_other (p := fun _ l => l.ct == ctRC) fun e he hk => ?_).1
  have hct := h e.2 (hk ▸ ffind_of_mem hr he)
  exact Bool.eq_false_iff.mpr fun hc => hct (ct_eq_ctRC.mp hc)
end
end Sys2Proof.Machine

namespace Sys2Proof
open Machine

/-- Settles O34, by following the writeback or the drop of one line through the walk over all lines of the core. -/
theorem releasesWriteBackAndAcquiresDrop : Obligations.ReleasesWriteBackAndAcquiresDrop := by
  intro s n hr
  refine ⟨fun k l hl hct => ?_, fun k l h hl hct hh hp b hb => ?_, fun k l hl hct => ?_⟩
  · by_cases hrc : ∃ l₀, l1Line s n k = some l₀ ∧ l₀.ct = 1
    · obtain ⟨l₀, hl₀, hct₀⟩ := hrc
      rw [(releaseAll_of_rc hr hl₀ hct₀).1, Option.some.injEq] at hl
      rw [← hl, cleaned]
    · push Not at hrc
      rw [l1Line_releaseAll_other hr hrc] at hl
      exact absurd hct (hrc l hl)
  · have hhome := (releaseAll_of_rc hr hl hct).2
    rw [hh, homeLine, keyHome_of_same (.releaseAll s n)] at hhome
    rw [byteOf, hhome]
    dsimp only [Option.map_some]
    rw [writtenBack, if_neg (by simp [hp]), byteAt_mergedTo _ _ _ _ hb]
    exact if_congr (and_iff_left hb) rfl rfl
  · obtain ⟨hline, hdrop⟩ := l1Line_dropWalk (p := fun _ l => l.ct == ctRC) hr hl
    have := hdrop (k, l) (mem_of_ffind hline) rfl
    exact absurd (ct_eq_ctRC.mpr hct) (by simpa using this)

end Sys2Proof

/-! # Parts of scratchpad accesses at their banks (R151, R152, R206, R207) -/

namespace Sys2Proof.Machine
section
variable {s t : State} {n clu bank i : Nat} {a : Access} {p : Piece} {b : Bank}

/-! ## What a bank grants to a core -/

theorem eq_core_of_engineWords {x : Nat × Grant} {c id j : Nat} (h : x ∈ engineWords s clu) : x.2 ≠ .core c id j := by
  unfold engineWords copyWords at h
  split at h
  · obtain ⟨e, -, rfl⟩ := List.mem_map.mp h
    exact Grant.noConfusion
  · obtain ⟨e, -, he⟩ := List.mem_flatMap.mp h
    obtain ⟨c, -, hc⟩ := List.mem_flatMap.mp he
    obtain ⟨w, -, rfl⟩ := List.mem_map.mp hc
    exact Grant.noConfusion
theorem mem_coresAt {j : Nat} {g : Grant} (h : (j, g) ∈ coresAt s clu bank) :
    ∃ x, x.1 ∈ s.accesses ∧ atBank s x = true ∧ g = .core (8 * clu + j) x.1.id x.2 := by
  obtain ⟨j', -, hj⟩ := List.mem_flatMap.mp h
  obtain ⟨x, hx, heq⟩ := List.mem_map.mp hj
  rw [List.mem_filter, Bool.and_eq_true] at hx
  obtain ⟨hx, hbank, -⟩ := hx
  obtain ⟨y, hy, hi⟩ := List.mem_flatMap.mp (List.mem_of_mem_take hx)
  obtain ⟨k, -, rfl⟩ := List.mem_map.mp hi
  cases heq
  exact ⟨(y, k), (List.mem_filter.mp hy).1, hbank, rfl⟩
/-- A core's request that a bank grants is one that waits there. -/
theorem coresAt_of_bankGrant {c id : Nat} (h : bankGrant s clu bank = some (.core c id i, b)) :
    ∃ j, (j, .core c id i) ∈ coresAt s clu bank := by
  have hcore {x : Nat × Grant} {P : Nat × Grant → Bool}
      (hx : ((coresAt s clu bank).find? P).or (coresAt s clu bank).head? = some x) : x ∈ coresAt s clu bank := by
    rcases Option.or_eq_some_iff.mp hx with h | ⟨-, h⟩
    · exact List.mem_of_find?_eq_some h
    · exact List.mem_of_head? h
  unfold bankGrant at h
  dsimp only at h
  split at h
  · cases h
  · split at h
    · next hg _ =>
      simp only [Option.some.injEq, Prod.mk.injEq] at h
      exact absurd h.1 (eq_core_of_engineWords (List.mem_of_find?_eq_some hg))
    · next hg hx =>
      split at h
      · simp only [Option.some.injEq, Prod.mk.injEq] at h
        exact ⟨_, h.1 ▸ hcore hx⟩
      · simp only [Option.some.injEq, Prod.mk.injEq] at h
        exact absurd h.1 (eq_core_of_engineWords (List.mem_of_find?_eq_some hg))
    · next hx =>
      simp only [Option.some.injEq, Prod.mk.injEq] at h
      exact ⟨_, h.1 ▸ hcore hx⟩
    · cases h
/-- The part that a bank grants waits there, behind nothing. -/
theorem atBank_of_bankGrant (hs : Sole s a) (h : bankGrant s clu bank = some (.core a.core a.id i, b)) :
    atBank s (a, i) = true := by
  obtain ⟨j, hj⟩ := coresAt_of_bankGrant h
  obtain ⟨⟨x, k⟩, hx, hat, heq⟩ := mem_coresAt hj
  simp only [Grant.core.injEq] at heq
  obtain ⟨-, hid, rfl⟩ := heq
  obtain rfl : x = a := hs.2 x hx hid.symm
  exact hat

/-! ## What holds the part when it is performed -/

/-- The state in which the part that a bank grants is performed. -/
def serving (s : State) (clu bank : Nat) (b : Bank) (id : Nat) : State := dropAccess (granted1 s clu bank b) id
theorem cluAt_serving (s : State) (clu bank : Nat) (b : Bank) (id n : Nat) :
    ∃ l, cluAt (serving s clu bank b id) n = { cluAt s n with banks := l } := by
  show ∃ l, cluAt (granted1 s clu bank b) n = { cluAt s n with banks := l }
  rw [granted1, cluAt_modClu]
  split
  · next h => exact ⟨_, by rw [h]⟩
  · exact ⟨(cluAt s n).banks, rfl⟩
theorem any_serving {id : Nat} {f : Access → Bool} (h : ∀ x, f x = true → x.id ≠ id) :
    (serving s clu bank b id).accesses.any f = s.accesses.any f := by
  show (s.accesses.filter fun x => !(x.id == id)).any f = _
  rw [List.any_filter]
  refine List.any_congr rfl fun x => ?_
  cases hf : f x with
  | false => rw [Bool.and_false]
  | true => simp [h x hf]
theorem spmRead_serving (s : State) (clu bank : Nat) (b : Bank) (id c o k : Nat) :
    spmRead (serving s clu bank b id) c o k = spmRead s c o k := by
  obtain ⟨l, hl⟩ := cluAt_serving s clu bank b id c
  rw [spmRead, hl]
  rfl
theorem npWrites_serving (s : State) (clu bank : Nat) (b : Bank) (id : Nat) (q : NReq) :
    npWrites (serving s clu bank b id) q = npWrites s q := by
  obtain ⟨l, hl⟩ := cluAt_serving s clu bank b id (q.core / 8)
  rw [npWrites, hl]
  rfl
theorem npMeets_serving (s : State) (clu bank : Nat) (b : Bank) (id : Nat) (q : NReq) (w : Bool) (va size : Nat) :
    npMeets (serving s clu bank b id) q w va size = npMeets s q w va size := by
  obtain ⟨l, hl⟩ := cluAt_serving s clu bank b id (q.core / 8)
  have hreads : npReads (serving s clu bank b id) q = npReads s q := by
    rw [npReads, hl]
    rfl
  rw [npMeets, npWrites_serving, hreads]
  rfl
theorem rowRanges_serving (s : State) (clu bank : Nat) (b : Bank) (id n : Nat) (m : MCmd) :
    rowRanges (serving s clu bank b id) n m = rowRanges s n m := by
  simp only [rowRanges, indexEntries, indexCount, spmRead_serving]
/-- What a command reads does not turn on an access that the command does not follow. -/
theorem commandReads_serving {id : Nat} {m : MCmd} (hm : m.before ≤ id) :
    commandReads (serving s clu bank b id) n m = commandReads s n m := by
  obtain ⟨l, hl⟩ := cluAt_serving s clu bank b id n
  have hmoves : indexMoves (serving s clu bank b id) n m = indexMoves s n m := by
    unfold indexMoves
    rw [any_serving, hl]
    · simp only [npWrites_serving]
    · intro x hx
      simp only [Bool.and_eq_true, decide_eq_true_eq] at hx
      omega
  rw [commandReads, hmoves, rowRanges_serving]
  rfl
theorem commandsRead_serving (s : State) (clu bank : Nat) (b : Bank) (c k id lo hi : Nat) :
    commandsRead (serving s clu bank b id) c k id lo hi = commandsRead s c k id lo hi := by
  obtain ⟨l, hl⟩ := cluAt_serving s clu bank b id (c / 8)
  unfold commandsRead
  rw [hl]
  refine List.any_congr rfl fun m => ?_
  by_cases hm : m.before ≤ id
  · rw [commandReads_serving hm]
  · rw [decide_eq_false hm, Bool.and_false, Bool.false_and, Bool.false_and]
theorem lockHolds_serving (s : State) (clu bank : Nat) (b : Bank) (id n lo hi : Nat) :
    lockHolds (serving s clu bank b id) n lo hi = lockHolds s n lo hi := by
  obtain ⟨l, hl⟩ := cluAt_serving s clu bank b id n
  unfold lockHolds
  rw [hl]
  simp only [indexRanges, indexCount, spmRead_serving, rowRanges_serving]
/-- What holds a part of an access turns neither on the access itself nor on the grants of a bank (R164, R266, R267). -/
theorem spmFree_serving (s : State) (clu bank : Nat) (b : Bank) (a : Access) (p : Piece) :
    spmFree (serving s clu bank b a.id) a p = spmFree s a p := by
  obtain ⟨l, hl⟩ := cluAt_serving s clu bank b a.id (a.core / 8)
  rw [spmFree, spmFree, commandHolds, commandHolds, lockHolds_serving, commandsRead_serving, predictorHolds, hl]
  simp only [npMeets_serving]
  rfl
theorem behind_serving (h : behind s a p = false) : behind (serving s clu bank b a.id) a p = false := by
  rw [behind, List.any_eq_false] at h ⊢
  exact fun x hx => h x (List.mem_filter.mp hx).1

/-! ## The part performed -/

/-- The access's data after a part: a load's takes the bytes read. -/
def dataAfter (s : State) (a : Access) (p : Piece) : Nat :=
  if p.write then a.data else putBits a.data (8 * p.pos) (8 * p.size) (spmRead s (a.core / 8) p.va p.size)
/-- The state after a part: a store's bytes stand in the scratchpad. -/
def spmAfter (s : State) (a : Access) (p : Piece) : State :=
  if p.write then spmWrite s (a.core / 8) p.va p.size (pieceData a p) else s
/-- `c` is the access `a` with one part performed. -/
structure PartDone (s : State) (a : Access) (p : Piece) (c : Access) : Prop where
  id : c.id = a.id
  kind : c.kind = a.kind
  core : c.core = a.core
  ctx : c.ctx = a.ctx
  data : c.data = dataAfter s a p
theorem runPieces_spm {g : Go} (hspm : a.spm = true) (hg : g.bank = true) (hb : behind s a p = false) (hf : spmFree s a p = true)
    (hw : p.write = storesKind a.kind) : ∃ c, runPieces [p] s g a = .fin (spmAfter s a p) c ∧ PartDone s a p c := by
  have hperf : performPiece s { g with hold := holdSC s { a with pieces := [p] } } { a with pieces := [p] } p =
      .done (spmAfter s a p) (if p.write then 0 else spmRead s (a.core / 8) p.va p.size) ctRC := by
    have hf' : spmFree s { a with pieces := [p] } p = true := hf
    rw [performPiece, if_pos hspm, performSpm, if_neg (by simp [hg, hf'])]
    cases hp : p.write with
    | true => rw [if_pos (hw ▸ hp), spmAfter, if_pos hp]; rfl
    | false => rw [if_neg (by rw [← hw, hp]; exact Bool.false_ne_true), spmAfter, if_neg (by simp [hp])]; rfl
  have hb' : ¬behind s { a with pieces := [p] } p = true := by
    rw [show behind s { a with pieces := [p] } p = behind s a p from rfl, hb]
    exact Bool.false_ne_true
  rw [runPieces, if_neg hb', hperf]
  refine ⟨_, rfl, rfl, rfl, rfl, rfl, ?_⟩
  dsimp only
  rw [dataAfter]
  cases p.write <;> rfl
theorem finishAccess_of_store {c : Access} (h : c.kind = .stv ∨ c.kind = .stvx) : finishAccess s c = s := by
  unfold finishAccess
  obtain h | h := h <;> rw [h]
theorem find_of_sole (hs : Sole s a) : s.accesses.find? (fun x => x.id == a.id) = some a := by
  cases hf : s.accesses.find? fun x => x.id == a.id with
  | none => exact absurd (List.find?_eq_none.mp hf a hs.1) (by simp)
  | some x => rw [hs.2 x (List.mem_of_find?_eq_some hf) (by simpa using List.find?_some hf)]
/-- A bank that grants a part of a vector access performs it, and the access goes on with the other parts. -/
theorem grantBank_part (hs : Sole s a) (hspm : a.spm = true) (hp : a.pieces[i]? = some p) (hu : unordered a = true)
    (hw : p.write = storesKind a.kind) (hg : bankGrant s clu bank = some (.core a.core a.id i, b)) :
    ∃ c, PartDone s a p c ∧ grantBank s clu bank =
      if (a.pieces.eraseIdx i).isEmpty then finishAccess (spmAfter (serving s clu bank b a.id) a p) c
      else keepAccess (spmAfter (serving s clu bank b a.id) a p) { c with pieces := a.pieces.eraseIdx i, checked := i != 0 && a.checked } := by
  have hat := atBank_of_bankGrant hs hg
  have hfind : (granted1 s clu bank b).accesses.find? (fun x => x.id == a.id) = some a := find_of_sole hs
  unfold atBank at hat
  simp only [hp, Bool.and_eq_true, Bool.not_eq_true'] at hat
  obtain ⟨⟨⟨⟨-, hover⟩, -⟩, hfree⟩, hbehind⟩ := hat
  obtain ⟨c, hrun, hc⟩ := runPieces_spm (s := serving s clu bank b a.id) (a := { a with checked := i == 0 && a.checked }) (p := p)
    (g := { bank := true }) hspm rfl (behind_serving hbehind) ((spmFree_serving s clu bank b a p).trans hfree) hw
  have hdata : dataAfter (serving s clu bank b a.id) { a with checked := i == 0 && a.checked } p = dataAfter s a p := by
    rw [dataAfter, dataAfter, spmRead_serving]
  refine ⟨c, ⟨hc.id, hc.kind, hc.core, hc.ctx, hc.data.trans hdata⟩, ?_⟩
  have hgrant : grantBank s clu bank = runPart (granted1 s clu bank b) { bank := true } a i := by
    rw [grantBank, hg]
    dsimp only
    rw [← granted1, hfind]
  rw [hgrant, runPart, hp]
  dsimp only
  rw [if_neg (by simp [hu, hover]), ← serving, hrun]
  rfl

/-! ## The bytes after the part -/

theorem byteOf_keepAccess (u : State) (c : Access) (pl : Place) (k : Nat) : byteOf (keepAccess u c) pl k = byteOf u pl k := by
  cases pl <;> rfl
theorem byteOf_serving (s : State) (clu bank : Nat) (b : Bank) (id : Nat) (pl : Place) (k : Nat) :
    byteOf (serving s clu bank b id) pl k = byteOf s pl k := by
  cases pl with
  | spm n =>
    obtain ⟨l, hl⟩ := cluAt_serving s clu bank b id n
    rw [byteOf, hl]
    rfl
  | _ => rfl
theorem byteOf_spmWrite (h : Memory.wf (cluAt s n).spm = true) (off w v : Nat) (pl : Place) (k : Nat) :
    byteOf (spmWrite s n off w v) pl k =
      if pl = .spm n ∧ off ≤ k ∧ k < off + w then BitVec.ofNat 8 (v / 256 ^ (k - off)) else byteOf s pl k := by
  cases pl with
  | spm m =>
    rw [byteOf, spmWrite, cluAt_modClu]
    by_cases hm : m = n
    · subst hm
      rw [if_pos rfl, bget_writeBytes _ _ _ _ h]
      simp [byteOf]
    · rw [if_neg hm, if_neg (by simp [hm])]
      rfl
  | _ => rw [if_neg (by simp)]; rfl
theorem keptMemory_sendV (u : State) (n k r : Nat) (v : Vec) : KeptMemory u (sendV u n k r v) := by
  refine keptMemory_of_kept rfl fun m => ?_
  rw [sendV, modCtx, coreAt_modCore]
  split
  · next h => rw [h]
  · rfl
theorem bytesAt_spm (s : State) (n a k : Nat) : bytesAt s (.spm n) a k = spmRead s n a k := by
  induction k generalizing a with
  | zero => rfl
  | succ k ih => rw [bytesAt, ih]; rfl
theorem dataAfter_eq (s : State) (a : Access) (p : Piece) : dataAfter s a p = if p.write then a.data
    else a.data % 2 ^ (8 * p.pos) + bytesAt s (.spm (a.core / 8)) p.va p.size * 2 ^ (8 * p.pos) +
      a.data / 2 ^ (8 * (p.pos + p.size)) * 2 ^ (8 * (p.pos + p.size)) := by
  have hlt : spmRead s (a.core / 8) p.va p.size < 2 ^ (8 * p.size) := by
    rw [Nat.pow_mul]
    exact readBytes_lt ..
  rw [dataAfter, putBits_eq, Nat.mod_eq_of_lt hlt, bytesAt_spm, ← Nat.mul_add]
end
end Sys2Proof.Machine

/-! # Vector accesses of a tcm: (R206) -/

namespace Sys2Proof.Machine
section
variable {s u : State} {n : Nat}

/-- rd awaits a vector of its own. -/
def awaitingV (rd : Nat) (v : Vec) (c : Ctx) : Ctx := { emptyV c rd with pend := c.pend ++ [.v rd v] }
theorem sendV_emptyV (s : State) (rd : Nat) (v : Vec) :
    sendV (modCur s fun c => emptyV c rd) s.core s.ctx rd v = modCur s (awaitingV rd v) := modCur_modCur s _ _
theorem set32_bit (w : Word) {n m : Nat} (hm : m < 32) : (set32 w n).getLsbD m = (w.getLsbD m || decide (m = n)) := by
  rw [set32, BitVec.getLsbD_or, BitVec.getLsbD_ofNat, Nat.testBit_two_pow, decide_eq_true hm, Bool.true_and, decide_eq_decide.mpr eq_comm]
theorem vFull_emptyV (c : Ctx) (n : Nat) {m : Nat} (hm : m < 32) :
    vFull (emptyV c n).regs m = if m = n then false else vFull c.regs m := by
  simp only [vFull, emptyV, set32_bit _ hm]
  by_cases hmn : m = n <;> simp [hmn]

/-- A bundle that pops nothing, is not watched, and whose instruction sends a vector to v[rd] (R88). -/
theorem issue_awaitsV {i : Instr} (h : Issues s i) (hu : (watchSpan (snapshot s) i).1 = []) (hp : popped s [i] = [])
    (rd : BitVec 6) (v : Vec) (eff : State → State) (he : eff (begin s [i]) = modCur (begin s [i]) (awaitingV rd.toNat v)) :
    ∃ t, issue s i eff = .next t ∧ Advanced s t ∧ AwaitsV s t rd v ∧ KeptX s t ∧ KeptP s t false ∧ Flagged s t false 0 ∧
      KeptAcc s t ∧ KeptCr s t ∧ RegsOnly s t ∧ KeptMemory s t := by
  obtain ⟨t, ht, ⟨w, hw⟩, hlatch, htail, hunits, hcores, hothers⟩ := issue_modCur h (unwatched_of_span hu) hp _ eff he
  refine ⟨t, ht, ⟨?_, ?_, hlatch, htail⟩, ⟨?_, fun n hn => ?_, ?_⟩, fun n _ => ?_, fun n _ => .inr ?_, ?_, ?_, ?_,
    ⟨hunits, hcores, hothers, ?_⟩, keptMemory_of_kept hunits hcores⟩
  · rw [hw]; rfl
  · rw [hw]; rfl
  · rw [hw]; rfl
  · rw [hw]; exact vFull_emptyV _ _ hn
  · rw [hw]; rfl
  · rw [hw]; exact ⟨rfl, rfl⟩
  · rw [hw]; rfl
  · rw [Flagged, hw]; rfl
  · rw [KeptAcc, hw]; rfl
  · rw [KeptCr, hw]; exact ⟨rfl, rfl, rfl, rfl, rfl, rfl, rfl⟩
  · rw [KeptCtx, hw]; rfl

/-! ## 1,024 bytes as lanes -/

theorem readBytes_add (m : FMap Byte) (a k j : Nat) :
    readBytes m a (k + j) = readBytes m a k + 256 ^ k * readBytes m (a + k) j := by
  induction k generalizing a with
  | zero => simp [readBytes]
  | succ k ih =>
    rw [Nat.succ_add, readBytes, readBytes, ih, Nat.pow_succ, Nat.add_assoc a 1 k, Nat.add_comm 1 k]
    ring
theorem readBytes_eq_pack (m : FMap Byte) (a k : Nat) :
    readBytes m a (4 * k) = pack 32 (fun l => (BitVec.ofNat 32 (readBytes m (a + 4 * l) 4)).toNat) k := by
  induction k with
  | zero => rfl
  | succ k ih =>
    have hlt : readBytes m (a + 4 * k) 4 < 2 ^ 32 := readBytes_lt m (a + 4 * k) 4
    rw [Nat.mul_succ, readBytes_add, ih, pack, BitVec.toNat_ofNat, Nat.mod_mod, Nat.mod_eq_of_lt hlt,
      show (256 : Nat) ^ (4 * k) = 2 ^ (32 * k) by rw [Nat.pow_mul, Nat.pow_mul], Nat.mul_comm]
theorem ofNat_readBytes (m : FMap Byte) (a : Nat) :
    BitVec.ofNat 8192 (readBytes m a 1024) = vecOf fun l => BitVec.ofNat 32 (readBytes m (a + 4 * l) 4) := by
  rw [vecOf, ← readBytes_eq_pack]

/-! ## A register stored -/

/-- A register that no stream is bound to is read as it stands (R83). -/
theorem rv_snapshot (h : ∀ e ∈ (cur s).streams, e.2.vd ≠ n) : rv (snapshot s) n = rv (cur s).regs n := by
  unfold snapshot
  refine List.foldlRecOn _ _ (motive := fun r => rv r n = rv (cur s).regs n) rfl fun r hr e he => ?_
  split
  · exact hr
  · split
    · exact ((fget_fset ..).trans (if_neg (h e he).symm)).trans hr
    · exact hr
theorem popped_of_unbound {i : Instr} (h : Unbound s i) : popped s [i] = [] := by
  have hreads : ∀ v ∈ popReads i, v ∈ vReads i := by
    unfold popReads
    split <;> simp
  refine List.filterMap_eq_nil_iff.mpr fun e he => if_neg ?_
  have hvd : e.2.vd ∉ popReads i := fun hmem => h e he (List.mem_append_left _ (hreads _ hmem))
  simp [hvd]
/-- A bundle that pops nothing and whose instruction changes bytes of a TCM alone. -/
theorem bundle_of_sameButTcm {i : Instr} (hp : popped s [i] = []) (h : SameButTcm (begin s [i]) u) :
    Advanced s (endBundle u) ∧ KeptRegs s (endBundle u) ∧ KeptButLocal s (endBundle u) := by
  obtain ⟨hunits, hcores, hothers, -⟩ := begin_kept s i
  obtain ⟨w, hcur⟩ := cur_begin s i
  obtain ⟨-, ecores, eothers, eown⟩ := endBundle_kept u
  have hcore : u.core = s.core := h.core.trans (begin_core s i)
  have hctx : u.ctx = s.ctx := h.ctx.trans (begin_ctx s i)
  have htail : u.tail = none := h.tail.trans (by show tailOf s [i] = none; simp [tailOf, hp])
  have hclusters : u.clusters = s.clusters := (congrArg State.clusters h.units :).trans (congrArg State.clusters hunits :)
  have hown : cur u = { cur s with npc := (cur s).pc + 8, fwd := w } := by rw [cur, h.core, h.ctx, h.ctxAt]; exact hcur
  have hnow : now s (endBundle u) = endCtx none { cur s with npc := (cur s).pc + 8, fwd := w } := by
    rw [now, ← hcore, ← hctx, eown, htail, hown]
  refine ⟨⟨?_, ?_, rfl, rfl⟩, ⟨fun n _ => ?_, ?_, fun n _ => .inr ?_, ?_, ?_, ?_⟩, ?_, fun n => ?_, fun n => ?_,
    fun n k hne => ?_, ?_⟩
  · rw [hnow]; rfl
  · rw [hnow]; rfl
  · rw [hnow]; exact ⟨rfl, rfl⟩
  · rw [KeptV, hnow]; exact ⟨rfl, rfl⟩
  · rw [hnow]; rfl
  · rw [Flagged, hnow]; rfl
  · rw [KeptAcc, hnow]; rfl
  · rw [KeptCr, hnow]; exact ⟨rfl, rfl, rfl, rfl, rfl, rfl, rfl⟩
  · exact (congrArg (fun x : State =>
      { x with cores := s.cores, clusters := s.clusters, latch := s.latch, tail := s.tail }) h.units :).trans
      (congrArg (fun x : State => { x with clusters := s.clusters }) hunits :)
  · exact (congrArg (fun c : Core => { c with tcm := [] }) (ecores n) :).trans
      ((congrArg (fun c : Core => { c with ctxs := [] }) (h.cores n) :).trans
        (congrArg (fun c : Core => { c with tcm := [] }) (hcores n) :))
  · rw [cluAt, show (endBundle u).clusters = s.clusters from hclusters]
    rfl
  · rw [eothers n k (by rw [hcore, hctx]; exact hne), h.ctxAt]
    exact hothers n k hne
  · rw [KeptCtx, hnow]; rfl
theorem keptMemory_begin (s : State) (i : Instr) : KeptMemory s (begin s [i]) :=
  keptMemory_of_kept (begin_kept s i).1 (begin_kept s i).2.1
theorem keptMemory_endBundle (u : State) : KeptMemory u (endBundle u) :=
  keptMemory_of_kept (endBundle_kept u).1 (endBundle_kept u).2.1
theorem ofNat_div (v : Vec) (k : Nat) : BitVec.ofNat 8 (v.toNat / 256 ^ k) = v.extractLsb' (8 * k) 8 := by
  rw [BitVec.extractLsb', Nat.shiftRight_eq_div_pow, Nat.pow_mul]
theorem byteOf_tcmWrite (h : Memory.wf (coreAt s n).tcm = true) (a w v : Nat) (pl : Place) (k : Nat) :
    byteOf (tcmWrite s n a w v) pl k =
      if pl = .tcm n ∧ a ≤ k ∧ k < a + w then BitVec.ofNat 8 (v / 256 ^ (k - a)) else byteOf s pl k := by
  cases pl with
  | tcm m =>
    rw [byteOf, tcmWrite, coreAt_modCore]
    by_cases hm : m = n
    · subst hm
      rw [if_pos rfl, bget_writeBytes _ _ _ _ h]
      simp [byteOf]
    · rw [if_neg hm, if_neg (by simp [hm])]
      rfl
  | l1 m j =>
    rw [if_neg (by simp), byteOf, l1Line, tcmWrite, coreAt_modCore]
    by_cases hm : m = n
    · rw [if_pos hm, hm]
      rfl
    · rw [if_neg hm]
      rfl
  | _ => rw [if_neg (by simp)]; rfl

/-! ## A part of the scratchpad -/

theorem ofNat_bits {d k w : Nat} (lo : Nat) (hk : k < w) :
    BitVec.ofNat 8 (bits d (8 * lo) (8 * w) / 256 ^ k) = BitVec.ofNat 8 (d / 2 ^ (8 * (lo + k))) := by
  refine BitVec.eq_of_getLsbD_eq fun j hj => ?_
  rw [BitVec.getLsbD_ofNat, BitVec.getLsbD_ofNat, show (256 : Nat) ^ k = 2 ^ (8 * k) by rw [Nat.pow_mul], Nat.testBit_div_two_pow,
    Nat.testBit_div_two_pow, bits, Nat.testBit_mod_two_pow, Nat.testBit_div_two_pow, decide_eq_true (show j + 8 * k < 8 * w by omega),
    Bool.true_and, show j + 8 * k + 8 * lo = j + 8 * (lo + k) by omega]
theorem overlaps_of_atBank {a : Access} {p : Piece} {i : Nat} (hp : a.pieces[i]? = some p) (h : atBank s (a, i) = true) :
    (a.pieces.take i).any (overlaps p) = false := by
  unfold atBank at h
  simp only [hp, Bool.and_eq_true, Bool.not_eq_true'] at h
  obtain ⟨⟨⟨⟨-, hover⟩, -⟩, -⟩, -⟩ := h
  exact hover
theorem byteOf_spmAfter {a : Access} {p : Piece} (h : Memory.wf (cluAt s (a.core / 8)).spm = true) (hp : p.write = true) (pl : Place)
    (k : Nat) : byteOf (spmAfter s a p) pl k = if pl = .spm (a.core / 8) ∧ p.va ≤ k ∧ k < p.va + p.size
      then BitVec.ofNat 8 (pieceData a p / 256 ^ (k - p.va)) else byteOf s pl k := by
  rw [spmAfter, if_pos hp, byteOf_spmWrite h]
theorem byteOf_rest {u : State} {c : Access} {b : Prop} [Decidable b] (pl : Place) (k : Nat) :
    byteOf (if b then u else keepAccess u c) pl k = byteOf u pl k := by
  split
  · rfl
  · exact byteOf_keepAccess ..
theorem cores_spmAfter (a : Access) (p : Piece) : (spmAfter s a p).cores = s.cores := by
  unfold spmAfter
  split <;> rfl
theorem accesses_spmAfter (a : Access) (p : Piece) : (spmAfter s a p).accesses = s.accesses := by
  unfold spmAfter
  split <;> rfl
/-- The kinds of vector accesses of a scratchpad. -/
def VectorKind (k : AccessKind) : Prop := k = .stv ∨ k = .stvx ∨ ∃ rd, k = .ldvx rd ∨ ∃ nw, k = .ldv nw rd
theorem unordered_of_vector {a : Access} (h : VectorKind a.kind) (hspm : a.spm = true) : unordered a = true := by
  unfold unordered
  obtain h | h | ⟨rd, h | ⟨nw, h⟩⟩ := h <;> simp [h, hspm]
theorem store_of_storesKind {k : AccessKind} (h : VectorKind k) (hw : storesKind k = true) : k = .stv ∨ k = .stvx := by
  obtain h | h | ⟨rd, h | ⟨nw, h⟩⟩ := h
  · exact .inl h
  · exact .inr h
  · rw [h] at hw; cases hw
  · rw [h] at hw; cases hw
theorem load_of_storesKind {k : AccessKind} (h : VectorKind k) (hw : storesKind k = false) :
    ∃ rd, k = .ldvx rd ∨ ∃ nw, k = .ldv nw rd := by
  obtain h | h | h := h
  · rw [h] at hw; cases hw
  · rw [h] at hw; cases hw
  · exact h
theorem spmAfter_of_load {a : Access} {p : Piece} (h : p.write = false) : spmAfter s a p = s := by
  rw [spmAfter, h]
  rfl
theorem finishAccess_of_ldv {c : Access} {rd : Nat} (h : c.kind = .ldvx rd ∨ ∃ nw, c.kind = .ldv nw rd) :
    finishAccess s c = sendV s c.core c.ctx rd (BitVec.ofNat 8192 c.data) := by
  unfold finishAccess
  obtain h | ⟨nw, h⟩ := h <;> rw [h]
end
end Sys2Proof.Machine

namespace Sys2Proof
open Machine

theorem ldv_of_tcm (s : State) (f : FmtL) (h : Issues s (.ldv f)) (hsp : f.sp = 2) :
    let a := loadAddr (cur s).regs f 64
    ∃ t, exec (.ldv f) s = .next t ∧ Advanced s t ∧
      AwaitsV s t f.rd (vecOf fun l => BitVec.ofNat 32 (bytesAt s (.tcm s.core) (a + 4 * l) 4)) ∧
      KeptX s t ∧ KeptP s t false ∧ Flagged s t false 0 ∧ KeptAcc s t ∧ KeptCr s t ∧ RegsOnly s t ∧ KeptMemory s t := by
  intro a
  obtain ⟨-, hcores, -⟩ := begin_kept s (.ldv f)
  obtain ⟨-, mcores, -⟩ := modCur_kept (begin s [.ldv f]) fun c => emptyV c f.rd.toNat
  have htcm : (coreAt (modCur (begin s [.ldv f]) fun c => emptyV c f.rd.toNat) s.core).tcm = (coreAt s s.core).tcm :=
    (congrArg Core.tcm ((mcores s.core).trans (hcores s.core)) :)
  have hvec : BitVec.ofNat 8192 (tcmRead (modCur (begin s [.ldv f]) fun c => emptyV c f.rd.toNat) s.core a 1024) =
      vecOf fun l => BitVec.ofNat 32 (bytesAt s (.tcm s.core) (a + 4 * l) 4) := by
    simp only [bytesAt_tcm]
    rw [tcmRead, htcm]
    exact ofNat_readBytes ..
  refine issue_awaitsV h ?_ (popped_of_no_vector rfl) f.rd _ _ ?_
  · rw [watchSpan, watchSpan.spanL, hsp]
    rfl
  · refine Eq.trans ?_ (sendV_emptyV (begin s [.ldv f]) f.rd.toNat _)
    dsimp only
    rw [ops_begin, toNat_addrL, loadAddr_snapshot, hsp, show spaceL 2 = 1 from rfl]
    rw [modCur_core, modCur_ctx, begin_core, hvec]
    rfl
theorem stv_of_tcm (s : State) (f : FmtS) (h : Issues s (.stv f)) (hb : Unbound s (.stv f)) (hm : MemoryOk s) (hsp : f.sp = 1) :
    let a := storeAddr (cur s).regs f 64
    ∃ t, exec (.stv f) s = .next t ∧ Advanced s t ∧
      (∀ k, k < 1024 → byteOf t (.tcm s.core) (a + k) = (rv (cur s).regs f.rs2.toNat).extractLsb' (8 * k) 8) ∧
      KeptBut s t (.tcm s.core) a 1024 ∧ KeptRegs s t ∧ KeptButLocal s t := by
  intro a
  have hpop := popped_of_unbound hb
  have hreg : rv (snapshot s) f.rs2.toNat = rv (cur s).regs f.rs2.toNat := rv_snapshot fun e he hvd => hb e he (by rw [hvd]; exact .head _)
  have hexec : exec (.stv f) s = .next (endBundle (tcmWrite (begin s [.stv f]) s.core a 1024 (rv (cur s).regs f.rs2.toNat).toNat)) := by
    show execStv f s = _
    rw [execStv, issue_of_issues h, watch_of_unwatched, reading_of_unpopped hpop]
    · dsimp only
      rw [ops_begin, toNat_addrS, storeAddr_snapshot, hsp, hreg, ← begin_core s (.stv f)]
      rfl
    · refine unwatched_of_span ?_
      rw [watchSpan, watchSpan.spanS, hsp]
      rfl
  obtain ⟨hadv, hregs, hlocal⟩ := bundle_of_sameButTcm hpop
    (.tcmWrite (begin s [.stv f]) s.core a 1024 (rv (cur s).regs f.rs2.toNat).toNat)
  have hwf : Memory.wf (coreAt (begin s [.stv f]) s.core).tcm = true := by
    rw [(congrArg Core.tcm ((begin_kept s (.stv f)).2.1 s.core) :)]
    exact hm.coreAt
  have hbyte (pl : Place) (k : Nat) := (keptMemory_endBundle _ pl k).trans
    (byteOf_tcmWrite hwf a 1024 (rv (cur s).regs f.rs2.toNat).toNat pl k)
  refine ⟨_, hexec, hadv, fun k hk => ?_, fun pl k hk => ?_, hregs, hlocal⟩
  · rw [hbyte, if_pos ⟨rfl, by omega, by omega⟩, Nat.add_sub_cancel_left, ofNat_div]
  · have houtside : ¬(pl = .tcm s.core ∧ a ≤ k ∧ k < a + 1024) := by
      rintro ⟨hpl, hlo, hhi⟩
      have := hk.resolve_left (not_not_intro hpl)
      omega
    rw [hbyte, if_neg houtside]
    exact keptMemory_begin s _ pl k

/-- Settles O25: a load of a tcm: sends its register the bytes, a store writes them, and what a bank grants is a part that
waits there behind nothing (`atBank_of_bankGrant`), which is performed (`grantBank_part`). -/
theorem localVectorAccessesMoveTheirBytes : Obligations.LocalVectorAccessesMoveTheirBytes := by
  refine ⟨ldv_of_tcm, stv_of_tcm, fun s a i p hs hspm hhost hp hkind hw hm b hg => ?_⟩
  intro clu pl gives data
  obtain ⟨c, hc, hgrant⟩ := grantBank_part hs hspm hp (unordered_of_vector hkind hspm) hw hg
  have hgives (t : State) (ht : grantBank s clu (bankOf p.va) = t) : gives t := congrArg Host.Outcome.next ht
  have hdata : c.data = data := hc.data.trans (dataAfter_eq s a p)
  have hlt : i < a.pieces.length := (List.getElem?_eq_some_iff.mp hp).1
  refine ⟨?_, fun hwrite => ?_, fun hread => ?_, fun hmore => ?_, fun hone rd hrd => ?_⟩
  · exact overlaps_of_atBank hp (atBank_of_bankGrant hs hg)
  · have hwf : Memory.wf (cluAt (serving s clu (bankOf p.va) b a.id) clu).spm = true := by
      obtain ⟨l, hl⟩ := cluAt_serving s clu (bankOf p.va) b a.id clu
      rw [hl]
      exact hm.cluAt
    have hfinish : finishAccess (spmAfter (serving s clu (bankOf p.va) b a.id) a p) c =
        spmAfter (serving s clu (bankOf p.va) b a.id) a p := finishAccess_of_store (by rw [hc.kind]; exact store_of_storesKind hkind (hw ▸ hwrite))
    rw [hfinish] at hgrant
    refine ⟨_, hgives _ hgrant, fun k hk => ?_, fun pl' k hk => ?_, ?_⟩
    · rw [byteOf_rest, byteOf_spmAfter hwf hwrite, if_pos ⟨rfl, by omega, by omega⟩, Nat.add_sub_cancel_left, pieceData, ofNat_bits _ hk]
    · have houtside : ¬(pl' = .spm clu ∧ p.va ≤ k ∧ k < p.va + p.size) := by
        rintro ⟨hpl, hlo, hhi⟩
        have := hk.resolve_left (not_not_intro hpl)
        omega
      rw [byteOf_rest, byteOf_spmAfter hwf hwrite, if_neg houtside, byteOf_serving]
    · exact ite_keeps (P := fun t : State => t.cores = s.cores) (cores_spmAfter a p) (cores_spmAfter a p)
  · obtain ⟨rd, hrd⟩ := load_of_storesKind hkind (hw ▸ hread)
    rw [spmAfter_of_load hread, finishAccess_of_ldv (by rw [hc.kind]; exact hrd)] at hgrant
    refine ⟨_, hgives _ hgrant, fun pl' k => ?_⟩
    split
    · exact (keptMemory_sendV ..).trans (byteOf_serving ..)
    · exact (byteOf_keepAccess ..).trans (byteOf_serving ..)
  · have hrest : ¬(a.pieces.eraseIdx i).isEmpty = true := by
      rw [List.isEmpty_iff_length_eq_zero, List.length_eraseIdx_of_lt hlt]
      omega
    rw [if_neg hrest] at hgrant
    exact ⟨_, _, hgives _ hgrant, cores_spmAfter a p, congrArg (insertAcc _) (accesses_spmAfter a p), hc.id, hc.kind, rfl, hdata⟩
  · have hrest : (a.pieces.eraseIdx i).isEmpty = true := by
      rw [List.isEmpty_iff_length_eq_zero, List.length_eraseIdx_of_lt hlt]
      omega
    rw [if_pos hrest, finishAccess_of_ldv (by rw [hc.kind]; exact hrd), hc.core, hc.ctx, hdata] at hgrant
    have hread : p.write = false := by
      rw [hw]
      obtain h | ⟨nw, h⟩ := hrd <;> rw [h] <;> rfl
    rw [spmAfter_of_load hread] at hgrant
    exact hgives _ hgrant

end Sys2Proof

/-! # RETYPE and XINV (R170 to R173, R215, R327, R333) -/

namespace Sys2Proof.Machine
section
variable {s t u : State} {n k p va : Nat}

/-! ## A walk for a leaf leaves the issuing context -/

namespace SameIssuer

/-- A change of anything but the cores and the issuing bundle. -/
theorem others (h : SameIssuer s t) (hcore : u.core = t.core) (hctx : u.ctx = t.ctx) (hlatch : u.latch = t.latch)
    (hcores : u.cores = t.cores) : SameIssuer s u := h.trans (of_cores hcore hctx hlatch hcores)
theorem thenCaches (h : SameIssuer s t) (g : SameButCaches t u) : SameIssuer s u := h.trans (caches g)

theorem recallAll : SameIssuer s (recallAll s k) := caches (.foldl (fun _ _ => .dropL1 ..) _ s)
theorem evictHome : SameIssuer s (evictHome s k) := by
  unfold Machine.evictHome
  split
  · exact .refl s
  · extract_lets s1 s2 s3
    have h1 : SameIssuer s s1 := by
      dsimp only [s1]
      split
      · exact caches (.bump ..)
      · exact .refl s
    have h2 : SameIssuer s s2 := by
      dsimp only [s2]
      split
      · exact h1.thenCaches (.bump ..)
      · exact h1
    have h3 : SameIssuer s s3 := .ite h2 (.ite (h2.others rfl rfl rfl rfl) (h2.others rfl rfl rfl rfl))
    refine .others (t := if _ then _ else _) (.ite (.ite ?_ ?_) h3) rfl rfl rfl rfl
    · exact h3.others rfl rfl rfl rfl
    · exact h3.others rfl rfl rfl rfl
theorem makeRoom (e : makeRoom s n k = some t) : SameIssuer s t := by
  unfold Machine.makeRoom at e
  dsimp only [freeDword] at e
  split at e
  · cases e
    exact .refl s
  split at e
  · cases e
    exact .refl s
  split at e
  · cases e
    have h : SameIssuer s { s with free := s.free + 1 } := of_cores rfl rfl rfl rfl
    exact h.trans (.ite (recallAll.trans evictHome) (of_cores rfl rfl rfl rfl))
  · cases e
theorem gatherToken : SameIssuer s (gatherToken s k) := by
  unfold Machine.gatherToken
  split
  · exact .refl s
  split
  · exact .refl s
  · exact .ite (caches ((SameButCaches.setL1 ..).trans (.modHome ..))) (caches (.dropL1 ..))

end SameIssuer

/-- A fill that succeeds leaves the issuing context. -/
def FillAway (s : State) : Fill → Prop
  | .ok t => SameIssuer s t
  | .refuse _ | .retry _ | .busy => True

namespace SameIssuer

theorem fillHome {pa : Nat} {w : Bool} {ct : BitVec 2} : FillAway s (fillHome s k pa w ct) := by
  unfold Machine.fillHome
  split
  · exact .refl s
  split
  · trivial
  split
  · trivial
  split
  · trivial
  split
  · trivial
  next heq =>
    have ht : SameIssuer s _ := makeRoom heq
    split
    · exact ht.thenCaches (.setHome ..)
    · refine SameIssuer.trans ?_ (caches (.setHome ..))
      exact .ite (ht.others rfl rfl rfl rfl) ht
theorem fillWindow : FillAway s (fillWindow s p va) := by
  unfold Machine.fillWindow
  dsimp only
  split
  · trivial
  have hfill : FillAway s (Machine.fillHome s (lineKey p va) (windowPa (partAt s p) + va % 2 ^ 30 / 64 * 64) true ctSC) := fillHome
  split
  next heq =>
    rw [heq] at hfill
    exact SameIssuer.trans hfill gatherToken
  · exact hfill

end SameIssuer

/-- However a walk for a leaf ends, it leaves the issuing context. -/
def LeafAway (s : State) : LeafRes → Prop
  | .leaf t _ | .none t | .retry t => SameIssuer s t
theorem leafAway_readLeaf {fuel lvl table : Nat} (h : SameIssuer s t) : LeafAway s (readLeaf p va fuel t lvl table) := by
  induction fuel generalizing t lvl table with
  | zero => exact h
  | succ fuel ih =>
    unfold readLeaf
    dsimp only
    have hfill := SameIssuer.fillWindow (s := t) (p := p) (va := windowVa (partAt t p) + (table + 8 * bits va (12 + 9 * lvl) 9) % 2 ^ 30)
    split
    · exact h
    · exact h
    · exact h
    · next heq =>
      rw [heq] at hfill
      have hu : SameIssuer s _ := h.trans hfill
      exact ite_keeps (P := LeafAway s) hu (ite_keeps (P := LeafAway s) hu (ite_keeps (P := LeafAway s) hu (ih hu)))
theorem leafAway_findLeaf (h : SameIssuer s t) : LeafAway s (findLeaf t p va) :=
  ite_keeps (P := LeafAway s) h (leafAway_readLeaf h)
/-- Homes made ready to write leaves leave the issuing context. -/
theorem SameIssuer.leavesReady {l : List Nat} (h : SameIssuer s t) (hl : l.foldl (leavesReady p) (some t) = some u) : SameIssuer s u := by
  induction l generalizing t with
  | nil => exact Option.some.inj hl ▸ h
  | cons a l ih =>
    rw [List.foldl_cons, Machine.leavesReady, Option.bind_some] at hl
    have hfill := SameIssuer.fillWindow (s := t) (p := p) (va := a)
    have hstuck : l.foldl (Machine.leavesReady p) none = none := by
      clear ih hl
      induction l with
      | nil => rfl
      | cons a l ih => exact ih
    split at hl
    · next heq =>
      rw [heq] at hfill
      exact ih (h.trans hfill) hl
    · exact ih h hl
    · rw [hstuck] at hl; cases hl
    · rw [hstuck] at hl; cases hl

/-! ## The page in transition -/

theorem SameIssuer.modPart {q : Nat} {f : Partition → Partition} : SameIssuer s (modPart s q f) := of_cores rfl rfl rfl rfl
/-- RETYPE's refusal (R173). -/
def retypeRefused (va : Nat) (u : State) : State := modCur u fun c =>
  { c with refusals := c.refusals ++ [{ cause := 0x0C, sub := 0, tval := BitVec.ofNat 64 va, rpc := c.pc, defers := true }] }
theorem sendRefusal_retype (u : State) (va : Nat) :
    sendRefusal u u.core u.ctx { cause := 0x0C, sub := 0, tval := dn va, rpc := (cur u).pc, defers := true } = retypeRefused va u :=
  modCur_congr rfl

section
variable {f : FmtR} {l : Leaf} {x : Transit}

theorem tryRetype_waits (hp : partOf s s.core = p) (h : translated s p x.base (x.base + x.size) = true ∨
    (leafVas x.leaf).foldl (leavesReady p) (some s) = none) : tryRetype s f x = waitAgain s (.retype f) .full .defer := by
  unfold tryRetype
  dsimp only
  rw [hp]
  obtain h | h := h
  · rw [if_pos h]
  · rw [h]
    exact ite_self _
theorem tryRetype_ends (hp : partOf s s.core = p) (hfree : translated s p x.base (x.base + x.size) = false)
    (hready : (leafVas x.leaf).foldl (leavesReady p) (some s) = some t) : tryRetype s f x = acquireRange
      (retypePage (modPart t p fun y => { y with transit := y.transit.filter fun z => z != x }) p x.base x.leaf) t.core x.base (x.base + x.size) := by
  have ht : SameIssuer s t := .leavesReady (.refl s) hready
  have hpt : partOf t t.core = p := by rw [ht.core, ht.partOf, hp]
  unfold tryRetype
  dsimp only
  rw [hp, if_neg (by rw [hfree]; exact Bool.false_ne_true), hready]
  dsimp only
  rw [endRetype, hpt]
  rfl

/-- The transition in which RETYPE of the issuing context sets the page of a leaf. -/
def newTransit (s : State) (va : Nat) (l : Leaf) : Transit :=
  { base := va / leafSize l * leafSize l, size := leafSize l, leaf := l, core := s.core, ctx := s.ctx }
/-- RETYPE of a context that holds no page in transition. -/
theorem retypeEff_of_first (hown : ownTransit (reading s (.retype f)) = none) :
    retypeEff (reading s (.retype f)) f =
      match findLeaf (releaseAll (reading s (.retype f)) s.core) (partOf s s.core) (rx (cur s).regs f.rs1.toNat).toNat with
      | .retry u => waitAgain u (.retype f) .full .defer
      | .none u => retypeRefused (rx (cur s).regs f.rs1.toNat).toNat u
      | .leaf u l =>
        let x := newTransit u (rx (cur s).regs f.rs1.toNat).toNat l
        if retypeFails u u.core (partOf s s.core) x.base l then retypeRefused (rx (cur s).regs f.rs1.toNat).toNat u
        else tryRetype (modPart u (partOf s s.core) fun y => { y with transit := y.transit ++ [x] }) f x := by
  have hpop := popped_of_no_vector (s := s) (i := .retype f) rfl
  have hread := operandsRead_reading hpop
  unfold retypeEff
  dsimp only
  rw [hown, rx_ops_reading hpop, hread.partOf, hread.core]
  simp only [sendRefusal_retype]
  rfl
/-- A leaf that the walk of RETYPE finds comes with the issuing context as it was. -/
theorem SameIssuer.foundLeaf (h : findLeaf (releaseAll (Machine.reading s (.retype f)) s.core) p va = .leaf u l) :
    SameIssuer (begin s [.retype f]) u := by
  have hreleased : SameIssuer (begin s [.retype f]) (releaseAll (Machine.reading s (.retype f)) s.core) :=
    (SameIssuer.reading s _).thenCaches (.releaseAll ..)
  have hleaf : LeafAway _ (findLeaf _ p va) := leafAway_findLeaf (p := p) (va := va) hreleased
  rw [h] at hleaf
  exact hleaf

/-! ## XINV's range (R333) -/

theorem xinvRange_reading {g : FmtR} : xinvRange (ops (reading s (.xinv g))) g =
    (if (rx (cur s).regs g.rs2.toNat).toNat / 128 % 2 = 1 then 0 else (rx (cur s).regs g.rs1.toNat).toNat,
      if (rx (cur s).regs g.rs2.toNat).toNat / 128 % 2 = 1 then 2 ^ 57
        else (rx (cur s).regs g.rs1.toNat).toNat + pageSize ((rx (cur s).regs g.rs2.toNat).toNat % 8)) := by
  have hpop := popped_of_no_vector (s := s) (i := .xinv g) rfl
  rw [xinvRange, rx_ops_reading hpop, rx_ops_reading hpop]
  have hbits (d : Nat) : bits d 0 3 = d % 8 := by rw [bits, pow_zero, Nat.div_one]; rfl
  have hbit (d : Nat) : bitAt d 7 = decide (d / 128 % 2 = 1) := by rw [bitAt]; rfl
  rw [hbits, hbit]
  by_cases hall : (rx (cur s).regs g.rs2.toNat).toNat / 128 % 2 = 1
  · rw [if_pos hall, if_pos hall, if_pos (decide_eq_true hall)]
  · rw [if_neg hall, if_neg hall, if_neg (by simpa using hall)]
end
end
end Sys2Proof.Machine

namespace Sys2Proof
open Machine

/-- Settles O36: the walk of RETYPE, and the making ready of its leaf's lines, leave the issuing context
(`SameIssuer.foundLeaf`, `SameIssuer.leavesReady`), so its refusal, its wait and its end go to that context; XINV by its
range (`xinvRange_reading`). -/
theorem retypeAndXinvActOnTheirRange : Obligations.RetypeAndXinvActOnTheirRange := by
  refine ⟨fun s f h => ?_, fun s f h => ?_⟩
  · intro va p refused
    have hpop := popped_of_no_vector (s := s) (i := .retype f) rfl
    have hgives {w : State} (hw : retypeEff (reading s (.retype f)) f = w) : Gives s (.retype f) fun _ => w := gives_of_issue h rfl hw
    refine ⟨fun u l hown hleaf => ?_, fun hwindow => ?_, fun u hown hleaf => ?_⟩
    · intro base x v writable
      have heff := retypeEff_of_first hown
      rw [hleaf] at heff
      obtain ⟨hcore, hctx, -⟩ := (SameIssuer.foundLeaf hleaf).of_begin
      have hx : newTransit u va l = x := by rw [newTransit, hcore, hctx]
      obtain ⟨hvcore, -, hvpart, -⟩ := ((SameIssuer.foundLeaf hleaf).trans (.modPart (q := p)
        (f := fun y => { y with transit := y.transit ++ [x] }))).of_begin
      have hp : partOf v v.core = p := by rw [hvpart, hvcore]
      dsimp only at heff
      rw [hx] at heff
      refine ⟨fun hfails => hgives (heff.trans (if_pos hfails)), fun hgood hfree w hready => ?_, fun hgood hwait => ?_⟩
      · exact hgives ((heff.trans (if_neg (Bool.not_eq_true _ ▸ hgood))).trans (tryRetype_ends hp hfree hready))
      · exact hgives ((heff.trans (if_neg (Bool.not_eq_true _ ▸ hgood))).trans (tryRetype_waits hp hwait))
    · have hparts : (releaseAll (reading s (.retype f)) s.core).parts = s.parts :=
        (congrArg State.parts (SameButCaches.releaseAll _ s.core).units :).trans (operandsRead_reading hpop).parts
      refine if_pos ?_
      rw [partAt, hparts]
      exact hwindow
    · have heff := retypeEff_of_first hown
      rw [hleaf] at heff
      exact hgives heff
  · intro d p lo hi wb hfree
    have hpop := popped_of_no_vector (s := s) (i := .xinv f) rfl
    have hread := operandsRead_reading hpop
    refine gives_of_issue h rfl ?_
    have hwb : (rx (ops (reading s (.xinv f))) f.rs2.toNat).getLsbD 6 = wb := by rw [rx_ops_reading hpop]
    have hp : partOf (reading s (.xinv f)) (reading s (.xinv f)).core = p := by rw [hread.core, hread.partOf]
    show xinvEff _ f = _
    unfold xinvEff
    rw [xinvRange_reading, hwb, hp]
    exact if_neg (by rw [hfree]; exact Bool.false_ne_true)
end Sys2Proof
